-- ==== Sys2Proof/Word.lean ====
section
/-! DEFINITION. The plain words of the part: bytes of the link, and texts made of them. -/

namespace Sys2Proof

/-- A byte as it travels on the host link (10 R181). -/
abbrev Byte := BitVec 8

/-- The characters of a shelf mark or a pattern, one ASCII byte each (12, "Characters"). -/
abbrev Text := List Byte

end Sys2Proof
end

