-- ==== Sys2Proof/Syntax.lean ====
section
/-! DEFINITION. The commands of the part: one constructor of `Instr` for each row of spec/opcode_table.json,
with the fields the spec gives it. A request carries its TAG first (10 R185). An enumerated field is an `Option`:
`none` stands for any value that names none of the values the spec lists, which the request's own rule refuses. -/

namespace Sys2Proof

/-- The four lamp banks (03 R56). -/
inductive LampBank where
  | la | lb | ra | rb
  deriving DecidableEq, Repr

/-- The two cameras (05 section 5.3): A views the left half, B the right half. -/
inductive Camera where
  | a | b
  deriving DecidableEq, Repr

/-- The six pendant inputs (07 section 7.7). -/
inductive Key where
  | halt | confirm | retake | lamp | mark | pedal
  deriving DecidableEq, Repr

/-- What the leaf sensor reports: no leaf, one leaf, two or more (02 R27, R28). -/
inductive LeafReport where
  | zero | one | many
  deriving DecidableEq, Repr

/-- The five fault banks (09 section 9.1). -/
inductive FaultBank where
  | turn | lamp | capture | link | account
  deriving DecidableEq, Repr

/-- Reading direction (00 Table 0-4). -/
inductive Direction where
  | ltr | rtl
  deriving DecidableEq, Repr

/-- Side states (01 Table 1-7). -/
inductive SideState where
  | pending | held | accepted | retake | blank | foldout | absent
  deriving DecidableEq, Repr

/-- Lamp modes of a capture profile (05 Table 5-2). -/
inductive LampMode where
  | fixed | heldLux
  deriving DecidableEq, Repr

/-- Side selections (05 R116). -/
inductive SideSelection where
  | auto | left | right | both
  deriving DecidableEq, Repr

/-- The turning field of a class (01 Table 1-3). -/
inductive Turning where
  | auto | manualOnly
  deriving DecidableEq, Repr

/-- The platen policy of a class (01 Table 1-3). -/
inductive PlatenPolicy where
  | clamp | free
  deriving DecidableEq, Repr

/-- A verdict of TICKET RELEASE (06 R134). -/
inductive Verdict where
  | accept | reject
  deriving DecidableEq, Repr

/-- A source of sync edges (05 R105, R109). -/
inductive SyncSource where
  | external | internal
  deriving DecidableEq, Repr

/-- Run modes (07 Table 7-2). -/
inductive RunMode where
  | pendingOnly | pendingAndRetake
  deriving DecidableEq, Repr

/-- Pendant modes (07 R157). -/
inductive PendantMode where
  | localMode | forward | off
  deriving DecidableEq, Repr

/-- Actions of PROFILE LEVEL (03 R64). -/
inductive LevelAction where
  | up | down | set (v : Nat)
  deriving DecidableEq, Repr

/-- Targets of LAMP CLEAR (03 R67). -/
inductive LampTarget where
  | bank (b : LampBank) | sensor
  deriving DecidableEq, Repr

/-- A lamp driver's report out of band (03 R65). -/
inductive CurrentReport where
  | low | high
  deriving DecidableEq, Repr

/-- The class override field of MOUNT (01 Table 1-5). -/
inductive ClassOverride where
  | absent | cls (c : Nat)
  deriving DecidableEq, Repr

/-- The sides override field of CAPTURE (05 R116). -/
inductive SidesOverride where
  | absent | named (s : Option SideSelection)
  deriving DecidableEq, Repr

/-- Which ticket TICKET READ names (06 R132, R133). -/
inductive TicketRef where
  | serial (n : Nat) | nextUnread
  deriving DecidableEq, Repr

/-- Which bank FAULT READ names (09 R174). -/
inductive BankRef where
  | one (b : FaultBank) | all
  deriving DecidableEq, Repr

/-- Items of SETTINGS READ (11 Table 11-3). -/
inductive SettingItem where
  | k | luxPerStep (b : LampBank) | syncRate | dayLength | pendantMode | restoreOutcome
  deriving DecidableEq, Repr

/-- Item and value of SETTINGS WRITE (11 Table 11-3); `other` is an item that is not in the table. -/
inductive SettingChange where
  | k (v : Nat) | luxPerStep (b : LampBank) (v : Nat) | syncRate (hz : Nat) | dayLength (h : Nat)
  | pendantMode (m : Option PendantMode) | restoreOutcome | other
  deriving DecidableEq, Repr

/-- The fields of PATTERN WRITE (01 R4, 12 Table 12-13). -/
structure PatternFields where
  position : Nat
  enabled  : Option Bool
  cls      : Nat
  pattern  : Text
  deriving DecidableEq, Repr

/-- The record of CLASS WRITE as sent (01 R8, 12 Table 12-12). -/
structure ClassFields where
  dayBudget    : Nat
  openingLimit : Nat
  ambient      : Option Bool
  turning      : Option Turning
  retryLimit   : Nat
  airStart     : Nat
  policy       : Option PlatenPolicy
  forceTarget  : Nat
  dwellLimit   : Nat
  deriving DecidableEq, Repr

/-- The record of PROFILE WRITE as sent (05 R103, 12 Table 12-11). `enable` is the bank set byte. -/
structure ProfileFields where
  mode      : Option LampMode
  enable    : Nat
  levelLa   : Nat
  levelLb   : Nat
  levelRa   : Nat
  levelRb   : Nat
  target    : Nat
  interval  : Nat
  hold      : Option Bool
  settle    : Nat
  exposure  : Nat
  selection : Option SideSelection
  deriving DecidableEq, Repr

/-- The fields of MOUNT (01 Table 1-5, 12 Table 12-5). -/
structure MountFields where
  raw       : Text
  n         : Nat
  direction : Option Direction
  j0        : Nat
  override  : ClassOverride
  foldouts  : List Nat
  blanks    : List (Nat × Nat)
  deriving DecidableEq, Repr

/-- The commands, one constructor for each row of spec/opcode_table.json. -/
inductive Instr where
  -- start, power
  | coldStart (restoreStrap : Bool) (rateStrap : Nat)
  | warmReset
  | powerFail
  -- the host link
  | lockSwitchChange (engaged : Bool)
  | frameReceived (bytes : List Byte)
  | rxTimeout
  | unknownRequest (tag : Byte) (kind : Byte)
  | transmitFrameEnd
  | identify (tag : Byte)
  | clockRead (tag : Byte)
  | reset (tag : Byte)
  | noticeMask (tag : Byte) (mask : Nat)
  | linkStatus (tag : Byte)
  -- settings
  | settingsWrite (tag : Byte) (change : SettingChange)
  | settingsRead (tag : Byte) (item : Option SettingItem)
  | store (tag : Byte)
  | storeComplete
  -- marks, classes, volumes
  | patternWrite (tag : Byte) (fields : PatternFields)
  | patternRead (tag : Byte) (position : Nat)
  | classify (tag : Byte) (raw : Text)
  | classWrite (tag : Byte) (cls : Nat) (fields : ClassFields)
  | classRead (tag : Byte) (cls : Nat)
  | mount (tag : Byte) (fields : MountFields)
  | openingRead (tag : Byte) (first count : Nat)
  | volumeRead (tag : Byte)
  | sideSet (tag : Byte) (first last : Nat) (state : Option SideState)
  | dismount (tag : Byte) (force : Option Bool)
  | tallyRead (tag : Byte)
  -- turning and the platen
  | turn (tag : Byte) (n : Int) (clampAfter : Option Bool)
  | clamp (tag : Byte)
  | unclamp (tag : Byte)
  | halt (tag : Byte)
  | resume (tag : Byte)
  | declarePending (tag : Byte)
  | declare (tag : Byte) (j : Nat)
  | recover (tag : Byte)
  | turnStatus (tag : Byte)
  | guardOpen
  | guardClose
  | leafSensorReport (r : LeafReport)
  | endOfSweep
  | releaseHeadUp
  | armParkMade
  | platenUpMade
  | forceReading (counts : Nat)
  | strokeTimeout
  | homeFail
  | dwellExpiry
  -- illumination
  | preview (tag : Byte) (profile duration : Nat)
  | previewOff (tag : Byte)
  | profileLevel (tag : Byte) (profile : Nat) (bank : Option LampBank) (action : Option LevelAction)
  | lampClear (tag : Byte) (target : Option LampTarget)
  | lampStatus (tag : Byte)
  | bankCurrentFault (bank : LampBank) (report : CurrentReport)
  | regulationComparison
  | previewExpiry
  -- dose
  | doseStatus (tag : Byte)
  | dayMark (tag : Byte) (length : Nat)
  | carryRead (tag : Byte) (index : Nat)
  | carryDrop (tag : Byte) (raw : Text)
  | sensorReading (raw : Nat)
  | sensorSaturated
  | sensorDark
  | ambientAccrual
  | rollover
  -- capture and synchronisation
  | profileWrite (tag : Byte) (index : Nat) (fields : ProfileFields)
  | profileRead (tag : Byte) (index : Nat)
  | capture (tag : Byte) (profile : Nat) (sides : SidesOverride)
  | captureStatus (tag : Byte)
  | syncDetect (tag : Byte)
  | syncSelect (tag : Byte) (source : Option SyncSource)
  | syncStatus (tag : Byte)
  | settleEnd
  | externalSyncEdge (after : Nat)
  | internalSyncEdge
  | syncLoss
  | syncWatchEnd
  | cameraExposing (cam : Camera) (level ready : Bool)
  | exposureElapsed
  | exposingTimeout (cam : Camera)
  | cameraStored (cam : Camera) (ready : Bool)
  | frameLimit
  -- tickets
  | ticketRead (tag : Byte) (ref : TicketRef)
  | ticketRelease (tag : Byte) (count : Nat) (left right : Option Verdict)
  | backlogSet (tag : Byte) (threshold timeout : Nat)
  | ringStatus (tag : Byte)
  | backlogAge
  -- runs and the pendant
  | runStart (tag : Byte) (last profile : Nat) (mode : Option RunMode)
  | runEnd (tag : Byte)
  | runStatus (tag : Byte)
  | pendantMode (tag : Byte) (mode : Option PendantMode)
  | pendantStatus (tag : Byte)
  | pendantInputChange (key : Key) (pressed : Bool)
  | keyPress (key : Key)
  -- fault banks
  | faultRead (tag : Byte) (bank : Option BankRef)
  | faultClear (tag : Byte) (bank : Option FaultBank)
  | faultMask (tag : Byte) (bank : Option FaultBank) (mask : Nat)
  | thresholdSet (tag : Byte) (bank : Option FaultBank) (threshold : Nat)
  | thresholdClear (tag : Byte) (bank : Option FaultBank)
  deriving DecidableEq, Repr

end Sys2Proof
end

