-- ==== Sys2Proof/Machine/State.lean ====
section
/-! DEFINITION. The state of the part, block by block, as plain data, and the state right after reset. -/

namespace Sys2Proof.Machine

/-- Why the model stops. -/
inductive Fault where
  /-- Raised by an idle step in the last millisecond of the 48-bit elapsed clock (04 R89): the spec says the count does
  not wrap in service and gives nothing beyond it. Safe: the model stops where the hardware goes on. Log entry 29. -/
  | clockEnd
  deriving DecidableEq, Repr

/-- Why the model gives a command no meaning. -/
inductive Refusal where
  /-- Raised by an arm of exec whose command has no meaning yet. Safe: the model stops. -/
  | notModelled (mnemonic : String)
  deriving DecidableEq, Repr

/-! ### Small containers -/

/-- One value for each lamp bank. -/
structure PerBank (α : Type) where
  la : α
  lb : α
  ra : α
  rb : α
  deriving DecidableEq, Repr

/-- One value for each pendant input. -/
structure PerKey (α : Type) where
  halt    : α
  confirm : α
  retake  : α
  lamp    : α
  mark    : α
  pedal   : α
  deriving DecidableEq, Repr

/-- One value for each fault bank. -/
structure PerFaultBank (α : Type) where
  turn    : α
  lamp    : α
  capture : α
  link    : α
  account : α
  deriving DecidableEq, Repr

/-! ### Working settings (11 Table 11-2) -/

/-- An entry of the pattern table (01 section 1.2). -/
structure PatternEntry where
  enabled : Bool
  pattern : Text
  cls     : Nat
  deriving DecidableEq, Repr

/-- A handling-class record (01 Table 1-3). -/
structure ClassRec where
  dayBudget    : Nat
  openingLimit : Nat
  ambient      : Bool
  turning      : Turning
  retryLimit   : Nat
  airStart     : Nat
  policy       : PlatenPolicy
  forceTarget  : Nat
  dwellLimit   : Nat
  deriving DecidableEq, Repr

/-- A capture profile (05 Table 5-2). -/
structure Profile where
  mode      : LampMode
  enabled   : PerBank Bool
  levels    : PerBank Nat
  target    : Nat
  interval  : Nat
  hold      : Bool
  settle    : Nat
  exposure  : Nat
  selection : SideSelection
  deriving DecidableEq, Repr

/-- The working settings (11 Table 11-2). The settings store holds a copy of the same shape. -/
structure Settings where
  patterns         : List PatternEntry
  classes          : List ClassRec
  profiles         : List Profile
  k                : Nat
  luxPerStep       : PerBank Nat
  syncRate         : Nat
  backlogThreshold : Nat
  backlogTimeout   : Nat
  noticeMask       : BitVec 12
  faultMasks       : PerFaultBank (BitVec 8)
  thresholds       : PerFaultBank Nat
  pendantMode      : PendantMode
  dayLength        : Nat
  deriving DecidableEq, Repr

/-- The factory class record (01 Table 1-3). -/
def ClassRec.factory : ClassRec :=
  { dayBudget := 1800000, openingLimit := 36000, ambient := true, turning := .auto, retryLimit := 3
    airStart := 2, policy := .clamp, forceTarget := 800, dwellLimit := 120 }

/-- The factory profile (05 Table 5-2). -/
def Profile.factory : Profile :=
  { mode := .fixed, enabled := ⟨true, true, true, true⟩, levels := ⟨50, 50, 50, 50⟩, target := 2000
    interval := 4, hold := true, settle := 20, exposure := 100, selection := .auto }

/-- The factory settings (11 Table 11-2). The fault masks enable the seven, six, three, four and two codes of the
banks (09 Table 9-2). -/
def Settings.factory : Settings :=
  { patterns := List.replicate 12 { enabled := false, pattern := [], cls := 0 }
    classes := List.replicate 8 ClassRec.factory
    profiles := List.replicate 4 Profile.factory
    k := 16, luxPerStep := ⟨100, 100, 100, 100⟩, syncRate := 50
    backlogThreshold := 8, backlogTimeout := 30, noticeMask := 0xFFF#12
    faultMasks := ⟨0x7F#8, 0x3F#8, 0x07#8, 0x0F#8, 0x03#8⟩
    thresholds := ⟨16, 16, 16, 16, 16⟩, pendantMode := .localMode, dayLength := 24 }

/-! ### Pins (11 Table 11-4) -/

/-- The levels at the part's input pins. `sensorRaw` is what the light sensor's converter gives, 0 to 4095 (04 R75). -/
structure Pins where
  restoreStrap : Bool
  rateStrap    : Nat
  lockEngaged  : Bool
  guardOpen    : Bool
  armPark      : Bool
  platenUp     : Bool
  leafSensor   : LeafReport
  sensorRaw    : Nat
  readyA       : Bool
  readyB       : Bool
  exposingA    : Bool
  exposingB    : Bool
  keys         : PerKey Bool
  deriving DecidableEq, Repr

/-! ### Start-up (11 R191) -/

/-- The steps of cold start that take time, and the end of start-up. -/
inductive StartPhase where
  | detecting | guardWait | homing | done
  deriving DecidableEq, Repr

/-- The outcome of the restore step. -/
inductive RestoreOutcome where
  | restored | factory | factoryCrcBad
  deriving DecidableEq, Repr

/-- The phase of homing that moves (02 R53). -/
inductive HomePart where
  | platen | arm
  deriving DecidableEq, Repr

/-- The outcome of the start-up homing: done, or HOME-FAIL with the phase named. -/
inductive HomingOutcome where
  | done | failed (part : HomePart)
  deriving DecidableEq, Repr

structure Start where
  phase          : StartPhase
  guardWaits     : Nat
  restoreOutcome : RestoreOutcome
  homing         : Option HomingOutcome
  deriving DecidableEq, Repr

/-! ### SAU: shelf marks and accounts (01, 08) -/

/-- Where the class of a mount came from (01 R13). -/
inductive ClassSource where
  | matched | override
  deriving DecidableEq, Repr

/-- The mounted-volume record (01 R17). -/
structure Volume where
  mark      : Text
  n         : Nat
  direction : Direction
  j0        : Nat
  mountNo   : Nat
  cls       : Nat
  source    : ClassSource
  position  : Option Nat
  limits    : ClassRec
  foldouts  : List Nat
  blanks    : List (Nat × Nat)
  deriving DecidableEq, Repr

/-- An entry of the opening table (01 R15). -/
structure Opening where
  left  : SideState
  right : SideState
  dose  : Nat
  deriving DecidableEq, Repr

/-- Why a volume was dismounted (08 Table 8-2). -/
inductive TallyCause where
  | dismount | forced | warmReset
  deriving DecidableEq, Repr

/-- Counts of the six live side states (01 R20, 08 Table 8-2). -/
structure SideCounts where
  pending  : Nat
  held     : Nat
  accepted : Nat
  retake   : Nat
  blank    : Nat
  foldout  : Nat
  deriving DecidableEq, Repr

/-- The tally record (08 Table 8-2). -/
structure Tally where
  mark          : Text
  mountNo       : Nat
  cls           : Nat
  source        : ClassSource
  n             : Nat
  direction     : Direction
  cause         : TallyCause
  time          : Nat
  counts        : SideCounts
  forcedRetakes : Nat
  dayDose       : Nat
  carriedIn     : Nat
  turnsDone     : Nat
  missRetries   : Nat
  doubleRetries : Nat
  doseSkips     : Nat
  gapCount      : Nat
  gapSides      : Nat
  gaps          : List (Nat × Nat)
  truncated     : Bool
  deriving DecidableEq, Repr

structure Sau where
  mountCounter : Nat
  volume       : Option Volume
  openings     : List Opening
  tally        : Option Tally
  deriving DecidableEq, Repr

/-! ### TC: turning and the platen (02) -/

/-- The states of TC, in the order of 02 Table 2-3. -/
inductive TcState where
  | homing | unclamped | lowering | clamped | raising | lifting | carrying | releasing | returning
  | halted | seek | attention | safeStop
  deriving DecidableEq, Repr

/-- The operations of a TURN notice (02 R33). -/
inductive OpKind where
  | turn | clamp | unclamp | dismount | recover | homing
  deriving DecidableEq, Repr

/-- The results of a TURN notice (02 R33). -/
inductive OpResult where
  | done | foldoutStop | fault | halted | stopped | dismounted
  deriving DecidableEq, Repr

/-- The operation record (02 section 2.4); `forward` has no meaning but in a turn. `byRun`: RC sent it (07 R143). -/
structure Op where
  kind        : OpKind
  forward     : Bool
  remaining   : Nat
  turned      : Nat
  clampAfter  : Bool
  fromClamped : Bool
  byRun       : Bool
  deriving DecidableEq, Repr

/-- What the raise in progress is for: the first lift of a turn (R25, R44); UNCLAMP or a dwell raise (R36, R41); a dwell
raise from HALTED (R41); a foldout found at RESUME (R44); a fault, toward ATTENTION (R38, R39); a dismount (08 R163);
a recovery (R51). -/
inductive RaiseGoal where
  | lift | unclamp | backToHalted | foldoutStop | fault | dismount (forced : Bool) | recover
  deriving DecidableEq, Repr

/-- What the arm's return is for: the next leaf or the turn's end (R31); the way to ATTENTION of an exhausted leaf (R29);
a recovery (R51). -/
inductive ReturnGoal where
  | turn | exhausted | recover
  deriving DecidableEq, Repr

/-- The state a recovery leads to (02 Table 2-7). -/
inductive RecoverGoal where
  | halted | seek | attention | dismounted
  deriving DecidableEq, Repr

/-- Fault codes, in the order of 12 Table 12-10. -/
inductive FaultCode where
  | strokeTimeout | missExhausted | doubleExhausted | doubleDetected | platenOverforce | guardOpen | homeFail
  | bankOpen | bankShort | sensorSaturated | sensorDark | regMiss | doseExhausted
  | frameTimeout | syncLost | ringFull
  | badCrc | badLength | rxTimeout | overrun
  | storeCrc | carryEvict
  deriving DecidableEq, Repr

/-- What TC holds in ATTENTION, and on the way to it (02 R48). -/
structure Attention where
  code      : FaultCode
  sign      : Option Bool
  remaining : Nat
  deriving DecidableEq, Repr

/-- What began the homing (02 R53). -/
inductive HomeCause where
  | coldStart | warmReset | attention
  deriving DecidableEq, Repr

/-- TC's part of the state (02). -/
structure Tc where
  state            : TcState
  j                : Nat
  op               : Option Op
  loweringDue      : Bool
  attempt          : Nat
  air              : Nat
  leafInHand       : Bool
  vacuum           : Bool
  knife            : Nat
  atForce          : Bool
  force            : Nat
  phaseStart       : Nat
  dwellStart       : Option Nat
  pendingDwell     : Bool
  pendingOverforce : Bool
  haltMark         : Bool
  stopMark         : Bool
  raiseGoal        : Option RaiseGoal
  returnGoal       : Option ReturnGoal
  attention        : Option Attention
  origin           : Option TcState
  faultPending     : Bool
  recover          : Option RecoverGoal
  homePhase        : Option HomePart
  homeCause        : HomeCause
  homeByRecover    : Bool
  resetStroke      : Bool
  turnsDone        : Nat
  missRetries      : Nat
  doubleRetries    : Nat
  deriving DecidableEq, Repr

/-! ### LC: illumination (03) -/

/-- A bank record (03 R56), with the level before the latest change of a lit bank and the time of that change, since a
change takes effect at the start of the next frame (R57). -/
structure BankRec where
  faulted   : Bool
  kind      : Option FaultCode
  level     : Nat
  lit       : Bool
  prevLevel : Nat
  changedAt : Nat
  deriving DecidableEq, Repr

inductive WindowKind where
  | capture | preview
  deriving DecidableEq, Repr

/-- A lamp window in progress, with what LC read from the profile at its start (03 R59, R61 to R63, 05 R102). -/
structure Window where
  kind        : WindowKind
  profile     : Nat
  mode        : LampMode
  target      : Nat
  interval    : Nat
  hold        : Bool
  nextCompare : Option Nat
  held        : Bool
  startLevels : Option (PerBank (Option Nat))
  deriving DecidableEq, Repr

/-- A LIT preview (03 section 3.7), times in ms of the elapsed clock. -/
structure Preview where
  profile : Nat
  start   : Nat
  finish  : Nat
  deriving DecidableEq, Repr

/-- The result of a preview's end (03 R70 to R74). -/
inductive PreviewEnd where
  | expired | off | cut | dark | reset
  deriving DecidableEq, Repr

structure Lc where
  banks     : PerBank BankRec
  window    : Option Window
  preview   : Option Preview
  lastEnd   : Option PreviewEnd
  learned   : List (PerBank Nat)
  frameEdge : Option Nat
  deriving DecidableEq, Repr

/-! ### DI: light dose (04) -/

/-- An entry of the dose carry table (04 R94). -/
structure CarryEntry where
  mark : Text
  dose : Nat
  time : Nat
  cls  : Nat
  deriving DecidableEq, Repr

structure Di where
  raw         : Nat
  lux         : Nat
  lastRead    : Option Nat
  lastAmbient : Option Nat
  remainder   : Nat
  dayDose     : Nat
  carriedIn   : Nat
  exhausted   : Bool
  warned      : Bool
  satCount    : Nat
  darkCount   : Nat
  sensorDark  : Bool
  dayStart    : Nat
  alarm       : Nat
  carry       : List CarryEntry
  deriving DecidableEq, Repr

/-! ### CC: capture, tickets, sync (05, 06) -/

/-- Capture states (05 Table 5-7). -/
inductive CaptureState where
  | idle | settle | waitEdge | expose | collect
  deriving DecidableEq, Repr

/-- Results of a covered side (06 R129). -/
inductive SideResult where
  | stored | noFrame | doseCut | guardCut | sensorCut | resetCut
  deriving DecidableEq, Repr

/-- A covered half of a ticket (06 Table 6-2). -/
structure Half where
  side       : Nat
  result     : Option SideResult
  superseded : Bool
  deriving DecidableEq, Repr

/-- A ticket that is not FREE (06 Table 6-2); `closed` tells CLOSED from OPEN. -/
structure Ticket where
  serial       : Nat
  closed       : Bool
  mountNo      : Nat
  opening      : Nat
  left         : Option Half
  right        : Option Half
  orphaned     : Bool
  read         : Bool
  profile      : Nat
  mode         : LampMode
  settle       : Nat
  exposure     : Nat
  startLux     : Option Nat
  startLevels  : Option (PerBank Nat)
  lampDegraded : Bool
  underLit     : Bool
  syncSwitched : Bool
  source       : Option SyncSource
  dose         : Nat
  openTime     : Nat
  closeTime    : Option Nat
  deriving DecidableEq, Repr

/-- What CC follows of a camera (05 R115, R119, R120). -/
structure Cam where
  triggered   : Bool
  raised      : Bool
  done        : Bool
  stored      : Bool
  lastStored  : Option Nat
  lastTrigger : Option Nat
  deriving DecidableEq, Repr

/-- Sync selector states (05 Table 5-4). -/
inductive SyncState where
  | detecting | external | internal | manualExternal | manualExternalLost | manualInternal
  deriving DecidableEq, Repr

/-- The sync selector; all times in µs (05 R105). `gen` is the time of the internal generator's latest edge, `none`
while it is stopped. -/
structure Sync where
  state      : SyncState
  lastPeriod : Option Nat
  goodCount  : Nat
  found      : Bool
  watchEnd   : Nat
  lastExt    : Option Nat
  gen        : Option Nat
  delivered  : Option Nat
  deriving DecidableEq, Repr

structure Cc where
  state       : CaptureState
  openedAt    : Nat
  triggeredAt : Option Nat
  lampsOffAt  : Option Nat
  elapsed     : Bool
  limitPassed : Bool
  cut         : Option SideResult
  camA        : Cam
  camB        : Cam
  oldest      : Nat
  tickets     : List Ticket
  nextSerial  : Nat
  backlog     : Bool
  sync        : Sync
  deriving DecidableEq, Repr

/-! ### RC and PS: runs and the pendant (07) -/

/-- Reasons of a PAUSED run (07 Table 7-2). -/
inductive PauseReason where
  | tickets | sync | camera | lamp | manualTurn | foldout | turnFault | guard | halt
  deriving DecidableEq, Repr

/-- Reasons of an ENDED run (07 Table 7-2). -/
inductive EndReason where
  | complete | exhausted | aborted | outOfRange
  deriving DecidableEq, Repr

/-- The run state with its reason (07 R143). -/
inductive RunState where
  | idle | active | paused (r : PauseReason) | ended (r : EndReason)
  deriving DecidableEq, Repr

inductive StepPhase where
  | none | clamping | capturing | turning | unclamping | waiting
  deriving DecidableEq, Repr

/-- What a WAITING run takes up when TC is settled (07 R148): the step at its beginning, or its end. -/
inductive DuePart where
  | step | stepEnd
  deriving DecidableEq, Repr

/-- The end of an operation as TC tells it to RC. -/
structure HeardEnd where
  kind   : OpKind
  result : OpResult
  byRun  : Bool
  deriving DecidableEq, Repr

/-- The run record (07 Table 7-2) and RC's own fields. `heardEnd` and `heardClose` are filled and emptied inside one
step: the completions TC and CC tell RC (00 Table 0-2). -/
structure Rc where
  state         : RunState
  first         : Option Nat
  last          : Option Nat
  profile       : Option Nat
  mode          : Option RunMode
  phase         : StepPhase
  haltRequested : Bool
  pauseOpening  : Option Nat
  captured      : Nat
  doseSkipped   : Nat
  volumeSkips   : Nat
  due           : Option DuePart
  ticket        : Option Nat
  heardEnd      : Option HeardEnd
  heardClose    : Option Nat
  deriving DecidableEq, Repr

/-- Result codes, in the order of 12 Table 12-3. -/
inductive Result where
  | ok | accepted | busy | state | argument | locked | notMounted | doseOpening | doseVolume | ringFull | held
  | noSync | camera | lamp | sensor | cls | nothing | opened | absent | tickets | guard | unknown | starting
  deriving DecidableEq, Repr

/-- A debounced input (07 R156): stable level (pressed or not), and a candidate level with the time in µs at which it was
first seen. -/
structure KeyInput where
  stable    : Bool
  candidate : Option (Bool × Nat)
  deriving DecidableEq, Repr

/-- What a key asked for (07 R157, R158): a request of the host's kinds, or the action of CONFIRM or RETAKE. -/
inductive LocalRequest where
  | halt | resume | capture | preview | previewOff | confirm | retake
  deriving DecidableEq, Repr

/-- The last local result (07 R157, R160): the key, what it asked for with its result code, and the time in ms. A press that
acted on nothing has neither. -/
structure LocalResult where
  key     : Key
  request : Option LocalRequest
  result  : Option Result
  time    : Nat
  deriving DecidableEq, Repr

structure Ps where
  inputs    : PerKey KeyInput
  lastLocal : Option LocalResult
  deriving DecidableEq, Repr

/-! ### FB: fault banks (09) -/

/-- A valid fault record (09 R170). `detail` holds the items of 12 Table 12-10 in order. -/
structure FaultRecord where
  overflow : Bool
  code     : FaultCode
  detail   : List Nat
  time     : Nat
  mountNo  : Option Nat
  deriving DecidableEq, Repr

/-- A fault bank: its record (`none`: not valid), threshold count and crossed flag (09 R170, R176). -/
structure FaultBankState where
  record  : Option FaultRecord
  count   : Nat
  crossed : Bool
  deriving DecidableEq, Repr

structure Fb where
  banks : PerFaultBank FaultBankState
  deriving DecidableEq, Repr

/-! ### LK: the host link (10) -/

/-- A value in the body of a reply or notice. Where chapter 12 gives a byte layout the value is `bytes`; elsewhere the
fields stand in the order in which the owning rule lists them. `time` is an elapsed-clock time, or none (12, "Elapsed-clock
times"). Log entry 7. -/
inductive Item where
  | num (n : Nat)
  | int (i : Int)
  | flag (b : Bool)
  | bytes (l : List Byte)
  | time (t : Option Nat)
  | nums (l : List Nat)
  | missing
  deriving DecidableEq, Repr

/-- A reply frame (10 R185). -/
structure Reply where
  kind   : Byte
  tag    : Byte
  result : Result
  body   : List Item
  deriving DecidableEq, Repr

/-- The twelve notice kinds, in transmitter order (10 Table 10-3) and KIND order (12 Table 12-2). -/
inductive NoticeKind where
  | safety | fault | start | turn | capture | run | dose | backlog | threshold | sync | dwell | pendant
  deriving DecidableEq, Repr

/-- The frame being sent (10 R189). -/
inductive TxFrame where
  | reply (r : Reply)
  | notice (k : NoticeKind) (body : List Item)
  deriving DecidableEq, Repr

/-- Reasons a DOSE notice gathers (04 R88). -/
inductive DoseReason where
  | warning | exhausted | rollover
  deriving DecidableEq, Repr

/-- Triggers a BACKLOG notice gathers (06 R139). -/
inductive BacklogTrigger where
  | count | age
  deriving DecidableEq, Repr

/-- The end a TURN notice carries (02 R33). -/
structure TurnEnd where
  kind      : OpKind
  result    : OpResult
  turned    : Nat
  remaining : Nat
  j         : Nat
  state     : TcState
  deriving DecidableEq, Repr

/-- What a START notice carries beside the line rate (11 R191). -/
structure StartReport where
  restore    : RestoreOutcome
  sync       : SyncState
  guardWaits : Nat
  homing     : HomingOutcome
  deriving DecidableEq, Repr

/-- The contents the notice kinds gather until they are sent (10 R188). -/
structure Gathered where
  newRecords : List FaultBank
  overflows  : List FaultBank
  start      : Option StartReport
  turnEnd    : Option TurnEnd
  dose       : List DoseReason
  backlog    : List BacklogTrigger
  crossed    : List FaultBank
  syncLost   : Bool
  keys       : List Key
  deriving DecidableEq, Repr

/-- Nothing gathered. -/
def Gathered.none : Gathered :=
  { newRecords := [], overflows := [], start := Option.none, turnEnd := Option.none, dose := [], backlog := []
    crossed := [], syncLost := false, keys := [] }

/-- The receiver (10 R183). IN-FRAME holds the bytes from SYNC on and the time in µs of the last of them. -/
inductive Receiver where
  | hunting
  | inFrame (bytes : List Byte) (last : Nat)
  deriving DecidableEq, Repr

/-- A good frame in the receive queue: its KIND and TAG, and the request it carries, or none where its KIND is known and
its BODY fails the layout (10 R184, R185). -/
structure RxFrame where
  kind    : Byte
  tag     : Byte
  request : Option Instr
  deriving DecidableEq, Repr

structure Lk where
  rate       : Nat
  receiver   : Receiver
  queue      : List RxFrame
  inHand     : Option (Byte × Byte)
  slot       : Option Reply
  resetTaken : Bool
  sending    : Option TxFrame
  pendingSet : BitVec 12
  gathered   : Gathered
  deriving DecidableEq, Repr

/-! ### SS: the settings store (11) -/

/-- The settings store: the stored copy, whether its CRC checks, the copy being written with the time in µs at which the
write began, and the time in ms of the last STORE completed (11 R193, R194). Log entry 38. -/
structure Ss where
  copy      : Settings
  crcGood   : Bool
  writing   : Option (Settings × Nat)
  lastStore : Option Nat
  deriving DecidableEq, Repr

/-! ### The whole part -/

/-- The state of the part. `now` is in µs since cold start: the elapsed clock is `now / 1000` (04 R89, 05 R105).
`pending` is the queue of waiting commands. -/
structure State where
  now     : Nat
  powered : Bool
  start   : Start
  pins    : Pins
  set     : Settings
  sau     : Sau
  tc      : Tc
  lc      : Lc
  di      : Di
  cc      : Cc
  rc      : Rc
  ps      : Ps
  fb      : Fb
  lk      : Lk
  ss      : Ss
  pending : List Instr
  deriving DecidableEq, Repr

/-! ### Cold-start values of the blocks -/

/-- SAU after cold start (01 R21, 08 R168). -/
def Sau.cold : Sau :=
  { mountCounter := 0, volume := none, openings := [], tally := none }

/-- TC after cold start, before the homing step (02 R55). Log entries 9 and 20. -/
def Tc.cold : Tc :=
  { state := .homing, j := 0, op := none, loweringDue := false, attempt := 0, air := 0, leafInHand := false
    vacuum := false, knife := 0, atForce := false, force := 0, phaseStart := 0, dwellStart := none
    pendingDwell := false, pendingOverforce := false, haltMark := false, stopMark := false
    raiseGoal := none, returnGoal := none, attention := none, origin := none, faultPending := false
    recover := none, homePhase := none, homeCause := .coldStart, homeByRecover := false, resetStroke := false
    turnsDone := 0, missRetries := 0, doubleRetries := 0 }

/-- A bank after cold start (03 R74). -/
def BankRec.cold : BankRec :=
  { faulted := false, kind := none, level := 0, lit := false, prevLevel := 0, changedAt := 0 }

/-- LC after cold start: the learned levels are the levels of the profiles just loaded (03 R74). -/
def Lc.cold (profiles : List Profile) : Lc :=
  { banks := ⟨BankRec.cold, BankRec.cold, BankRec.cold, BankRec.cold⟩, window := none, preview := none
    lastEnd := none, learned := profiles.map Profile.levels, frameEdge := none }

/-- DI after cold start: the day starts at 0 and the alarm stands at the day length (04 R90, R101). Log entry 9. -/
def Di.cold (dayLength : Nat) : Di :=
  { raw := 0, lux := 0, lastRead := none, lastAmbient := none, remainder := 0, dayDose := 0, carriedIn := 0
    exhausted := false, warned := false, satCount := 0, darkCount := 0, sensorDark := false
    dayStart := 0, alarm := dayLength * 3600000, carry := [] }

/-- A camera that no capture has triggered. -/
def Cam.idle : Cam :=
  { triggered := false, raised := false, done := false, stored := false, lastStored := none, lastTrigger := none }

/-- The selector at the sync step of start-up: detection from time 0 (05 R106, R114). -/
def Sync.cold : Sync :=
  { state := .detecting, lastPeriod := none, goodCount := 0, found := false, watchEnd := 500000
    lastExt := none, gen := none, delivered := none }

/-- CC after cold start (05 R126, 06 R142). -/
def Cc.cold : Cc :=
  { state := .idle, openedAt := 0, triggeredAt := none, lampsOffAt := none, elapsed := false
    limitPassed := false, cut := none, camA := Cam.idle, camB := Cam.idle, oldest := 0, tickets := []
    nextSerial := 1, backlog := false, sync := Sync.cold }

/-- RC after cold start (07 R155). -/
def Rc.cold : Rc :=
  { state := .idle, first := none, last := none, profile := none, mode := none, phase := .none
    haltRequested := false, pauseOpening := none, captured := 0, doseSkipped := 0, volumeSkips := 0
    due := none, ticket := none, heardEnd := none, heardClose := none }

/-- PS takes each input's level as read for its stable level (07 R156). -/
def Ps.asRead (keys : PerKey Bool) (lastLocal : Option LocalResult) : Ps :=
  { inputs := { halt := ⟨keys.halt, none⟩, confirm := ⟨keys.confirm, none⟩, retake := ⟨keys.retake, none⟩
                lamp := ⟨keys.lamp, none⟩, mark := ⟨keys.mark, none⟩, pedal := ⟨keys.pedal, none⟩ }
    lastLocal := lastLocal }

/-- A fault bank after cold start (09 R180). -/
def FaultBankState.cold : FaultBankState :=
  { record := none, count := 0, crossed := false }

/-- FB after cold start (09 R180). -/
def Fb.cold : Fb :=
  { banks := ⟨FaultBankState.cold, FaultBankState.cold, FaultBankState.cold, FaultBankState.cold,
              FaultBankState.cold⟩ }

/-- LK after cold start, at the rate the strap selects (10 R190). -/
def Lk.cold (rate : Nat) : Lk :=
  { rate := rate, receiver := .hunting, queue := [], inHand := none, slot := none, resetTaken := false
    sending := none, pendingSet := 0, gathered := Gathered.none }

/-- The store as it leaves manufacture: the factory values and a CRC that checks (11). -/
def Ss.manufactured : Ss :=
  { copy := Settings.factory, crcGood := true, writing := none, lastStore := none }

/-- The pins at reset. DESIGN CHOICE: log entry 8. -/
def Pins.initial : Pins :=
  { restoreStrap := false, rateStrap := 0, lockEngaged := false, guardOpen := false, armPark := true
    platenUp := true, leafSensor := .zero, sensorRaw := 0, readyA := true, readyB := true, exposingA := false, exposingB := false
    keys := ⟨false, false, false, false, false, false⟩ }

/-- Start-up at its beginning (11 R191). -/
def Start.cold (outcome : RestoreOutcome) : Start :=
  { phase := .detecting, guardWaits := 0, restoreOutcome := outcome, homing := none }

/-- Every block at its cold-start value with the settings loaded: steps 1 and 2 of cold start are done and step 3,
detection, begins (11 R191). -/
def State.cold (pins : Pins) (rate : Nat) (settings : Settings) (outcome : RestoreOutcome) (ss : Ss)
    (pending : List Instr) : State :=
  { now := 0, powered := true, start := Start.cold outcome, pins := pins, set := settings
    sau := Sau.cold, tc := Tc.cold, lc := Lc.cold settings.profiles, di := Di.cold settings.dayLength
    cc := Cc.cold, rc := Rc.cold, ps := Ps.asRead pins.keys none, fb := Fb.cold, lk := Lk.cold rate, ss := ss
    pending := pending }

/-- The part right after reset: in cold start, with the factory settings loaded (restore strap clear) and detection
begun, and no command waiting. Log entry 8. -/
def State.reset : State :=
  State.cold Pins.initial 115200 Settings.factory .factory Ss.manufactured []

end Sys2Proof.Machine
end

