-- ==== Sys2Proof/Config.lean ====
section
/-! DEFINITION. What the spec leaves open: constants without a body, so that nothing can be proved of their values. -/

namespace Sys2Proof.Config

/-- The part's 32-bit serial number, fixed when the part is made (10 R186). Free value: log entry 6. -/
opaque serialNumber : BitVec 32

/-- The request a BODY carries, for a request KIND whose body layout chapter 12 does not give (12 R195 fixes only the
layouts it gives). `none`: the body does not fit its layout. Free value: log entry 5. -/
opaque unstatedBody : (kind : Byte) → (tag : Byte) → (body : List Byte) → Option Instr

/-- The bytes of one field of a reply or notice that chapter 12 does not lay out, by the KIND and the field's place in it.
Free value: log entry 7. -/
opaque unstatedField : (kind : Byte) → (place : Nat) → (field : Machine.Item) → List Byte

end Sys2Proof.Config
end

