-- ==== Sys2Proof/Decode.lean ====
section
/-! DEFINITION. What bytes and words mean: the opcode table's words, the KIND codes of the requests (12 Table 12-1),
the body layouts chapter 12 gives, and the CRC of a frame (10 R182). -/

namespace Sys2Proof

/-- The rows of spec/opcode_table.json give no bits, so no word spells a command. -/
def decodeTableWord (_nbits _w : Nat) : Option Instr :=
  none

/-- Shifts one bit of the CRC register through x^16 + x^12 + x^5 + 1 (10 R182). -/
def crcShift (r : BitVec 16) : BitVec 16 :=
  if r.msb then (r <<< 1) ^^^ 0x1021#16 else r <<< 1

/-- Takes one byte, most significant bit first, into the CRC register (10 R182). -/
def crcByte (r : BitVec 16) (b : Byte) : BitVec 16 :=
  crcShift (crcShift (crcShift (crcShift (crcShift (crcShift (crcShift (crcShift
    (r ^^^ (b.zeroExtend 16 <<< 8)))))))))

/-- The CRC of a run of bytes: start at 0xFFFF, no final inversion (10 R182). -/
def crc16 (bytes : List Byte) : BitVec 16 :=
  bytes.foldl crcByte 0xFFFF#16

/-- A frame's bytes: SYNC, LEN, KIND, TAG, BODY and the CRC, high byte first (10 R181). -/
def frameBytes (kind tag : Byte) (body : List Byte) : List Byte :=
  let covered := BitVec.ofNat 8 body.length :: kind :: tag :: body
  let c := crc16 covered
  0xC3#8 :: covered ++ [c.extractLsb' 8 8, c.extractLsb' 0 8]

/-- The KIND of a request (12 Table 12-1); an event has none, and an unknown request carries its own. -/
def Instr.kind? : Instr → Option Byte
  | .identify _ => some 0x01#8
  | .clockRead _ => some 0x02#8
  | .reset _ => some 0x03#8
  | .noticeMask _ _ => some 0x04#8
  | .linkStatus _ => some 0x05#8
  | .settingsWrite _ _ => some 0x08#8
  | .settingsRead _ _ => some 0x09#8
  | .store _ => some 0x0A#8
  | .patternWrite _ _ => some 0x10#8
  | .patternRead _ _ => some 0x11#8
  | .classify _ _ => some 0x12#8
  | .classWrite _ _ _ => some 0x13#8
  | .classRead _ _ => some 0x14#8
  | .mount _ _ => some 0x15#8
  | .openingRead _ _ _ => some 0x16#8
  | .volumeRead _ => some 0x17#8
  | .sideSet _ _ _ _ => some 0x18#8
  | .dismount _ _ => some 0x19#8
  | .tallyRead _ => some 0x1A#8
  | .turn _ _ _ => some 0x20#8
  | .clamp _ => some 0x21#8
  | .unclamp _ => some 0x22#8
  | .halt _ => some 0x23#8
  | .resume _ => some 0x24#8
  | .declarePending _ => some 0x25#8
  | .declare _ _ => some 0x26#8
  | .recover _ => some 0x27#8
  | .turnStatus _ => some 0x28#8
  | .preview _ _ _ => some 0x30#8
  | .previewOff _ => some 0x31#8
  | .profileLevel _ _ _ _ => some 0x32#8
  | .lampClear _ _ => some 0x33#8
  | .lampStatus _ => some 0x34#8
  | .doseStatus _ => some 0x38#8
  | .dayMark _ _ => some 0x39#8
  | .carryRead _ _ => some 0x3A#8
  | .carryDrop _ _ => some 0x3B#8
  | .profileWrite _ _ _ => some 0x40#8
  | .profileRead _ _ => some 0x41#8
  | .capture _ _ _ => some 0x42#8
  | .captureStatus _ => some 0x43#8
  | .syncDetect _ => some 0x44#8
  | .syncSelect _ _ => some 0x45#8
  | .syncStatus _ => some 0x46#8
  | .ticketRead _ _ => some 0x48#8
  | .ticketRelease _ _ _ _ => some 0x49#8
  | .backlogSet _ _ _ => some 0x4A#8
  | .ringStatus _ => some 0x4B#8
  | .runStart _ _ _ _ => some 0x50#8
  | .runEnd _ => some 0x51#8
  | .runStatus _ => some 0x52#8
  | .pendantMode _ _ => some 0x53#8
  | .pendantStatus _ => some 0x54#8
  | .faultRead _ _ => some 0x58#8
  | .faultClear _ _ => some 0x59#8
  | .faultMask _ _ _ => some 0x5A#8
  | .thresholdSet _ _ _ => some 0x5B#8
  | .thresholdClear _ _ => some 0x5C#8
  | .unknownRequest _ kind => some kind
  | _ => none

/-- The TAG of a request (10 R185); an event has none. -/
def Instr.tag? : Instr → Option Byte
  | .identify t | .clockRead t | .reset t | .noticeMask t _ | .linkStatus t | .settingsWrite t _
  | .settingsRead t _ | .store t | .patternWrite t _ | .patternRead t _ | .classify t _
  | .classWrite t _ _ | .classRead t _ | .mount t _ | .openingRead t _ _ | .volumeRead t
  | .sideSet t _ _ _ | .dismount t _ | .tallyRead t | .turn t _ _ | .clamp t | .unclamp t | .halt t
  | .resume t | .declarePending t | .declare t _ | .recover t | .turnStatus t | .preview t _ _
  | .previewOff t | .profileLevel t _ _ _ | .lampClear t _ | .lampStatus t | .doseStatus t
  | .dayMark t _ | .carryRead t _ | .carryDrop t _ | .profileWrite t _ _ | .profileRead t _
  | .capture t _ _ | .captureStatus t | .syncDetect t | .syncSelect t _ | .syncStatus t
  | .ticketRead t _ | .ticketRelease t _ _ _ | .backlogSet t _ _ | .ringStatus t | .runStart t _ _ _
  | .runEnd t | .runStatus t | .pendantMode t _ | .pendantStatus t | .faultRead t _ | .faultClear t _
  | .faultMask t _ _ | .thresholdSet t _ _ | .thresholdClear t _ | .unknownRequest t _ => some t
  | _ => none

/-- The request of a KIND that carries no fields (12 Table 12-1); its BODY is empty. -/
def noFieldRequest (kind tag : Byte) : Option Instr :=
  match kind.toNat with
  | 0x01 => some (.identify tag)
  | 0x02 => some (.clockRead tag)
  | 0x03 => some (.reset tag)
  | 0x05 => some (.linkStatus tag)
  | 0x0A => some (.store tag)
  | 0x17 => some (.volumeRead tag)
  | 0x1A => some (.tallyRead tag)
  | 0x21 => some (.clamp tag)
  | 0x22 => some (.unclamp tag)
  | 0x23 => some (.halt tag)
  | 0x24 => some (.resume tag)
  | 0x25 => some (.declarePending tag)
  | 0x27 => some (.recover tag)
  | 0x28 => some (.turnStatus tag)
  | 0x31 => some (.previewOff tag)
  | 0x34 => some (.lampStatus tag)
  | 0x38 => some (.doseStatus tag)
  | 0x43 => some (.captureStatus tag)
  | 0x44 => some (.syncDetect tag)
  | 0x46 => some (.syncStatus tag)
  | 0x4B => some (.ringStatus tag)
  | 0x51 => some (.runEnd tag)
  | 0x52 => some (.runStatus tag)
  | 0x54 => some (.pendantStatus tag)
  | _ => none

/-- The KINDs of requests whose body layout chapter 12 does not give. -/
def unstatedKinds : List Nat :=
  [0x08, 0x09, 0x11, 0x12, 0x14, 0x16, 0x18, 0x20, 0x26, 0x30, 0x32, 0x33, 0x39, 0x3A, 0x3B,
   0x41, 0x42, 0x48, 0x49, 0x4A, 0x50, 0x53, 0x5B]

/-- The KINDs of requests that carry fields in a layout chapter 12 gives. -/
def statedKinds : List Nat :=
  [0x04, 0x10, 0x13, 0x15, 0x19, 0x40, 0x45, 0x58, 0x59, 0x5A, 0x5C]

/-- The value of bytes that travel high byte first (12). -/
def beNat (bytes : List Byte) : Nat :=
  bytes.foldl (fun n b => n * 256 + b.toNat) 0

/-- A value as `n` bytes, high byte first (12). -/
def beBytes : (n : Nat) → (v : Nat) → List Byte
  | 0, _ => []
  | n + 1, v => BitVec.ofNat 8 (v / 256 ^ n) :: beBytes n v

/-- A yes/no byte (12, "Yes/no fields"). -/
def yesNo (b : Byte) : Option Bool :=
  match b.toNat with
  | 0 => some false
  | 1 => some true
  | _ => none

def directionOf (b : Byte) : Option Direction :=
  match b.toNat with
  | 0 => some .ltr
  | 1 => some .rtl
  | _ => none

def lampModeOf (b : Byte) : Option LampMode :=
  match b.toNat with
  | 0 => some .fixed
  | 1 => some .heldLux
  | _ => none

def selectionOf (b : Byte) : Option SideSelection :=
  match b.toNat with
  | 0 => some .auto
  | 1 => some .left
  | 2 => some .right
  | 3 => some .both
  | _ => none

def turningOf (b : Byte) : Option Turning :=
  match b.toNat with
  | 0 => some .auto
  | 1 => some .manualOnly
  | _ => none

def policyOf (b : Byte) : Option PlatenPolicy :=
  match b.toNat with
  | 0 => some .clamp
  | 1 => some .free
  | _ => none

def faultBankOf (b : Byte) : Option FaultBank :=
  match b.toNat with
  | 0 => some .turn
  | 1 => some .lamp
  | 2 => some .capture
  | 3 => some .link
  | 4 => some .account
  | _ => none

/-- The bank byte of FAULT READ: 0xFF names all (12 Table 12-4). -/
def bankRefOf (b : Byte) : Option BankRef :=
  if b = 0xFF#8 then some .all else (faultBankOf b).map .one

/-- The source byte of SYNC SELECT (12 Table 12-4); 0xFF is no source. -/
def syncSourceOf (b : Byte) : Option SyncSource :=
  match b.toNat with
  | 0 => some .external
  | 1 => some .internal
  | _ => none

/-- The class override byte of MOUNT: 0xFF is none (12 Table 12-5). -/
def overrideOf (b : Byte) : ClassOverride :=
  if b = 0xFF#8 then .absent else .cls b.toNat

/-- Pairs of bytes as 2-byte numbers; a byte left over is no number. -/
def wordsOf : List Byte → List Nat
  | h :: l :: rest => beNat [h, l] :: wordsOf rest
  | _ => []

/-- Groups of four bytes as ranges first, last (12 Table 12-5). -/
def rangesOf : List Byte → List (Nat × Nat)
  | a :: b :: c :: d :: rest => (beNat [a, b], beNat [c, d]) :: rangesOf rest
  | _ => []

/-- The blank ranges that end a MOUNT body (12 Table 12-5). -/
def parseBlanks : List Byte → Option (List (Nat × Nat))
  | b :: rest => if b.toNat ≤ 16 ∧ rest.length = 4 * b.toNat then some (rangesOf rest) else none
  | [] => none

/-- A MOUNT body (12 Table 12-5). -/
def parseMount : List Byte → Option MountFields
  | [] => none
  | l :: rest =>
    if 40 < l.toNat ∨ rest.length < l.toNat then none
    else
      match rest.drop l.toNat with
      | n1 :: n0 :: dir :: j1 :: j0 :: ov :: f :: rest2 =>
        if 32 < f.toNat ∨ rest2.length < 2 * f.toNat then none
        else
          (parseBlanks (rest2.drop (2 * f.toNat))).map fun blanks =>
            { raw := rest.take l.toNat, n := beNat [n1, n0], direction := directionOf dir
              j0 := beNat [j1, j0], override := overrideOf ov
              foldouts := wordsOf (rest2.take (2 * f.toNat)), blanks := blanks }
      | _ => none

/-- A PATTERN WRITE body (12 Table 12-13). -/
def parsePattern : List Byte → Option PatternFields
  | pos :: en :: cls :: p :: rest =>
    if p.toNat ≤ 40 ∧ rest.length = p.toNat then
      some { position := pos.toNat, enabled := yesNo en, cls := cls.toNat, pattern := rest }
    else none
  | _ => none

/-- A class record (12 Table 12-12). -/
def parseClassRecord : List Byte → Option ClassFields
  | [b3, b2, b1, b0, o3, o2, o1, o0, amb, tu, re, air, po, f1, f0, d1, d0] =>
    some { dayBudget := beNat [b3, b2, b1, b0], openingLimit := beNat [o3, o2, o1, o0], ambient := yesNo amb
           turning := turningOf tu, retryLimit := re.toNat, airStart := air.toNat, policy := policyOf po
           forceTarget := beNat [f1, f0], dwellLimit := beNat [d1, d0] }
  | _ => none

/-- A capture profile (12 Table 12-11). -/
def parseProfileRecord : List Byte → Option ProfileFields
  | [mo, en, la, lb, ra, rb, t1, t0, m1, m0, ho, se, e1, e0, sel] =>
    some { mode := lampModeOf mo, enable := en.toNat, levelLa := la.toNat, levelLb := lb.toNat
           levelRa := ra.toNat, levelRb := rb.toNat, target := beNat [t1, t0], interval := beNat [m1, m0]
           hold := yesNo ho, settle := se.toNat, exposure := beNat [e1, e0], selection := selectionOf sel }
  | _ => none

/-- A BODY of one byte. -/
def oneByte : List Byte → Option Byte
  | [b] => some b
  | _ => none

/-- The request of a KIND whose body layout chapter 12 gives, or whose one field has a one-byte form there: a yes/no field, or
a value of Table 12-4 (DEDUCED: log entry 5). -/
def statedRequest (kind tag : Byte) (body : List Byte) : Option Instr :=
  match kind.toNat with
  | 0x04 => if body.length = 2 then some (.noticeMask tag (beNat body)) else none
  | 0x10 => (parsePattern body).map (.patternWrite tag)
  | 0x13 =>
    match body with
    | c :: rest => (parseClassRecord rest).map (.classWrite tag c.toNat)
    | [] => none
  | 0x15 => (parseMount body).map (.mount tag)
  | 0x19 => (oneByte body).map fun b => .dismount tag (yesNo b)
  | 0x40 =>
    match body with
    | c :: rest => (parseProfileRecord rest).map (.profileWrite tag c.toNat)
    | [] => none
  | 0x45 => (oneByte body).map fun b => .syncSelect tag (syncSourceOf b)
  | 0x58 => (oneByte body).map fun b => .faultRead tag (bankRefOf b)
  | 0x59 => (oneByte body).map fun b => .faultClear tag (faultBankOf b)
  | 0x5A =>
    match body with
    | [b, m] => some (.faultMask tag (faultBankOf b) m.toNat)
    | _ => none
  | 0x5C => (oneByte body).map fun b => .thresholdClear tag (faultBankOf b)
  | _ => none

/-- The request an unstated body carries, if what `Config.unstatedBody` reads from it is a request of this KIND and TAG. -/
def unstatedRequest (kind tag : Byte) (body : List Byte) : Option Instr :=
  match Config.unstatedBody kind tag body with
  | some (.unknownRequest _ _) => none
  | some i => if i.kind? = some kind ∧ i.tag? = some tag then some i else none
  | none => none

/-- A known KIND names a request of the part (10 R185, 12 Table 12-1). -/
def knownKind (kind : Byte) : Bool :=
  (noFieldRequest kind 0#8).isSome || statedKinds.contains kind.toNat || unstatedKinds.contains kind.toNat

/-- The request of a known KIND that a BODY carries; `none` where the body fails its layout (10 R185, 12 R195). -/
def parseRequest (kind tag : Byte) (body : List Byte) : Option Instr :=
  match noFieldRequest kind tag with
  | some i => if body = [] then some i else none
  | none =>
    if statedKinds.contains kind.toNat then statedRequest kind tag body
    else unstatedRequest kind tag body

end Sys2Proof
end

