-- ==== Sys2Proof/Machine/Ops.lean ====
section
/-! DEFINITION. The operations every block shares: containers, the clock, notices made pending (10 R188), fault reports
(09 R171) and threshold counts (09 R176), and the answer to a request. -/

namespace Sys2Proof.Machine

/-! ### Containers -/

def PerBank.get {α : Type} (p : PerBank α) : LampBank → α
  | .la => p.la
  | .lb => p.lb
  | .ra => p.ra
  | .rb => p.rb

def PerBank.set {α : Type} (p : PerBank α) (b : LampBank) (v : α) : PerBank α :=
  match b with
  | .la => { p with la := v }
  | .lb => { p with lb := v }
  | .ra => { p with ra := v }
  | .rb => { p with rb := v }

def PerBank.map {α β : Type} (f : α → β) (p : PerBank α) : PerBank β :=
  ⟨f p.la, f p.lb, f p.ra, f p.rb⟩

/-- The record whose value at each bank is `f` of that bank. -/
def PerBank.of {α : Type} (f : LampBank → α) : PerBank α :=
  ⟨f .la, f .lb, f .ra, f .rb⟩

def PerBank.toList {α : Type} (p : PerBank α) : List α :=
  [p.la, p.lb, p.ra, p.rb]

/-- Some bank meets `f`. -/
def PerBank.any (f : LampBank → Bool) : Bool :=
  f .la || f .lb || f .ra || f .rb

/-- Every bank meets `f`. -/
def PerBank.all (f : LampBank → Bool) : Bool :=
  f .la && f .lb && f .ra && f .rb

def PerKey.get {α : Type} (p : PerKey α) : Key → α
  | .halt => p.halt
  | .confirm => p.confirm
  | .retake => p.retake
  | .lamp => p.lamp
  | .mark => p.mark
  | .pedal => p.pedal

def PerKey.set {α : Type} (p : PerKey α) (k : Key) (v : α) : PerKey α :=
  match k with
  | .halt => { p with halt := v }
  | .confirm => { p with confirm := v }
  | .retake => { p with retake := v }
  | .lamp => { p with lamp := v }
  | .mark => { p with mark := v }
  | .pedal => { p with pedal := v }

def PerFaultBank.get {α : Type} (p : PerFaultBank α) : FaultBank → α
  | .turn => p.turn
  | .lamp => p.lamp
  | .capture => p.capture
  | .link => p.link
  | .account => p.account

def PerFaultBank.set {α : Type} (p : PerFaultBank α) (b : FaultBank) (v : α) : PerFaultBank α :=
  match b with
  | .turn => { p with turn := v }
  | .lamp => { p with lamp := v }
  | .capture => { p with capture := v }
  | .link => { p with link := v }
  | .account => { p with account := v }

/-- Adds a member to a set kept as a list without repeats. -/
def insertNew {α : Type} [DecidableEq α] (x : α) (l : List α) : List α :=
  if x ∈ l then l else l ++ [x]

/-- Adds with a ceiling: a saturating count. -/
def satAdd (ceiling a b : Nat) : Nat :=
  min ceiling (a + b)

/-- The highest value of a dose (04 R82). -/
def maxDose : Nat := 4294967295

/-- The highest value of a 16-bit saturating counter (02 R34, 07 Table 7-2). -/
def maxCount16 : Nat := 65535

/-! ### The clock (04 R89, 05 R105) -/

/-- The elapsed clock, in ms. -/
def State.clock (s : State) : Nat :=
  s.now / 1000

/-- The first µs at which the elapsed clock shows `ms`. -/
def atMs (ms : Nat) : Nat :=
  ms * 1000

/-- Carries the part to instant `t`, if that is still to come. Log entry 3. -/
def State.goTo (t : Nat) (s : State) : State :=
  { s with now := max s.now t }

/-! ### The mounted volume -/

/-- A volume is mounted (01 R17). -/
def State.mounted (s : State) : Bool :=
  s.sau.volume.isSome

/-- The class record in force for the mounted volume (01 R13). -/
def State.limits? (s : State) : Option ClassRec :=
  s.sau.volume.map Volume.limits

/-- N of the mounted volume; 0 with none. -/
def State.leaves (s : State) : Nat :=
  match s.sau.volume with
  | some v => v.n
  | none => 0

/-! ### Notices (10 R188) -/

/-- The place of a kind in the notice mask and in the transmitter's order (12 section 12.1). -/
def NoticeKind.bit : NoticeKind → Nat
  | .safety => 0
  | .fault => 1
  | .start => 2
  | .turn => 3
  | .capture => 4
  | .run => 5
  | .dose => 6
  | .backlog => 7
  | .threshold => 8
  | .sync => 9
  | .dwell => 10
  | .pendant => 11

/-- The kinds in transmitter order (10 Table 10-3). -/
def NoticeKind.order : List NoticeKind :=
  [.safety, .fault, .start, .turn, .capture, .run, .dose, .backlog, .threshold, .sync, .dwell, .pendant]

/-- Makes a kind pending, with the owning block's contribution to its contents, if the notice mask lets it (R188). -/
def State.notifyWith (k : NoticeKind) (add : Gathered → Gathered) (s : State) : State :=
  if s.set.noticeMask.getLsbD k.bit then
    { s with lk := { s.lk with pendingSet := s.lk.pendingSet ||| (1#12 <<< k.bit), gathered := add s.lk.gathered } }
  else s

/-- Makes a kind pending that gathers nothing. -/
def State.notify (k : NoticeKind) (s : State) : State :=
  s.notifyWith k id

/-! ### Fault banks (09) -/

/-- ADVISORY, HALTING, SAFETY in ascending order (09 section 9.1, 12 Table 12-4). -/
inductive Severity where
  | advisory | halting | safety
  deriving DecidableEq, Repr

def Severity.rank : Severity → Nat
  | .advisory => 0
  | .halting => 1
  | .safety => 2

/-- The bank of a code (09 Table 9-2). -/
def FaultCode.bank : FaultCode → FaultBank
  | .strokeTimeout | .missExhausted | .doubleExhausted | .doubleDetected | .platenOverforce | .guardOpen
  | .homeFail => .turn
  | .bankOpen | .bankShort | .sensorSaturated | .sensorDark | .regMiss | .doseExhausted => .lamp
  | .frameTimeout | .syncLost | .ringFull => .capture
  | .badCrc | .badLength | .rxTimeout | .overrun => .link
  | .storeCrc | .carryEvict => .account

/-- The place of a code in its bank's mask (12 Table 12-10). -/
def FaultCode.bit : FaultCode → Nat
  | .strokeTimeout => 0
  | .missExhausted => 1
  | .doubleExhausted => 2
  | .doubleDetected => 3
  | .platenOverforce => 4
  | .guardOpen => 5
  | .homeFail => 6
  | .bankOpen => 0
  | .bankShort => 1
  | .sensorSaturated => 2
  | .sensorDark => 3
  | .regMiss => 4
  | .doseExhausted => 5
  | .frameTimeout => 0
  | .syncLost => 1
  | .ringFull => 2
  | .badCrc => 0
  | .badLength => 1
  | .rxTimeout => 2
  | .overrun => 3
  | .storeCrc => 0
  | .carryEvict => 1

/-- The severity of a code (09 Table 9-2). -/
def FaultCode.severity : FaultCode → Severity
  | .guardOpen => .safety
  | .strokeTimeout | .missExhausted | .doubleExhausted | .platenOverforce | .homeFail | .bankOpen | .bankShort
  | .sensorDark => .halting
  | .doubleDetected | .sensorSaturated | .regMiss | .doseExhausted | .frameTimeout | .syncLost | .ringFull
  | .badCrc | .badLength | .rxTimeout | .overrun | .storeCrc | .carryEvict => .advisory

/-- The threshold kind of a bank (09 section 9.1). -/
def thresholdKind : FaultBank → FaultCode
  | .turn => .doubleDetected
  | .lamp => .regMiss
  | .capture => .ringFull
  | .link => .badCrc
  | .account => .carryEvict

/-- How many codes a bank has (09 Table 9-2). -/
def codeCount : FaultBank → Nat
  | .turn => 7
  | .lamp => 6
  | .capture => 3
  | .link => 4
  | .account => 2

/-- Sets one bank's state. -/
def State.setFaultBank (b : FaultBank) (f : FaultBankState) (s : State) : State :=
  { s with fb := { s.fb with banks := s.fb.banks.set b f } }

/-- Puts a report into its bank's record (09 R171), and the bank into the FAULT notice's sets (R173). -/
def State.recordFault (code : FaultCode) (detail : List Nat) (s : State) : State :=
  let b := code.bank
  let bank := s.fb.banks.get b
  let fresh : FaultRecord :=
    { overflow := false, code := code, detail := detail, time := s.clock
      mountNo := s.sau.volume.map Volume.mountNo }
  match bank.record with
  | none =>
    (s.setFaultBank b { bank with record := some fresh }).notifyWith .fault
      fun g => { g with newRecords := insertNew b g.newRecords }
  | some old =>
    if old.code.severity.rank < code.severity.rank then
      (s.setFaultBank b { bank with record := some { fresh with overflow := true } }).notifyWith .fault
        fun g => { g with newRecords := insertNew b g.newRecords
                          overflows := if old.overflow then g.overflows else insertNew b g.overflows }
    else if old.overflow then s
    else
      (s.setFaultBank b { bank with record := some { old with overflow := true } }).notifyWith .fault
        fun g => { g with overflows := insertNew b g.overflows }

/-- Sets a bank's threshold count and recomputes its crossed flag against T; a flag that goes from clear to set makes the
THRESHOLD notice pending (09 R176, R179). -/
def State.recount (b : FaultBank) (count : Nat) (s : State) : State :=
  let bank := s.fb.banks.get b
  let crossed := decide (s.set.thresholds.get b ≤ count)
  let s1 := s.setFaultBank b { bank with count := count, crossed := crossed }
  if crossed && !bank.crossed then
    s1.notifyWith .threshold fun g => { g with crossed := insertNew b g.crossed }
  else s1

/-- A block reports a fault (09 R171, R172): a masked report is dropped; an unmasked one is recorded and, if it is the
bank's threshold kind, counted. -/
def State.report (code : FaultCode) (detail : List Nat) (s : State) : State :=
  if (s.set.faultMasks.get code.bank).getLsbD code.bit then
    let s1 := s.recordFault code detail
    if code = thresholdKind code.bank then
      s1.recount code.bank (satAdd 4095 (s1.fb.banks.get code.bank).count 1)
    else s1
  else s

/-! ### Answers to requests (10 R185) -/

/-- The decision of an owning block on a request: the result and the reply's fields. -/
structure Answer where
  result : Result
  body   : List Item
  deriving DecidableEq, Repr

/-- Answers with a result and fields. -/
def answer (r : Result) (body : List Item) (s : State) : State × Answer :=
  (s, ⟨r, body⟩)

/-- Answers with a result alone and the state as it stands: a refusal changes no state. -/
def refuse (r : Result) (s : State) : State × Answer :=
  (s, ⟨r, []⟩)

/-- A number that may be absent. -/
def Item.ofNat? : Option Nat → Item
  | some n => .num n
  | none => .missing

def Item.ofFlag? : Option Bool → Item
  | some b => .flag b
  | none => .missing

end Sys2Proof.Machine
end

