-- ==== Sys2Proof/Machine/Operands.lean ====
section
/-! DEFINITION. The operands of requests: shelf marks (01 R1), patterns (01 R3, R4), class records (01 R8), capture
profiles (05 R103), and clamping (00 "Refused and clamped values"). -/

namespace Sys2Proof.Machine

/-! ### Shelf marks and patterns -/

/-- Lower-case letters become upper-case (R1.1). -/
def upperCase (b : Byte) : Byte :=
  if 0x61 ≤ b.toNat ∧ b.toNat ≤ 0x7A then b - 0x20#8 else b

/-- Removes spaces at the start. -/
def trimStart : Text → Text
  | [] => []
  | b :: rest => if b = 0x20#8 then trimStart rest else b :: rest

/-- Removes spaces at the start and at the end (R1.2). -/
def trimSpaces (t : Text) : Text :=
  (trimStart (trimStart t).reverse).reverse

/-- Replaces every run of spaces by one (R1.3). -/
def collapseSpaces : Text → Text
  | [] => []
  | a :: rest =>
    match collapseSpaces rest with
    | [] => [a]
    | b :: tail => if a = 0x20#8 ∧ b = 0x20#8 then b :: tail else a :: b :: tail

/-- Normalisation (R1). -/
def normalise (raw : Text) : Text :=
  collapseSpaces (trimSpaces (raw.map upperCase))

/-- The shelf-mark characters: A to Z, 0 to 9, space, and the four marks (R1). -/
def isMarkChar (b : Byte) : Bool :=
  let n := b.toNat
  (0x41 ≤ n && n ≤ 0x5A) || (0x30 ≤ n && n ≤ 0x39) || n == 0x20 || n == 0x2E || n == 0x2D || n == 0x2F || n == 0x3A

/-- The normalised form of a raw mark, or none where R1 refuses it. -/
def shelfMark? (raw : Text) : Option Text :=
  if raw.length = 0 ∨ 40 < raw.length then none
  else
    let m := normalise raw
    if m = [] ∨ 24 < m.length ∨ ¬ m.all isMarkChar then none else some m

/-- A pattern's characters: shelf-mark characters and `?` anywhere, `*` in the last place only (R3, R4). -/
def patternChars : Text → Bool
  | [] => true
  | [b] => isMarkChar b || b == 0x3F#8 || b == 0x2A#8
  | b :: rest => (isMarkChar b || b == 0x3F#8) && patternChars rest

/-- A mark matches a pattern (R3). -/
def matchesPattern : (pattern mark : Text) → Bool
  | [], mark => mark.isEmpty
  | p :: ps, mark =>
    if p = 0x2A#8 ∧ ps = [] then true
    else
      match mark with
      | [] => false
      | c :: cs => (p == 0x3F#8 || p == c) && matchesPattern ps cs

/-- The first enabled entry from position `at` on whose pattern matches: its class and position (R3). -/
def matchFrom (mark : Text) : (position : Nat) → List PatternEntry → Nat × Option Nat
  | _, [] => (0, none)
  | i, e :: rest =>
    if e.enabled && matchesPattern e.pattern mark then (e.cls, some i) else matchFrom mark (i + 1) rest

/-- The class of a normalised mark and its matched position: class 0 with no position where no enabled entry matches (R3). -/
def classify (patterns : List PatternEntry) (mark : Text) : Nat × Option Nat :=
  matchFrom mark 0 patterns

/-- The entry PATTERN WRITE writes, or none where R4 refuses it (step 3). -/
def patternEntry? (f : PatternFields) : Option PatternEntry :=
  match f.enabled with
  | none => none
  | some enabled =>
    let p := normalise f.pattern
    if 11 < f.position ∨ 7 < f.cls ∨ 40 < f.pattern.length ∨ 24 < p.length ∨ ¬ patternChars p
        ∨ (enabled ∧ p = []) then none
    else some { enabled := enabled, pattern := p, cls := f.cls }

/-! ### Clamping -/

/-- The nearest value of a range. -/
def clampTo (lo hi v : Nat) : Nat :=
  max lo (min hi v)

/-- A value was outside its range. -/
def outside (lo hi v : Nat) : Bool :=
  decide (v < lo) || decide (hi < v)

/-- The class record CLASS WRITE writes, with the clamped flag; none where an enumerated field holds another value (R8). -/
def classRecord? (f : ClassFields) : Option (ClassRec × Bool) :=
  match f.ambient, f.turning, f.policy with
  | some ambient, some turning, some policy =>
    some
      ({ dayBudget := clampTo 1 1000000000 f.dayBudget, openingLimit := clampTo 1 10000000 f.openingLimit
         ambient := ambient, turning := turning, retryLimit := clampTo 0 7 f.retryLimit
         airStart := clampTo 0 9 f.airStart, policy := policy, forceTarget := clampTo 100 3000 f.forceTarget
         dwellLimit := clampTo 5 600 f.dwellLimit },
       outside 1 1000000000 f.dayBudget || outside 1 10000000 f.openingLimit || outside 0 7 f.retryLimit
         || outside 0 9 f.airStart || outside 100 3000 f.forceTarget || outside 5 600 f.dwellLimit)
  | _, _, _ => none

/-- The profile PROFILE WRITE writes, with the clamped flag; none where R103 refuses it. -/
def profile? (f : ProfileFields) : Option (Profile × Bool) :=
  match f.mode, f.hold, f.selection with
  | some mode, some hold, some selection =>
    if f.exposure < 1 ∨ 2000 < f.exposure ∨ 15 < f.enable then none
    else
      some
        ({ mode := mode
           enabled := ⟨f.enable.testBit 0, f.enable.testBit 1, f.enable.testBit 2, f.enable.testBit 3⟩
           levels := ⟨min 99 f.levelLa, min 99 f.levelLb, min 99 f.levelRa, min 99 f.levelRb⟩
           target := clampTo 1 65456 f.target, interval := clampTo 1 1000 f.interval, hold := hold
           settle := clampTo 5 200 f.settle, exposure := f.exposure, selection := selection },
         outside 0 99 f.levelLa || outside 0 99 f.levelLb || outside 0 99 f.levelRa || outside 0 99 f.levelRb
           || outside 1 65456 f.target || outside 1 1000 f.interval || outside 5 200 f.settle)
  | _, _, _ => none

/-- Lux per level step has no zero: 1 to 655 (11 Table 11-3). -/
def luxPerStepOf (v : Nat) : Nat := clampTo 1 655 v

/-! ### Settings tables -/

/-- The class record of a number. -/
def classAt (classes : List ClassRec) (c : Nat) : ClassRec :=
  classes.getD c ClassRec.factory

/-- The capture profile of an index. -/
def profileAt (profiles : List Profile) (i : Nat) : Profile :=
  profiles.getD i Profile.factory

/-- The learned levels of a profile index. -/
def learnedAt (learned : List (PerBank Nat)) (i : Nat) : PerBank Nat :=
  learned.getD i ⟨0, 0, 0, 0⟩

end Sys2Proof.Machine
end

