-- ==== Sys2Proof/Machine/Flags.lean ====
section
/-! DEFINITION. The conditions blocks ask each other for: settled (02 R22), a ticket OPEN, a bank lit, starting, who owns
TC, and the fixed limits the rules give. -/

namespace Sys2Proof.Machine

/-- The motion states (02 section 2.2). -/
def TcState.moving : TcState → Bool
  | .homing | .lowering | .raising | .lifting | .carrying | .releasing | .returning => true
  | .unclamped | .clamped | .halted | .seek | .attention | .safeStop => false

/-- The arm is in a stroke (02 R55). -/
def TcState.armStroke : TcState → Bool
  | .lifting | .carrying | .releasing | .returning => true
  | .homing | .unclamped | .lowering | .clamped | .raising | .halted | .seek | .attention | .safeStop => false

/-- TC reports the cradle as settled (R22). -/
def State.settled (s : State) : Bool :=
  (s.tc.state == .unclamped || s.tc.state == .clamped) && s.pins.armPark && !s.pins.guardOpen

/-- The OPEN ticket of the ring; it is the newest (06 R127). -/
def State.openTicket? (s : State) : Option Ticket :=
  match s.cc.tickets.getLast? with
  | some t => if t.closed then none else some t
  | none => none

/-- A capture ticket is OPEN. -/
def State.ticketOpen (s : State) : Bool :=
  s.openTicket?.isSome

/-- At least one bank is lit (03 R56). -/
def State.anyLit (s : State) : Bool :=
  PerBank.any fun b => (s.lc.banks.get b).lit

/-- The part is still starting (10 R185, 11 R191). -/
def State.starting (s : State) : Bool :=
  s.start.phase != .done

/-- The run is ACTIVE (07 R143). -/
def State.runActive (s : State) : Bool :=
  s.rc.state == .active

/-- The run is PAUSED. -/
def State.runPaused (s : State) : Bool :=
  match s.rc.state with
  | .paused _ => true
  | _ => false

/-- TC is HALTED holding a turn or platen move that RC sent (07 R143). -/
def State.haltedForRun (s : State) : Bool :=
  s.tc.state == .halted && (match s.tc.op with
    | some o => o.byRun
    | none => false)

/-- A run owns TC (07 R143). -/
def State.runOwnsTc (s : State) : Bool :=
  s.runActive || (s.runPaused && s.haltedForRun)

/-- The platen is down: its UP switch is not made. -/
def State.platenDown (s : State) : Bool :=
  !s.pins.platenUp

/-- A leaf is on the head (02 Table 2-2). -/
def State.leafOnHead (s : State) : Bool :=
  s.pins.leafSensor != .zero

/-! ### Limits -/

/-- The phase limits in ms (02 Table 2-5); the states at rest have none. -/
def phaseLimit : TcState → Option Nat
  | .lowering => some 2000
  | .raising => some 1500
  | .lifting => some 2000
  | .carrying => some 3000
  | .releasing => some 1500
  | .returning => some 2000
  | .homing => some 3000
  | .unclamped | .clamped | .halted | .seek | .attention | .safeStop => none

/-- The lowering threshold of a force target (02 R37). -/
def loweringThreshold (target : Nat) : Nat :=
  target - target / 20

/-- The overforce limit (02 R38). -/
def overforceLimit : Option ClassRec → Nat
  | some c => min (3 * c.forceTarget / 2) 3600
  | none => 3600

/-- The length of a hold that makes a candidate level stable, in µs (07 R156). -/
def debounceUs : Nat := 20000

/-- The length of the detection watch in µs (05 R106). -/
def watchUs : Nat := 500000

/-- The longest gap inside a frame in µs (10 R183). -/
def rxGapUs : Nat := 20000

/-- The longest write of the settings store in µs (11 R194). -/
def storeUs : Nat := 400000

end Sys2Proof.Machine
end

