-- ==== Sys2Proof/Machine/Records.lean ====
section
/-! DEFINITION. The codes and byte layouts of chapter 12: what the host sees of the part's records. -/

namespace Sys2Proof.Machine

/-- One byte. -/
def byte1 (v : Nat) : List Byte := beBytes 1 v

/-- Two bytes, high byte first. -/
def byte2 (v : Nat) : List Byte := beBytes 2 v

/-- Four bytes, high byte first. -/
def byte4 (v : Nat) : List Byte := beBytes 4 v

/-- An elapsed-clock time: 6 bytes, 0xFFFFFFFFFFFF for none (12, "Elapsed-clock times"). -/
def timeBytes : Option Nat → List Byte
  | some t => beBytes 6 t
  | none => List.replicate 6 0xFF#8

/-- A yes/no byte. -/
def flagByte (b : Bool) : List Byte := byte1 b.toNat

/-- Flag bits from bit 0 on. -/
def flagBits : List Bool → Nat
  | [] => 0
  | b :: rest => b.toNat + 2 * flagBits rest

/-! ### Enumerations (12 Tables 12-3, 12-4 and the order of Table 2-3) -/

def Result.code : Result → Nat
  | .ok => 0x00 | .accepted => 0x01 | .busy => 0x02 | .state => 0x03 | .argument => 0x04 | .locked => 0x05
  | .notMounted => 0x06 | .doseOpening => 0x07 | .doseVolume => 0x08 | .ringFull => 0x09 | .held => 0x0A
  | .noSync => 0x0B | .camera => 0x0C | .lamp => 0x0D | .sensor => 0x0E | .cls => 0x0F | .nothing => 0x10
  | .opened => 0x11 | .absent => 0x12 | .tickets => 0x13 | .guard => 0x14 | .unknown => 0x15 | .starting => 0x16

def dirCode : Direction → Nat
  | .ltr => 0 | .rtl => 1

def sideCode : SideState → Nat
  | .pending => 0 | .held => 1 | .accepted => 2 | .retake => 3 | .blank => 4 | .foldout => 5 | .absent => 6

def SideResult.code : SideResult → Nat
  | .stored => 0 | .noFrame => 1 | .doseCut => 2 | .guardCut => 3 | .sensorCut => 4 | .resetCut => 5

def resultByte : Option SideResult → Nat
  | some r => r.code | none => 0xFF

def modeCode : LampMode → Nat
  | .fixed => 0 | .heldLux => 1

def selectionCode : SideSelection → Nat
  | .auto => 0 | .left => 1 | .right => 2 | .both => 3

def sourceCode : Option SyncSource → Nat
  | some .external => 0 | some .internal => 1 | none => 0xFF

def turningCode : Turning → Nat
  | .auto => 0 | .manualOnly => 1

def policyCode : PlatenPolicy → Nat
  | .clamp => 0 | .free => 1

def ClassSource.code : ClassSource → Nat
  | .matched => 0 | .override => 1

def TallyCause.code : TallyCause → Nat
  | .dismount => 0 | .forced => 1 | .warmReset => 2

def Severity.code : Severity → Nat := Severity.rank

def bankCode : LampBank → Nat
  | .la => 0 | .lb => 1 | .ra => 2 | .rb => 3

def faultBankCode : FaultBank → Nat
  | .turn => 0 | .lamp => 1 | .capture => 2 | .link => 3 | .account => 4

def cameraCode : Camera → Nat
  | .a => 0 | .b => 1

/-- The TC states numbered in the order of 02 Table 2-3 from 0, HOMING. -/
def TcState.code : TcState → Nat
  | .homing => 0 | .unclamped => 1 | .lowering => 2 | .clamped => 3 | .raising => 4 | .lifting => 5
  | .carrying => 6 | .releasing => 7 | .returning => 8 | .halted => 9 | .seek => 10 | .attention => 11
  | .safeStop => 12

/-- Fault codes (12 Table 12-10). -/
def FaultCode.code : FaultCode → Nat
  | .strokeTimeout => 0x01 | .missExhausted => 0x02 | .doubleExhausted => 0x03 | .doubleDetected => 0x04
  | .platenOverforce => 0x05 | .guardOpen => 0x06 | .homeFail => 0x07 | .bankOpen => 0x08 | .bankShort => 0x09
  | .sensorSaturated => 0x0A | .sensorDark => 0x0B | .regMiss => 0x0C | .doseExhausted => 0x0D
  | .frameTimeout => 0x0E | .syncLost => 0x0F | .ringFull => 0x10 | .badCrc => 0x11 | .badLength => 0x12
  | .rxTimeout => 0x13 | .overrun => 0x14 | .storeCrc => 0x15 | .carryEvict => 0x16

/-- The widths in bytes of a code's detail items (12 Table 12-10). -/
def FaultCode.widths : FaultCode → List Nat
  | .strokeTimeout => [1, 2, 1, 1, 1, 2]
  | .missExhausted | .doubleExhausted => [2, 1, 1]
  | .doubleDetected => [2, 1]
  | .platenOverforce | .regMiss => [2, 2]
  | .guardOpen | .homeFail | .bankOpen | .bankShort | .badCrc | .badLength | .overrun => [1]
  | .sensorSaturated | .sensorDark | .storeCrc => []
  | .doseExhausted => [4, 4]
  | .frameTimeout => [1, 4]
  | .syncLost | .ringFull | .carryEvict => [4]
  | .rxTimeout => [2]

/-- The codes of a bank in the order of its mask (12 Table 12-10). -/
def faultBankCodes : FaultBank → List FaultCode
  | .turn => [.strokeTimeout, .missExhausted, .doubleExhausted, .doubleDetected, .platenOverforce, .guardOpen, .homeFail]
  | .lamp => [.bankOpen, .bankShort, .sensorSaturated, .sensorDark, .regMiss, .doseExhausted]
  | .capture => [.frameTimeout, .syncLost, .ringFull]
  | .link => [.badCrc, .badLength, .rxTimeout, .overrun]
  | .account => [.storeCrc, .carryEvict]

/-- Codes of states that chapter 12 does not code: numbered from 0 in the order of their tables. Log entry 7. -/
def SyncState.order : SyncState → Nat
  | .detecting => 0 | .external => 1 | .internal => 2 | .manualExternal => 3 | .manualExternalLost => 4
  | .manualInternal => 5

def CaptureState.order : CaptureState → Nat
  | .idle => 0 | .settle => 1 | .waitEdge => 2 | .expose => 3 | .collect => 4

def OpKind.order : OpKind → Nat
  | .turn => 0 | .clamp => 1 | .unclamp => 2 | .dismount => 3 | .recover => 4 | .homing => 5

def OpResult.order : OpResult → Nat
  | .done => 0 | .foldoutStop => 1 | .fault => 2 | .halted => 3 | .stopped => 4 | .dismounted => 5

def PauseReason.order : PauseReason → Nat
  | .tickets => 0 | .sync => 1 | .camera => 2 | .lamp => 3 | .manualTurn => 4 | .foldout => 5 | .turnFault => 6
  | .guard => 7 | .halt => 8

def EndReason.order : EndReason → Nat
  | .complete => 0 | .exhausted => 1 | .aborted => 2 | .outOfRange => 3

def StepPhase.order : StepPhase → Nat
  | .none => 0 | .clamping => 1 | .capturing => 2 | .turning => 3 | .unclamping => 4 | .waiting => 5

def RestoreOutcome.order : RestoreOutcome → Nat
  | .restored => 0 | .factory => 1 | .factoryCrcBad => 2

def pendantModeOrder : PendantMode → Nat
  | .localMode => 0 | .forward => 1 | .off => 2

def PreviewEnd.order : PreviewEnd → Nat
  | .expired => 0 | .off => 1 | .cut => 2 | .dark => 3 | .reset => 4

def runModeOrder : RunMode → Nat
  | .pendingOnly => 0 | .pendingAndRetake => 1

def keyOrder : Key → Nat
  | .halt => 0 | .confirm => 1 | .retake => 2 | .lamp => 3 | .mark => 4 | .pedal => 5

/-- The run state and its reason. -/
def RunState.items : RunState → List Item
  | .idle => [.num 0, .missing]
  | .active => [.num 1, .missing]
  | .paused r => [.num 2, .num r.order]
  | .ended r => [.num 3, .num r.order]

/-! ### Records -/

/-- A capture profile, 15 bytes (12 Table 12-11). -/
def Profile.bytes (p : Profile) : List Byte :=
  byte1 (modeCode p.mode)
    ++ byte1 (flagBits p.enabled.toList)
    ++ byte1 p.levels.la ++ byte1 p.levels.lb ++ byte1 p.levels.ra ++ byte1 p.levels.rb
    ++ byte2 p.target ++ byte2 p.interval ++ flagByte p.hold ++ byte1 p.settle ++ byte2 p.exposure
    ++ byte1 (selectionCode p.selection)

/-- A class record, 17 bytes (12 Table 12-12). -/
def ClassRec.bytes (c : ClassRec) : List Byte :=
  byte4 c.dayBudget ++ byte4 c.openingLimit ++ flagByte c.ambient ++ byte1 (turningCode c.turning)
    ++ byte1 c.retryLimit ++ byte1 c.airStart ++ byte1 (policyCode c.policy) ++ byte2 c.forceTarget
    ++ byte2 c.dwellLimit

/-- A pattern entry (12 Table 12-13). -/
def PatternEntry.bytes (position : Nat) (e : PatternEntry) : List Byte :=
  byte1 position ++ flagByte e.enabled ++ byte1 e.cls ++ byte1 e.pattern.length ++ e.pattern

/-- A half of a ticket record (12 Table 12-7). -/
def halfBytes : Option Half → List Byte
  | some h => byte2 h.side ++ byte1 (resultByte h.result) ++ flagByte h.superseded
  | none => byte2 0 ++ byte1 0xFF ++ byte1 0

/-- A ticket record, 46 bytes (12 Table 12-7). -/
def Ticket.bytes (t : Ticket) : List Byte :=
  byte4 t.serial ++ byte1 (if t.closed then 2 else 1) ++ byte2 t.mountNo ++ byte2 t.opening
    ++ halfBytes t.left ++ halfBytes t.right
    ++ byte1 (flagBits [t.orphaned, t.read, t.lampDegraded, t.underLit, t.syncSwitched])
    ++ byte1 t.profile ++ byte1 (modeCode t.mode) ++ byte1 t.settle ++ byte2 t.exposure
    ++ byte2 (t.startLux.getD 0xFFFF)
    ++ (match t.startLevels with
        | some l => byte1 l.la ++ byte1 l.lb ++ byte1 l.ra ++ byte1 l.rb
        | none => List.replicate 4 0xFF#8)
    ++ byte1 (sourceCode t.source) ++ byte4 t.dose ++ timeBytes (some t.openTime) ++ timeBytes t.closeTime

/-- The runs of a gap list. -/
def rangeBytes : List (Nat × Nat) → List Byte
  | [] => []
  | (a, b) :: rest => byte2 a ++ byte2 b ++ rangeBytes rest

/-- A tally record (12 Table 12-8). -/
def Tally.bytes (t : Tally) : List Byte :=
  byte1 t.mark.length ++ t.mark ++ List.replicate (24 - t.mark.length) 0x00#8
    ++ byte2 t.mountNo ++ byte1 t.cls ++ byte1 t.source.code ++ byte2 t.n ++ byte1 (dirCode t.direction)
    ++ byte1 t.cause.code ++ timeBytes (some t.time)
    ++ byte2 t.counts.pending ++ byte2 t.counts.held ++ byte2 t.counts.accepted ++ byte2 t.counts.retake
    ++ byte2 t.counts.blank ++ byte2 t.counts.foldout ++ byte2 t.forcedRetakes ++ byte4 t.dayDose
    ++ byte4 t.carriedIn ++ byte2 t.turnsDone ++ byte2 t.missRetries ++ byte2 t.doubleRetries
    ++ byte2 t.doseSkips ++ byte2 t.gapCount ++ byte2 t.gapSides ++ flagByte t.truncated
    ++ byte1 t.gaps.length ++ rangeBytes t.gaps

/-- Items written in their widths, padded or cut to `room` bytes. -/
def detailBytes : (room : Nat) → (widths values : List Nat) → List Byte
  | room, w :: ws, v :: vs => (beBytes w v ++ detailBytes (room - w) ws vs).take room
  | room, _, _ => List.replicate room 0x00#8

/-- A fault record, 19 bytes (12 Table 12-9). -/
def faultRecordBytes : Option FaultRecord → List Byte
  | none => List.replicate 19 0x00#8
  | some r =>
    byte1 (flagBits [true, r.overflow, !r.code.widths.isEmpty, r.mountNo.isSome])
      ++ byte1 r.code.severity.code ++ byte1 r.code.code ++ detailBytes 8 r.code.widths r.detail
      ++ timeBytes (some r.time) ++ byte2 (r.mountNo.getD 0)

/-- What FAULT READ carries for a bank, 25 bytes (12 section 12.7). -/
def faultBankBytes (bank : FaultBankState) (mask : BitVec 8) (threshold : Nat) : List Byte :=
  faultRecordBytes bank.record ++ [mask] ++ byte2 bank.count ++ byte2 threshold ++ flagByte bank.crossed

end Sys2Proof.Machine
end

