-- ==== Sys2Proof/Machine/Accounts.lean ====
section
/-! DEFINITION. SAU: the sides of the mounted volume, the opening table (01 R15 to R19), and the gap walk of the tally
(08 R167). -/

namespace Sys2Proof.Machine

/-- The side number on the left half of opening `j`, 0 where it is absent (00 Table 0-4, R15). -/
def leftSide (d : Direction) (n j : Nat) : Nat :=
  match d with
  | .ltr => 2 * j
  | .rtl => if j = n then 0 else 2 * j + 1

/-- The side number on the right half of opening `j`, 0 where it is absent (00 Table 0-4, R15). -/
def rightSide (d : Direction) (n j : Nat) : Nat :=
  match d with
  | .ltr => if j = n then 0 else 2 * j + 1
  | .rtl => 2 * j

/-- A side number stands on the left half of its opening. -/
def onLeft (d : Direction) (side : Nat) : Bool :=
  match d with
  | .ltr => side % 2 == 0
  | .rtl => side % 2 == 1

/-- A side number falls in a range of a list. -/
def inRanges (ranges : List (Nat × Nat)) (side : Nat) : Bool :=
  ranges.any fun r => decide (r.1 ≤ side) && decide (side ≤ r.2)

/-- The state of a side at mount; side 0 is the side an opening does not have (R15). -/
def initialSide (foldouts : List Nat) (blanks : List (Nat × Nat)) (side : Nat) : SideState :=
  if side = 0 then .absent
  else if foldouts.contains ((side + 1) / 2) then .foldout
  else if inRanges blanks side then .blank
  else .pending

/-- The opening table at mount, N + 1 entries (R15). -/
def buildOpenings (d : Direction) (n : Nat) (foldouts : List Nat) (blanks : List (Nat × Nat)) : List Opening :=
  (List.range (n + 1)).map fun j =>
    { left := initialSide foldouts blanks (leftSide d n j)
      right := initialSide foldouts blanks (rightSide d n j)
      dose := 0 }

/-- The entry of opening `j`. -/
def openingAt (openings : List Opening) (j : Nat) : Opening :=
  openings.getD j { left := .absent, right := .absent, dose := 0 }

/-- Changes the entry of opening `j`. -/
def updateOpening (j : Nat) (f : Opening → Opening) (openings : List Opening) : List Opening :=
  openings.set j (f (openingAt openings j))

/-- The state of a side, found at its own opening (R18). -/
def sideStateIn (d : Direction) (openings : List Opening) (side : Nat) : SideState :=
  let o := openingAt openings (side / 2)
  if onLeft d side then o.left else o.right

/-- Sets the state of a side at its own opening (R18). -/
def setSideIn (d : Direction) (openings : List Opening) (side : Nat) (st : SideState) : List Opening :=
  updateOpening (side / 2) (fun o => if onLeft d side then { o with left := st } else { o with right := st }) openings

/-- The state of a side of the mounted volume. -/
def State.sideState (side : Nat) (s : State) : SideState :=
  match s.sau.volume with
  | some v => sideStateIn v.direction s.sau.openings side
  | none => .absent

/-- The SAU sets a side of the mounted volume (R18); with no volume mounted there is none. -/
def State.setSide (side : Nat) (st : SideState) (s : State) : State :=
  match s.sau.volume with
  | some v => { s with sau := { s.sau with openings := setSideIn v.direction s.sau.openings side st } }
  | none => s

/-- Leaf `l` is in the foldout list (R17). -/
def State.isFoldout (leaf : Nat) (s : State) : Bool :=
  match s.sau.volume with
  | some v => v.foldouts.contains leaf
  | none => false

/-- The side number of the left half of the current opening, 0 where absent. -/
def State.leftNow (s : State) : Nat :=
  match s.sau.volume with
  | some v => leftSide v.direction v.n s.tc.j
  | none => 0

/-- The side number of the right half of the current opening, 0 where absent. -/
def State.rightNow (s : State) : Nat :=
  match s.sau.volume with
  | some v => rightSide v.direction v.n s.tc.j
  | none => 0

/-- The states of sides 1 to 2N in the order of side number. -/
def sidesInOrder (d : Direction) (n : Nat) (openings : List Opening) : List SideState :=
  ((openings.flatMap fun o =>
      match d with
      | .ltr => [o.left, o.right]
      | .rtl => [o.right, o.left]).drop 1).take (2 * n)

/-- The counts of the six live states over all sides (R20). -/
def countSides (sides : List SideState) : SideCounts :=
  { pending := sides.count .pending, held := sides.count .held, accepted := sides.count .accepted
    retake := sides.count .retake, blank := sides.count .blank, foldout := sides.count .foldout }

/-- A gap side: PENDING or RETAKE (08 R167). -/
def isGap : SideState → Bool
  | .pending | .retake => true
  | .held | .accepted | .blank | .foldout | .absent => false

/-- The maximal runs of gap sides, from side number `side` on; `began` is the first side of a run under way (08 R167). -/
def gapRuns : (side : Nat) → (began : Option Nat) → List SideState → List (Nat × Nat)
  | _, none, [] => []
  | side, some f, [] => [(f, side - 1)]
  | side, began, st :: rest =>
    if isGap st then gapRuns (side + 1) (some (began.getD side)) rest
    else
      match began with
      | none => gapRuns (side + 1) none rest
      | some f => (f, side - 1) :: gapRuns (side + 1) none rest

/-- An opening record, 12 bytes (12 Table 12-6): an ABSENT side carries side number 0. -/
def openingBytes (d : Direction) (n j : Nat) (o : Opening) : List Byte :=
  byte2 j ++ byte2 (leftSide d n j) ++ byte1 (sideCode o.left) ++ byte2 (rightSide d n j) ++ byte1 (sideCode o.right)
    ++ byte4 o.dose

end Sys2Proof.Machine
end

