-- ==== Sys2Proof/Machine/Tickets.lean ====
section
/-! DEFINITION. The ticket ring of CC (06): opening a ticket's place, supersession (R130), orphaning (R131), release
(R134 to R136), and the backlog condition (R139). -/

namespace Sys2Proof.Machine

/-- How many tickets the ring holds (R127). -/
def ringSize : Nat := 32

/-- The serial after `n` (R128). -/
def serialAfter (n : Nat) : Nat :=
  if n = 4294967295 then 1 else n + 1

/-- Changes the OPEN ticket. -/
def mapOpen (f : Ticket → Ticket) (tickets : List Ticket) : List Ticket :=
  tickets.map fun t => if t.closed then t else f t

/-- Changes the OPEN ticket of the ring. -/
def State.onOpenTicket (f : Ticket → Ticket) (s : State) : State :=
  { s with cc := { s.cc with tickets := mapOpen f s.cc.tickets } }

/-- A ticket of the mount with number `mountNo` (01 R14). -/
def Ticket.ofMount (mountNo : Nat) (t : Ticket) : Bool :=
  t.mountNo == mountNo && !t.orphaned

/-- Gives a half its result, unless it holds one (R129). -/
def Half.give (r : SideResult) (h : Half) : Half :=
  { h with result := some (h.result.getD r) }

/-- Gives each covered side without a result the result (05 R121, R124). -/
def Ticket.giveAll (r : SideResult) (t : Ticket) : Ticket :=
  { t with left := t.left.map (Half.give r), right := t.right.map (Half.give r) }

/-- Every covered side holds a result. -/
def Ticket.decided (t : Ticket) : Bool :=
  (match t.left with
   | some h => h.result.isSome
   | none => true)
  && (match t.right with
      | some h => h.result.isSome
      | none => true)

/-- The half of a camera: A has the left one, B the right one. -/
def Ticket.half (t : Ticket) : Camera → Option Half
  | .a => t.left
  | .b => t.right

/-- Gives the half of a camera a result, unless it holds one. -/
def Ticket.giveHalf (c : Camera) (r : SideResult) (t : Ticket) : Ticket :=
  match c with
  | .a => { t with left := t.left.map (Half.give r) }
  | .b => { t with right := t.right.map (Half.give r) }

/-! ### Supersession and orphaning -/

/-- Flags a half that names the side. -/
def Half.supersede (side : Nat) (h : Half) : Half :=
  if h.side = side then { h with superseded := true } else h

/-- Flags the half of a ticket of the mount that covers the side (R130). -/
def Ticket.supersede (mountNo side : Nat) (t : Ticket) : Ticket :=
  if t.ofMount mountNo then
    { t with left := t.left.map (Half.supersede side), right := t.right.map (Half.supersede side) }
  else t

/-- A HELD side is superseded: it becomes RETAKE, and its ticket's half is flagged (R130). -/
def State.supersede (side : Nat) (s : State) : State :=
  match s.sau.volume with
  | some v =>
    let s1 := s.setSide side .retake
    { s1 with cc := { s1.cc with tickets := s1.cc.tickets.map (Ticket.supersede v.mountNo side) } }
  | none => s

/-- Flags every ticket of the mount as orphaned (R131). -/
def State.orphan (mountNo : Nat) (s : State) : State :=
  { s with cc := { s.cc with
      tickets := s.cc.tickets.map fun t => if t.mountNo = mountNo then { t with orphaned := true } else t } }

/-! ### The backlog (R139) -/

/-- A CLOSED ticket that has not been read. -/
def Ticket.unread (t : Ticket) : Bool :=
  t.closed && !t.read

/-- The number of CLOSED unread tickets. -/
def State.unreadCount (s : State) : Nat :=
  s.cc.tickets.countP Ticket.unread

/-- The oldest CLOSED unread ticket in ring order. -/
def State.oldestUnread? (s : State) : Option Ticket :=
  s.cc.tickets.find? Ticket.unread

/-- The age of a CLOSED ticket in ms. -/
def State.ageOf (t : Ticket) (s : State) : Nat :=
  s.clock - t.closeTime.getD 0

/-- The count test of R139. -/
def State.backlogCount (s : State) : Bool :=
  decide (s.set.backlogThreshold ≤ s.unreadCount)

/-- The age test of R139. -/
def State.backlogAge (s : State) : Bool :=
  match s.oldestUnread? with
  | some t => decide (t.closeTime.getD 0 + s.set.backlogTimeout * 1000 ≤ s.clock)
  | none => false

/-- Re-tests the backlog condition; where it comes to hold, the BACKLOG notice is made pending (R139, R140). -/
def State.retestBacklog (s : State) : State :=
  let holds := s.backlogCount || s.backlogAge
  let s1 := { s with cc := { s.cc with backlog := holds } }
  if holds && !s.cc.backlog then
    s1.notifyWith .backlog fun g =>
      let g1 := if s.backlogCount then insertNew .count g.backlog else g.backlog
      { g with backlog := if s.backlogAge then insertNew .age g1 else g1 }
  else s1

/-! ### Release -/

/-- The state a verdict gives to a half's side (06 Table 6-3). -/
def verdictState : Option SideResult → Verdict → SideState
  | some .stored, .accept => .accepted
  | _, _ => .retake

/-- Applies a verdict to a half of a released ticket (R136). -/
def State.applyHalf (v : Verdict) (h : Option Half) (s : State) : State :=
  match h with
  | some h => if h.superseded then s else s.setSide h.side (verdictState h.result v)
  | none => s

/-- Applies the verdicts of a released ticket (R136). -/
def State.applyVerdicts (t : Ticket) (left right : Verdict) (s : State) : State :=
  match s.sau.volume with
  | some v => if t.ofMount v.mountNo then (s.applyHalf left t.left).applyHalf right t.right else s
  | none => s

/-- The oldest ticket becomes FREE (R127). -/
def State.freeOldest (s : State) : State :=
  { s with cc := { s.cc with oldest := (s.cc.oldest + 1) % ringSize, tickets := s.cc.tickets.drop 1 } }

/-- What a release has done: the serials released, in order, and whether it stopped at an OPEN ticket. -/
structure Released where
  serials : List Nat
  atOpen  : Bool
  deriving DecidableEq, Repr

/-- The release walk, `fuel` tickets at most (R135). -/
def releaseWalk (left right : Verdict) : (fuel : Nat) → State → List Nat → State × Released
  | 0, s, done => (s, ⟨done, false⟩)
  | fuel + 1, s, done =>
    match s.cc.tickets with
    | [] => (s, ⟨done, false⟩)
    | t :: _ =>
      if t.closed then
        releaseWalk left right fuel ((s.applyVerdicts t left right).freeOldest) (done ++ [t.serial])
      else (s, ⟨done, true⟩)

end Sys2Proof.Machine
end

