-- ==== Sys2Proof/Machine/Admission.lean ====
section
/-! DEFINITION. DI's admission question: the projection of a lamp window (04 R83) and the tests of the day budget and
the opening limit (04 R84), with the lamp and sensor tests captures and previews share. -/

namespace Sys2Proof.Machine

/-- The sync period P of a nominal rate in whole ms, rounded up (R83). -/
def syncPeriodMs (rate : Nat) : Nat :=
  (1000 + rate - 1) / rate

/-- A bank of a profile's enable set that is healthy. -/
def State.usable (p : Profile) (b : LampBank) (s : State) : Bool :=
  p.enabled.get b && !(s.lc.banks.get b).faulted

/-- A healthy bank stands in the profile's enable set. -/
def State.anyUsable (p : Profile) (s : State) : Bool :=
  PerBank.any fun b => s.usable p b

/-- The share of a bank in the admission illuminance of a FIXED profile. -/
def State.bankLux (p : Profile) (s : State) (b : LampBank) : Nat :=
  if s.usable p b then p.levels.get b * s.set.luxPerStep.get b else 0

/-- The admission illuminance E_adm (R83). -/
def State.admissionLux (p : Profile) (s : State) : Nat :=
  match p.mode with
  | .heldLux => p.target
  | .fixed => min 65456 (s.bankLux p .la + s.bankLux p .lb + s.bankLux p .ra + s.bankLux p .rb)

/-- The projection of a window lit for `time` ms, in lx·s, rounded up (R83). -/
def State.projection (p : Profile) (time : Nat) (s : State) : Nat :=
  (s.admissionLux p * time + 999) / 1000

/-- The lit time T of a capture in ms (R83). -/
def State.captureTime (p : Profile) (s : State) : Nat :=
  p.settle + p.exposure + syncPeriodMs s.set.syncRate

/-- DI's answer to the admission question: the refusal, or none where the window is admitted (R84). -/
def State.doseRefusal (p : Profile) (time : Nat) (s : State) : Option Result :=
  match s.limits? with
  | none => none
  | some c =>
    let proj := s.projection p time
    if c.dayBudget ≤ s.di.dayDose ∨ c.dayBudget < s.di.dayDose + proj then some .doseVolume
    else if c.openingLimit < (openingAt s.sau.openings s.tc.j).dose + proj then some .doseOpening
    else none

/-- The selector delivers edges that admit new windows (05 Table 5-4). -/
def SyncState.admits : SyncState → Bool
  | .external | .internal | .manualExternal | .manualInternal => true
  | .detecting | .manualExternalLost => false

end Sys2Proof.Machine
end

