-- ==== Sys2Proof/Machine/Lamps.lean ====
section
/-! DEFINITION. LC: banks, lamp windows, regulation, bank faults and previews (03), and the PWM of a lit bank (R57). -/

namespace Sys2Proof.Machine

/-! ### Dark -/

/-- A bank goes dark (R56). -/
def BankRec.dark (b : BankRec) : BankRec :=
  { b with lit := false, level := 0 }

/-- Lit time has ended if it was under way and no bank is lit now: DI's two counts go to 0 (04 R76 to R78). -/
def State.litTimeEnded (wasLit : Bool) (s : State) : State :=
  if wasLit && !s.anyLit then { s with di := { s.di with satCount := 0, darkCount := 0 } } else s

/-- Every bank goes dark at once. -/
def State.banksDark (s : State) : State :=
  let s1 := { s with lc := { s.lc with banks := s.lc.banks.map BankRec.dark } }
  s1.litTimeEnded s.anyLit

/-- The learned levels after a HELD-LUX window that reached exposure start (R60). -/
def learnFrom (start : PerBank (Option Nat)) (old : PerBank Nat) : PerBank Nat :=
  PerBank.of fun b => (start.get b).getD (old.get b)

/-- Updates the learned levels at the end of a capture window's lit part (R60). -/
def State.learn (w : Window) (s : State) : State :=
  match w.mode, w.startLevels with
  | .heldLux, some start =>
    { s with lc := { s.lc with
        learned := s.lc.learned.set w.profile (learnFrom start (learnedAt s.lc.learned w.profile)) } }
  | _, _ => s

/-- The window in progress ends: every bank goes dark, regulation stops and the window state becomes NONE; a capture
window leaves its learned levels (R60). -/
def State.endWindow (s : State) : State :=
  match s.lc.window with
  | none => s.banksDark
  | some w =>
    let s1 := match w.kind with
      | .capture => s.learn w
      | .preview => s
    { s1.banksDark with lc := { s1.banksDark.lc with window := none } }

/-- A LIT preview ends with the result given (R70 to R72); with none lit nothing happens. -/
def State.endPreview (result : PreviewEnd) (s : State) : State :=
  match s.lc.preview with
  | none => s
  | some _ =>
    let s1 := s.endWindow
    { s1 with lc := { s1.lc with preview := none, lastEnd := some result } }

/-- A capture window is in progress. -/
def State.captureWindow (s : State) : Bool :=
  match s.lc.window with
  | some w => w.kind == .capture
  | none => false

/-! ### Lighting -/

/-- The level a window gives a bank (R59): banks outside the enable set and faulted banks get 0. -/
def State.windowLevel (index : Nat) (p : Profile) (s : State) (b : LampBank) : Nat :=
  if s.usable p b then
    match p.mode with
    | .fixed => p.levels.get b
    | .heldLux => max 1 ((learnedAt s.lc.learned index).get b)
  else 0

/-- Lights the banks of a profile and starts regulation (R56, R59, R61, R69). -/
def State.openWindow (kind : WindowKind) (index : Nat) (s : State) : State :=
  let p := profileAt s.set.profiles index
  let banks := PerBank.of fun b =>
    let l := s.windowLevel index p b
    { s.lc.banks.get b with level := l, lit := decide (1 ≤ l), prevLevel := l, changedAt := s.now }
  let lit := PerBank.any fun b => (banks.get b).lit
  { s with lc := { s.lc with
      banks := banks
      window := some
        { kind := kind, profile := index, mode := p.mode, target := p.target, interval := p.interval
          hold := p.hold
          nextCompare := if lit && p.mode == .heldLux then some (s.now + p.interval * 1000) else none
          held := false, startLevels := none } } }

/-! ### PWM (R57) -/

/-- Frames of the sync period since the edge that started frame 1, in units of 1/1,000,000 frame: a period has 32 frames.
With no edge yet, frames count from cold start. Log entry 30. -/
def State.frameCount (t : Nat) (s : State) : Nat :=
  (t - s.lc.frameEdge.getD 0) * 32 * s.set.syncRate

/-- The frame that instant `t` falls in, counted from 0. After the thirty-second frame that frame is repeated until an edge
is delivered (05 R105). -/
def State.frameIndex (t : Nat) (s : State) : Nat :=
  min 31 (s.frameCount t / 1000000)

/-- The level that shapes a bank's frame in progress: a change waits for the next frame (R57), and with no edge delivered the
thirty-second frame keeps its on-share (05 R105). -/
def State.frameLevel (b : BankRec) (s : State) : Nat :=
  if s.lc.frameEdge.getD 0 ≤ b.changedAt ∧ s.frameIndex b.changedAt = s.frameIndex s.now then b.prevLevel else b.level

/-- A bank's PWM output at the present instant: on for level/99 of each frame (R57). -/
def State.bankOn (bank : LampBank) (s : State) : Bool :=
  let b := s.lc.banks.get bank
  b.lit && decide ((s.frameCount s.now % 1000000) * 99 < s.frameLevel b * 1000000)

/-- At an edge every bank's frame in progress takes the level the bank stands at (R57). -/
def BankRec.atEdge (b : BankRec) : BankRec :=
  { b with prevLevel := b.level }

/-! ### Regulation (R61, R62) -/

/-- The tolerance around a target (R61). -/
def tolerance (target : Nat) : Nat :=
  max 1 (target / 32)

/-- The level after a comparison with illuminance `e` (R61). -/
def steppedLevel (e target level : Nat) : Nat :=
  if e < target - tolerance target then min 99 (level + 1)
  else if target + tolerance target < e then max 1 (level - 1)
  else level

/-- Steps a lit bank; a change takes effect at the next frame, and the frame in progress keeps the level `shown` that shapes
it (R57). -/
def BankRec.step (e target now shown : Nat) (b : BankRec) : BankRec :=
  let l := steppedLevel e target b.level
  if b.lit && l != b.level then { b with level := l, prevLevel := shown, changedAt := now } else b

/-- A comparison of window `w` that was due at `due` (R61). -/
def State.compareAt (due : Nat) (w : Window) (s : State) : State :=
  { s with lc := { s.lc with
      banks := s.lc.banks.map fun b => b.step s.di.lux w.target s.now (s.frameLevel b)
      window := some { w with nextCompare := some (due + w.interval * 1000) } } }

/-- When the next comparison is due: a HELD-LUX window with a bank lit and regulation not held (R61, R62). -/
def State.compareDue? (s : State) : Option (Nat × Window) :=
  match s.lc.window with
  | some w =>
    match w.nextCompare with
    | some t => if s.anyLit && !w.held then some (t, w) else none
    | none => none
  | none => none

/-! ### Bank current faults (R65, R66) -/

/-- The fault a report names (R65). -/
def reportCode : CurrentReport → FaultCode
  | .low => .bankOpen
  | .high => .bankShort

/-- A report out of band from a lit bank in the on-share of its frame, in which alone LC watches it (R65, R66). -/
def State.bankFault (b : LampBank) (r : CurrentReport) (s : State) : State :=
  let rec0 := s.lc.banks.get b
  if s.bankOn b then
    let faulted := { rec0.dark with faulted := true, kind := some (reportCode r) }
    let s1 := { s with lc := { s.lc with banks := s.lc.banks.set b faulted } }
    let s2 := (s1.litTimeEnded true).report (reportCode r) [bankCode b]
    let s3 := if s2.captureWindow then s2.onOpenTicket fun t => { t with lampDegraded := true } else s2
    if s3.anyLit then s3 else s3.endPreview .dark
  else s

/-! ### Preview requests -/

/-- The duration of a preview in force, in s (R68). -/
def previewSeconds (d : Nat) : Nat :=
  clampTo 1 30 d

/-- The tests of PREVIEW, in order (R68). -/
def State.previewRefusal (profile duration : Nat) (s : State) : Option Result :=
  let p := profileAt s.set.profiles profile
  if !s.mounted then some .notMounted
  else if 3 < profile then some .argument
  else if s.runActive || !s.settled then some .state
  else if s.ticketOpen || s.lc.preview.isSome then some .busy
  else if !s.cc.sync.state.admits then some .noSync
  else if !s.anyUsable p then some .lamp
  else if s.di.sensorDark then some .sensor
  else s.doseRefusal p (previewSeconds duration * 1000)

/-- An admitted preview is lit (R69). -/
def State.lightPreview (profile duration : Nat) (s : State) : State :=
  let s1 := s.openWindow .preview profile
  { s1 with lc := { s1.lc with
      preview := some { profile := profile, start := s1.clock
                        finish := s1.clock + previewSeconds duration * 1000 } } }

/-- PREVIEW (R68). -/
def decidePreview (profile duration : Nat) (s : State) : State × Answer :=
  match s.previewRefusal profile duration with
  | some r => refuse r s
  | none =>
    answer .ok [.num (previewSeconds duration), .flag (outside 1 30 duration)] (s.lightPreview profile duration)

/-- PREVIEW OFF (R71). -/
def decidePreviewOff (s : State) : State × Answer :=
  if s.lc.preview.isSome then answer .ok [] (s.endPreview .off) else refuse .absent s

/-! ### Other requests -/

/-- The new level of PROFILE LEVEL and its clamped flag (R64). -/
def levelAfter (old : Nat) : LevelAction → Nat × Bool
  | .up => (min 99 (old + 1), decide (99 ≤ old))
  | .down => (old - 1, decide (old = 0))
  | .set v => (min 99 v, decide (99 < v))

/-- PROFILE LEVEL (R64). -/
def decideProfileLevel (profile : Nat) (bank : Option LampBank) (action : Option LevelAction) (s : State) :
    State × Answer :=
  match bank, action with
  | some b, some a =>
    if 3 < profile then refuse .argument s
    else
      let p := profileAt s.set.profiles profile
      let (l, clamped) := levelAfter (p.levels.get b) a
      answer .ok [.num l, .flag clamped]
        { s with
          set := { s.set with profiles := s.set.profiles.set profile { p with levels := p.levels.set b l } }
          lc := { s.lc with learned := s.lc.learned.set profile ((learnedAt s.lc.learned profile).set b l) } }
  | _, _ => refuse .argument s

/-- LAMP CLEAR (R67). -/
def decideLampClear (target : Option LampTarget) (s : State) : State × Answer :=
  match target with
  | none => refuse .argument s
  | some .sensor => answer .ok [.flag s.di.sensorDark] { s with di := { s.di with sensorDark := false } }
  | some (.bank b) =>
    let r := s.lc.banks.get b
    answer .ok [.flag r.faulted]
      { s with lc := { s.lc with banks := s.lc.banks.set b { r with faulted := false, kind := none } } }

/-- A bank in LAMP STATUS. -/
def BankRec.items (b : BankRec) : List Item :=
  [.flag b.faulted, Item.ofNat? (b.kind.map FaultCode.code), .flag b.lit, .num b.level]

/-- The regulation state in LAMP STATUS: 0 OFF, 1 REGULATING, 2 HELD (R73). -/
def regulationOrder : Option Window → Nat
  | none => 0
  | some w =>
    match w.mode with
    | .fixed => 0
    | .heldLux => if w.held then 2 else 1

/-- The target of the window in progress: only a HELD-LUX window regulates toward one (R61, R73). Log entry 7. -/
def Window.target? (w : Window) : Option Nat :=
  match w.mode with
  | .heldLux => some w.target
  | .fixed => none

/-- LAMP STATUS (R73). -/
def lampStatusItems (s : State) : List Item :=
  let w := s.lc.window
  [.num (match w with
         | none => 0
         | some w => match w.kind with
           | .capture => 1
           | .preview => 2)]
  ++ s.lc.banks.la.items ++ s.lc.banks.lb.items ++ s.lc.banks.ra.items ++ s.lc.banks.rb.items
  ++ [.num (regulationOrder w), .num s.di.lux,
      Item.ofNat? (w.bind Window.target?), Item.ofNat? ((w.bind Window.target?).map tolerance),
      .flag s.lc.preview.isSome, Item.ofNat? (s.lc.preview.map Preview.profile),
      Item.ofNat? (s.lc.preview.map fun p => p.finish - s.clock),
      Item.ofNat? (s.lc.lastEnd.map PreviewEnd.order), .flag s.di.sensorDark,
      .nums (s.lc.learned.flatMap PerBank.toList)]

def decideLampStatus (s : State) : State × Answer :=
  answer .ok (lampStatusItems s) s

end Sys2Proof.Machine
end

