-- ==== Sys2Proof/Machine/Dismounting.lean ====
section
/-! DEFINITION. The completion of a dismount (08 R165 to R167) with DI's hand-off to the carry table (04 R97). -/

namespace Sys2Proof.Machine

/-- How many entries the carry table holds (R94). -/
def carrySize : Nat := 16

/-- Appends an entry to the carry table, evicting the oldest of a full table (R97 steps 3 and 4). -/
def State.appendCarry (e : CarryEntry) (s : State) : State :=
  match s.di.carry with
  | [] => { s with di := { s.di with carry := [e] } }
  | oldest :: rest =>
    if carrySize ≤ s.di.carry.length then
      let s1 := s.report .carryEvict [oldest.dose]
      { s1 with di := { s1.di with carry := rest ++ [e] } }
    else { s with di := { s.di with carry := s.di.carry ++ [e] } }

/-- DI's part in a dismount: the entry is appended, and the day state is cleared (R97). -/
def State.handOffDose (v : Volume) (s : State) : State :=
  let s1 := s.appendCarry { mark := v.mark, dose := s.di.dayDose, time := s.clock, cls := v.cls }
  { s1 with di := { s1.di with dayDose := 0, carriedIn := 0, exhausted := false, warned := false } }

/-- Turns a HELD side into RETAKE (R165 step 2). -/
def unhold : SideState → SideState
  | .held => .retake
  | .pending => .pending
  | .accepted => .accepted
  | .retake => .retake
  | .blank => .blank
  | .foldout => .foldout
  | .absent => .absent

/-- The opening table after step 2 of a forced dismount. -/
def unholdAll (openings : List Opening) : List Opening :=
  openings.map fun o => { o with left := unhold o.left, right := unhold o.right }

/-- The number of HELD sides of a volume. -/
def heldCount (v : Volume) (openings : List Opening) : Nat :=
  (sidesInOrder v.direction v.n openings).count .held

/-- How many gap runs the tally keeps (R167). -/
def gapLimit : Nat := 32

/-- The number of sides in gap runs. -/
def gapSidesOf : List (Nat × Nat) → Nat
  | [] => 0
  | (a, b) :: rest => (b + 1 - a) + gapSidesOf rest

/-- The tally of a volume (R166), from the state after step 2, with the forced-retake count. -/
def State.buildTally (v : Volume) (cause : TallyCause) (forcedRetakes : Nat) (s : State) : Tally :=
  let sides := sidesInOrder v.direction v.n s.sau.openings
  let runs := gapRuns 1 none sides
  { mark := v.mark, mountNo := v.mountNo, cls := v.cls, source := v.source, n := v.n, direction := v.direction
    cause := cause, time := s.clock, counts := countSides sides, forcedRetakes := forcedRetakes
    dayDose := s.di.dayDose, carriedIn := s.di.carriedIn, turnsDone := s.tc.turnsDone
    missRetries := s.tc.missRetries, doubleRetries := s.tc.doubleRetries, doseSkips := s.rc.volumeSkips
    gapCount := runs.length, gapSides := gapSidesOf runs, gaps := runs.take gapLimit
    truncated := decide (gapLimit < runs.length) }

/-- Steps 1 and 2 of a forced dismount (R165). -/
def State.forceSides (v : Volume) (s : State) : State :=
  let s1 := s.orphan v.mountNo
  { s1 with sau := { s1.sau with openings := unholdAll s1.sau.openings } }

/-- TC's part in step 5 of R165: j is 0, the work in hand is gone, and TC is UNCLAMPED but at a warm reset. -/
def Tc.dismounted (cause : TallyCause) (t : Tc) : Tc :=
  { t with
    j := 0, op := none, loweringDue := false, attempt := 0, air := 0
    pendingDwell := false, pendingOverforce := false, haltMark := false, stopMark := false
    state := if cause = .warmReset then t.state else .unclamped }

/-- A dismount completes (R165); with no volume mounted there is nothing to complete. -/
def State.completeDismount (cause : TallyCause) (s : State) : State :=
  match s.sau.volume with
  | none => s
  | some v =>
    let forced := decide (cause ≠ .dismount)
    let retakes := if forced then heldCount v s.sau.openings else 0
    let s1 := if forced then s.forceSides v else s
    let tally := s1.buildTally v cause retakes
    let s2 := s1.handOffDose v
    { s2 with
      sau := { s2.sau with volume := none, openings := [], tally := some tally }
      tc := s2.tc.dismounted cause
      rc := { s2.rc with volumeSkips := 0 } }

/-- The cause of a dismount by request (Table 8-2). -/
def causeOf (forced : Bool) : TallyCause :=
  if forced then .forced else .dismount

end Sys2Proof.Machine
end

