-- ==== Sys2Proof/Machine/Turning.lean ====
section
/-! DEFINITION. TC: turns, the platen, halts, recovery and homing (02), with the end of start-up that the start-up homing
brings (11 R191). Times of phases are in µs. -/

namespace Sys2Proof.Machine

/-- Changes TC's part of the state. -/
def State.withTc (f : Tc → Tc) (s : State) : State :=
  { s with tc := f s.tc }

/-! ### Ends of operations (R33) -/

/-- Makes the TURN notice of an end pending, with the record in hand, and tells RC. -/
def State.tellEnd (kind : OpKind) (result : OpResult) (s : State) : State :=
  let e : TurnEnd :=
    { kind := kind, result := result
      turned := match s.tc.op with
        | some o => o.turned
        | none => 0
      remaining := match s.tc.op with
        | some o => o.remaining
        | none => 0
      j := s.tc.j, state := s.tc.state }
  let byRun := match s.tc.op with
    | some o => o.byRun
    | none => false
  let s1 := s.notifyWith .turn fun g => { g with turnEnd := some e }
  { s1 with rc := { s1.rc with heardEnd := some { kind := kind, result := result, byRun := byRun } } }

/-- The kind an end is told under: RECOVER while a recovery is in flight (R51), else the record's own. -/
def Tc.endKind (t : Tc) : OpKind :=
  if t.recover.isSome then .recover
  else
    match t.op with
    | some o => o.kind
    | none => .unclamp

/-- The marks and purposes of an operation, cleared at its end. -/
def Tc.cleared (t : Tc) : Tc :=
  { t with
    attempt := 0, air := 0, haltMark := false, stopMark := false, raiseGoal := none, returnGoal := none
    recover := none, origin := none, faultPending := false }

/-- The operation in hand ends in state `st` with a result, and its record is dropped (R33). -/
def State.finishOp (st : TcState) (result : OpResult) (s : State) : State :=
  let s1 := s.withTc fun t => { t with state := st }
  (s1.tellEnd s1.tc.endKind result).withTc fun t => { t.cleared with op := none, loweringDue := false }

/-- The operation in hand stops in HALTED and keeps its record (R42, R43). -/
def State.haltOp (loweringDue : Bool) (s : State) : State :=
  let s1 := s.withTc fun t => { t with state := .halted, loweringDue := loweringDue }
  (s1.tellEnd s1.tc.endKind .halted).withTc Tc.cleared

/-- A recovery ends DONE in state `st` (R51). What ATTENTION holds stays only in ATTENTION (R48). -/
def State.recovered (st : TcState) (s : State) : State :=
  ((s.withTc fun t =>
      { t with state := st
               attention := match st with
                 | .attention => t.attention
                 | _ => none }).tellEnd .recover .done).withTc Tc.cleared

/-- At rest with no work: UNCLAMPED or CLAMPED by the platen's position. -/
def State.restState (s : State) : TcState :=
  if s.platenDown then .clamped else .unclamped

/-- SEEK, or UNCLAMPED while no volume is mounted (R46). -/
def State.seekState (s : State) : TcState :=
  if s.mounted then .seek else .unclamped

/-- Drops the remaining count of the record in hand. -/
def Tc.dropRemaining (t : Tc) : Tc :=
  { t with loweringDue := false
           op := t.op.map fun o => { o with remaining := 0 } }

/-- The sign of an interrupted turn, or none for a platen move or no record (R48). -/
def Tc.turnSign (t : Tc) : Option Bool :=
  match t.op with
  | some o => if o.kind = .turn then some o.forward else none
  | none => none

/-- The remaining count of the record in hand. -/
def Tc.remainingCount (t : Tc) : Nat :=
  match t.op with
  | some o => o.remaining
  | none => 0

/-- What TC will hold in ATTENTION for a fault (R48). A further fault in ATTENTION or on the way to it keeps the sign and
the count held, and its code replaces the first one's: the model's choice, log entry 39. -/
def Tc.attentionFor (code : FaultCode) (t : Tc) : Attention :=
  match t.attention with
  | some a => { a with code := code }
  | none => { code := code, sign := t.turnSign, remaining := t.remainingCount }

/-- TC enters ATTENTION (R48). The operation in hand, or the recovery, ends FAULT in that event: after an overforce it is the
event of the UP switch, the model's choice, log entry 49. -/
def State.toAttention (s : State) : State :=
  if s.tc.op.isSome || s.tc.recover.isSome then
    (s.finishOp .attention .fault).withTc fun t => { t with knife := 0, dwellStart := none }
  else
    s.withTc fun t => { t.cleared with state := .attention, knife := 0, dwellStart := none, loweringDue := false }

/-! ### Raising and lowering -/

/-- TC enters RAISING: the dwell timer stops and the platen is no longer at force (R36, R40). -/
def State.beginRaise (goal : RaiseGoal) (s : State) : State :=
  s.withTc fun t =>
    { t with state := .raising, phaseStart := s.now, dwellStart := none, atForce := false, raiseGoal := some goal }

/-- TC enters LOWERING (R35, R37). Log entry 11. -/
def State.beginLowering (s : State) : State :=
  { s with
    tc := { s.tc with state := .lowering, phaseStart := s.now, loweringDue := false }
    pins := { s.pins with platenUp := false } }

/-- A record of a platen move. -/
def platenOp (kind : OpKind) (byRun : Bool) : Op :=
  { kind := kind, forward := true, remaining := 0, turned := 0, clampAfter := false, fromClamped := false
    byRun := byRun }

/-! ### Leaves (R26 to R32) -/

/-- The leaf to be lifted next (R26). -/
def Tc.nextLeaf (t : Tc) : Nat :=
  match t.op with
  | some o => if o.forward then t.j + 1 else t.j
  | none => t.j + 1

/-- A lift attempt begins (R27). Log entry 11. -/
def State.beginAttempt (attempt air : Nat) (s : State) : State :=
  { s with
    tc := { s.tc with
      state := .lifting, phaseStart := s.now, attempt := attempt, air := air, knife := air, vacuum := true
      leafInHand := true, raiseGoal := none, returnGoal := none }
    pins := { s.pins with armPark := false } }

/-- The class air-knife start level and the retry limit of the mounted volume. -/
def State.airStart (s : State) : Nat :=
  match s.limits? with
  | some c => c.airStart
  | none => 0

def State.retryLimit (s : State) : Nat :=
  match s.limits? with
  | some c => c.retryLimit
  | none => 0

/-- The first attempt on a leaf (R26). -/
def State.beginLeaf (s : State) : State :=
  s.beginAttempt 1 s.airStart

/-- The arm sweeps empty to park (R31). The return ends at the next making of the park switch, also where the switch stands
made as the return begins: the model's choice, log entry 40. -/
def State.beginReturn (goal : ReturnGoal) (s : State) : State :=
  s.withTc fun t =>
    { t with state := .returning, phaseStart := s.now, vacuum := false, knife := 0, returnGoal := some goal }

/-- Any leaves on the head are released back onto the source half (R28, R42, R51). Log entry 12. -/
def State.releaseBack (s : State) : State :=
  { s with
    tc := { s.tc with vacuum := false }
    pins := { s.pins with leafSensor := .zero } }

/-- The halt's safe point in LIFTING: the leaf is released back, and the arm returns to park (Table 2-6). Log entry 13. The
leaf is no longer in hand from then on: the model's choice, log entry 47. -/
def State.haltLift (s : State) : State :=
  (s.releaseBack.withTc fun t => { t with leafInHand := false }).beginReturn .turn

/-- A leaf is exhausted (R29). -/
def State.exhaustLeaf (code : FaultCode) (s : State) : State :=
  let s1 := s.report code [s.tc.nextLeaf, s.tc.attempt, s.tc.air]
  (s1.withTc fun t => { t with attention := some (t.attentionFor code) }).beginReturn .exhausted

/-- An attempt that brought no single leaf: another one, or the leaf is exhausted (R27, R28). -/
def State.retryLeaf (count : Tc → Tc) (code : FaultCode) (s : State) : State :=
  if s.tc.attempt ≤ s.retryLimit then
    (s.withTc count).beginAttempt (s.tc.attempt + 1) (min 9 (s.tc.air + 1))
  else s.exhaustLeaf code

def Tc.countMiss (t : Tc) : Tc :=
  { t with missRetries := satAdd maxCount16 t.missRetries 1 }

def Tc.countDouble (t : Tc) : Tc :=
  { t with doubleRetries := satAdd maxCount16 t.doubleRetries 1 }

/-- The leaf sensor's report on a lift attempt (R27, R28, and R42 for an attempt that a HALT has marked). An attempt that a
HALT and a run's end have both marked releases back as the HALT asks; the turn then ends STOPPED as the run's end asks: the
model's choice, log entry 41. -/
def State.liftReport (r : LeafReport) (s : State) : State :=
  match r with
  | .one =>
    if s.tc.haltMark then s.haltLift
    else s.withTc fun t => { t with state := .carrying, phaseStart := s.now, knife := 0 }
  | .zero =>
    if s.tc.haltMark then s.haltLift
    else (s.withTc fun t => { t with vacuum := false }).retryLeaf Tc.countMiss .missExhausted
  | .many =>
    let s1 := s.releaseBack.report .doubleDetected [s.tc.nextLeaf, s.tc.attempt]
    if s.tc.haltMark then s1.haltLift
    else s1.retryLeaf Tc.countDouble .doubleExhausted

/-- LEAF_SENSOR_REPORT: the sensor's level, and what TC does with it (R27, R28, R48). In ATTENTION alone a report of 0 puts
the vacuum off: the model's choice, log entry 50. -/
def State.leafReport (r : LeafReport) (s : State) : State :=
  let s1 := { s with pins := { s.pins with leafSensor := r } }
  match s.tc.state with
  | .lifting => s1.liftReport r
  | .attention => if r = .zero then s1.withTc fun t => { t with vacuum := false } else s1
  | _ => s1

/-- j after a carry (R30). -/
def carriedTo (forward : Bool) (j : Nat) : Nat :=
  if forward then j + 1 else j - 1

/-- The end of a carry (R30). -/
def State.endCarry (s : State) : State :=
  match s.tc.state, s.tc.op with
  | .carrying, some o =>
    s.withTc fun t =>
      { t with
        state := .releasing, phaseStart := s.now, j := carriedTo o.forward t.j, leafInHand := false
        op := some { o with remaining := o.remaining - 1, turned := o.turned + 1 }
        turnsDone := satAdd maxCount16 t.turnsDone 1 }
  | _, _ => s

/-- The head is up after the release (R31). -/
def State.headUp (s : State) : State :=
  match s.tc.state with
  | .releasing =>
    let goal := match s.tc.recover with
      | some _ => ReturnGoal.recover
      | none => ReturnGoal.turn
    s.releaseBack.beginReturn goal
  | _ => s

/-- The turn is to end with a lowering (R32). -/
def State.lowersAtEnd (o : Op) (s : State) : Bool :=
  o.clampAfter || (o.fromClamped && (match s.limits? with
    | some c => c.policy == .clamp
    | none => false))

/-- The foldout check before a later leaf, and the lift or the turn's end (R26, R31, R44). -/
def State.nextLeafOrFoldout (s : State) : State :=
  if s.isFoldout s.tc.nextLeaf then s.finishOp .unclamped .foldoutStop else s.beginLeaf

/-- A turn's return has ended at park (R31, R32, R42, R45). The mark of a run's end goes before that of a HALT, in whatever
order they came: the model's choice, log entry 41. -/
def State.turnReturned (s : State) : State :=
  match s.tc.op with
  | none => s.finishOp .unclamped .done
  | some o =>
    if s.tc.stopMark then (s.withTc Tc.dropRemaining).finishOp .unclamped .stopped
    else if s.tc.haltMark && (decide (0 < o.remaining) || s.lowersAtEnd o) then
      s.haltOp (decide (o.remaining = 0))
    else if 0 < o.remaining then s.nextLeafOrFoldout
    else if s.lowersAtEnd o then s.beginLowering
    else s.finishOp .unclamped .done

/-! ### Start-up's end and homing (R53, 11 R191) -/

/-- Start-up ends: the homing outcome stands, and the START notice is made pending (11 R191 step 6). It carries the selector's
state at this event: the model's choice, log entry 58. -/
def State.endStart (outcome : HomingOutcome) (s : State) : State :=
  let s1 := { s with start := { s.start with phase := .done, homing := some outcome } }
  s1.notifyWith .start fun g =>
    { g with start := some { restore := s.start.restoreOutcome, sync := s.cc.sync.state
                             guardWaits := s.start.guardWaits, homing := outcome } }

/-- The kind of a homing's TURN notice: RECOVER for one that a SAFE-STOP's recovery runs (R51), else HOMING (R53). Log
entry 16. -/
def Tc.homingKind (t : Tc) : OpKind :=
  if t.homeByRecover then .recover else .homing

/-- The end of a homing is told: by the START notice at cold start, else by a TURN notice (R53). -/
def State.tellHoming (outcome : HomingOutcome) (result : OpResult) (s : State) : State :=
  if s.starting then s.endStart outcome else s.tellEnd s.tc.homingKind result

def Tc.homed (t : Tc) : Tc :=
  { t.cleared with homePhase := none, homeByRecover := false, loweringDue := false, op := none }

/-- Homing succeeds (R53). -/
def State.homingDone (s : State) : State :=
  let st := match s.tc.homeCause with
    | .coldStart | .warmReset => TcState.unclamped
    | .attention => s.seekState
  ((s.withTc fun t => { t with state := st, attention := none, op := none }).tellHoming .done .done).withTc Tc.homed

/-- Homing fails in a phase (R53). -/
def State.homingFailed (part : HomePart) (s : State) : State :=
  let s1 := s.report .homeFail [match part with
    | .platen => 0
    | .arm => 1]
  ((s1.withTc fun t =>
      { t with state := .attention, op := none
               attention := some { code := .homeFail, sign := none, remaining := 0 } }).tellHoming
    (.failed part) .fault).withTc Tc.homed

/-- The arm phase of homing begins; a switch already made ends it at once (R53). -/
def State.homeArm (s : State) : State :=
  let s1 := s.withTc fun t => { t with homePhase := some .arm, phaseStart := s.now }
  if s.pins.armPark then s1.homingDone else s1

/-- Homing begins (R53). -/
def State.beginHoming (s : State) : State :=
  let s1 := s.withTc fun t =>
    { t with state := .homing, homePhase := some .platen, phaseStart := s.now, vacuum := false, knife := 0
             atForce := false, dwellStart := none, raiseGoal := none, returnGoal := none, recover := none
             origin := none, faultPending := false, attempt := 0, air := 0, haltMark := false, stopMark := false
             leafInHand := false, attention := none }
  if s.pins.platenUp then s1.homeArm else s1

/-- Homing for a cause. -/
def State.homeFor (cause : HomeCause) (byRecover : Bool) (s : State) : State :=
  (s.withTc fun t => { t with homeCause := cause, homeByRecover := byRecover }).beginHoming

/-- The forced dismount of a warm reset whose stroke is at rest (R55, 08 R169). -/
def State.completeResetDismount (s : State) : State :=
  (s.completeDismount .warmReset).withTc fun t =>
    { t with op := none, loweringDue := false, resetStroke := false, attempt := 0, air := 0
             attention := t.attention.map fun a => { a with remaining := 0 } }

/-! ### The arm at park -/

/-- A recovery that leads to HALTED ends there, told as RECOVER DONE. An operation that a run's end has marked then ends
STOPPED in the same event, as R45 ends one it finds in HALTED: the model's choice, log entry 19. -/
def State.recoveredHalted (s : State) : State :=
  let s1 := s.recovered .halted
  if s.tc.stopMark then (s1.withTc Tc.dropRemaining).finishOp s1.restState .stopped else s1

/-- A final lowering under R32 is still to come: no leaf remains, and the turn is to end with a lowering (R42, R43). -/
def State.finalLoweringDue (s : State) : Bool :=
  match s.tc.op with
  | some o => decide (o.remaining = 0) && s.lowersAtEnd o
  | none => false

/-- A recovery's return has ended at park (Table 2-7). A turn whose last leaf it brought home is HALTED with its final
lowering due (R43). -/
def State.recoveryReturned (s : State) : State :=
  match s.tc.recover with
  | some .seek =>
    (s.recovered s.seekState).withTc fun t => { t with op := none, loweringDue := false, leafInHand := false }
  | _ =>
    (s.withTc fun t =>
      { t with leafInHand := false, loweringDue := t.loweringDue || s.finalLoweringDue }).recoveredHalted

/-- The return to park ends (R29, R31, R51, R55). -/
def State.returned (s : State) : State :=
  if s.tc.resetStroke then s.completeResetDismount.homeFor .warmReset false
  else
    match s.tc.returnGoal with
    | some .recover => s.recoveryReturned
    | some .exhausted => s.toAttention
    | _ => s.turnReturned

/-- ARM_PARK_MADE: the switch, and what it ends (R31, R42, R51, R53). -/
def State.parkMade (s : State) : State :=
  let s1 := { s with pins := { s.pins with armPark := true } }
  match s.tc.state with
  | .returning => s1.returned
  | .lifting =>
    if s.tc.haltMark then (s1.releaseBack.withTc fun t => { t with leafInHand := false, knife := 0 }).turnReturned
    else s1
  | .homing => if s.tc.homePhase = some .arm then s1.homingDone else s1
  | _ => s1

/-! ### Ends of a raise (R25, R36, R38, R41, R42, R44, R45, R51, 08 R164) -/

/-- The raise of a dismount ends: the dismount completes (08 R164). -/
def State.dismountRaised (forced : Bool) (s : State) : State :=
  let kind := if s.tc.recover.isSome then OpKind.recover else OpKind.dismount
  let s1 := s.completeDismount (causeOf forced)
  (s1.tellEnd kind .dismounted).withTc Tc.cleared

/-- A recovery's raise ends (Table 2-7). Back in ATTENTION the vacuum stays on only with a leaf on the head (R48). -/
def State.recoveryRaised (s : State) : State :=
  match s.tc.recover with
  | some .attention =>
    (s.recovered .attention).withTc fun t =>
      { t with op := none, loweringDue := false, vacuum := t.vacuum && s.leafOnHead }
  | _ => s.recoveredHalted

/-- The raise in progress ends at the UP switch. A raise after a fault goes to ATTENTION also where a run's end has marked the
operation: the model's choice, log entry 55. A dwell raise from HALTED goes back there also after a HALT, with no TURN notice:
the model's choice, log entry 48. -/
def State.raised (s : State) : State :=
  match s.tc.raiseGoal with
  | some .fault => s.toAttention
  | some (.dismount forced) => s.dismountRaised forced
  | some .recover => s.recoveryRaised
  | some .backToHalted =>
    if s.tc.stopMark then (s.withTc Tc.dropRemaining).finishOp .unclamped .stopped
    else s.withTc fun t => { t with state := .halted, raiseGoal := none, haltMark := false }
  | some .lift =>
    if s.tc.stopMark then (s.withTc Tc.dropRemaining).finishOp .unclamped .stopped
    else if s.tc.haltMark then s.haltOp false
    else s.beginLeaf
  | some .foldoutStop =>
    if s.tc.stopMark then (s.withTc Tc.dropRemaining).finishOp .unclamped .stopped
    else if s.tc.haltMark then s.haltOp false
    else s.finishOp .unclamped .foldoutStop
  | some .unclamp | none =>
    if s.tc.stopMark then s.finishOp .unclamped .stopped else s.finishOp .unclamped .done

/-- PLATEN_UP_MADE: the switch, and what it ends. -/
def State.upMade (s : State) : State :=
  let s1 := { s with pins := { s.pins with platenUp := true }
                     tc := { s.tc with atForce := false } }
  match s.tc.state with
  | .raising => s1.raised
  | .homing => if s.tc.homePhase = some .platen then s1.homeArm else s1
  | _ => s1

/-- A raise that ends in the event that begins it where the UP switch is already made (R38, R51). -/
def State.raiseNow (goal : RaiseGoal) (s : State) : State :=
  let s1 := s.beginRaise goal
  if s.pins.platenUp then s1.raised else s1

/-! ### Faults of the platen and the phases (R38, R39) -/

/-- The raise after a fault, toward ATTENTION (R38). The operation in hand stays until the UP switch ends it: the model's
choice, log entry 49. -/
def State.faultRaise (code : FaultCode) (s : State) : State :=
  let s1 := s.withTc fun t =>
    { t with
      attention := some (t.attentionFor code)
      op := some (t.op.getD (platenOp .unclamp false)), knife := 0
      pendingDwell := false, pendingOverforce := false }
  s1.raiseNow .fault

/-- What TC does with a platen overforce, after its report (R38). Log entries 14 and 26. -/
def State.overforce (s : State) : State :=
  match s.tc.state with
  | .safeStop | .homing => s
  | .lifting | .carrying | .releasing | .returning =>
    if s.tc.resetStroke then
      (s.faultRaise .platenOverforce).completeResetDismount
    else s.faultRaise .platenOverforce
  | .raising =>
    match s.tc.raiseGoal with
    | some .fault | some (.dismount _) => s
    | _ => s.faultRaise .platenOverforce
  | .unclamped | .clamped =>
    if s.ticketOpen then s.withTc fun t => { t with pendingOverforce := true }
    else (s.endPreview .cut).faultRaise .platenOverforce
  | .lowering | .halted | .seek | .attention => s.faultRaise .platenOverforce

/-- The lowering ends at force (R37, R40, R42, R45). -/
def State.lowered (s : State) : State :=
  let s1 := s.withTc fun t => { t with atForce := true, dwellStart := some s.clock }
  if s.tc.stopMark then s1.finishOp .clamped .stopped
  else if s.tc.haltMark then s1.haltOp false
  else s1.finishOp .clamped .done

/-- The force target of the mounted class, 0 with none mounted. -/
def State.forceTarget (s : State) : Nat :=
  match s.limits? with
  | some c => c.forceTarget
  | none => 0

/-- FORCE_READING: the overforce test, and else the lowering threshold (R37, R38). Log entry 14. -/
def State.forceRead (v : Nat) (s : State) : State :=
  let s1 := s.withTc fun t => { t with force := v }
  if overforceLimit s.limits? < v then (s1.report .platenOverforce [v, s.forceTarget]).overforce
  else if s.tc.state = .lowering ∧ s.mounted ∧ loweringThreshold s.forceTarget ≤ v then s1.lowered
  else s1

/-- The direction byte of STROKE-TIMEOUT (12 Table 12-10). -/
def Tc.directionCode (t : Tc) : Nat :=
  match t.turnSign with
  | some true => 0
  | some false => 1
  | none => 2

/-- A phase reaches its limit (R39). Log entry 15. The attempt number and the air-knife level of the detail are those TC holds,
also where no leaf is in hand: the model's choice, log entry 56. -/
def State.phaseTimeout (s : State) : State :=
  let s1 := s.report .strokeTimeout
    [s.tc.state.code, s.tc.j, s.tc.directionCode, s.tc.attempt, s.tc.air, s.tc.force]
  let s2 := s1.withTc fun t => { t with attention := some (t.attentionFor .strokeTimeout) }
  match s.tc.state with
  | .lowering => (s2.finishOp .raising .fault).beginRaise .fault
  | .lifting | .carrying | .releasing | .returning =>
    if s.tc.resetStroke then s2.toAttention.completeResetDismount else s2.toAttention
  | _ => s2.toAttention

/-- The instant, in µs, at which the present phase reaches its limit; HOMING has its own (R39, R53). -/
def State.phaseDue? (s : State) : Option Nat :=
  if s.tc.state = .homing then none else (phaseLimit s.tc.state).map fun l => s.tc.phaseStart + l * 1000

/-- The instant at which the present phase of homing reaches its limit, and the phase (R53). -/
def State.homeDue? (s : State) : Option (Nat × HomePart) :=
  match s.tc.state, s.tc.homePhase with
  | .homing, some p => some (s.tc.phaseStart + 3000000, p)
  | _, _ => none

/-! ### Dwell (R40, R41) -/

/-- The dwell limit of the mounted class in ms. -/
def State.dwellLimitMs (s : State) : Nat :=
  match s.limits? with
  | some c => c.dwellLimit * 1000
  | none => 0

/-- The ms of the elapsed clock at which the dwell timer expires, while it runs and TC has not deferred its raise. -/
def State.dwellDue? (s : State) : Option Nat :=
  match s.tc.dwellStart with
  | none => none
  | some t =>
    match s.tc.state with
    | .clamped => if s.tc.pendingDwell then none else some (t + s.dwellLimitMs)
    | .halted => some (t + s.dwellLimitMs)
    | _ => none

/-- The dwell raise from CLAMPED (R41). -/
def State.dwellRaise (s : State) : State :=
  let s1 := (s.endPreview .cut).withTc fun t => { t with op := some (platenOp .unclamp false), pendingDwell := false }
  (s1.beginRaise .unclamp).notify .dwell

/-- The dwell timer reaches the class limit (R41). -/
def State.dwellExpired (s : State) : State :=
  match s.tc.state with
  | .clamped =>
    if s.ticketOpen then s.withTc fun t => { t with pendingDwell := true } else s.dwellRaise
  | .halted => (s.beginRaise .backToHalted).notify .dwell
  | _ => s

/-- The raise deferred to a ticket's close begins (R38, R41, 05 R122). -/
def State.deferredRaise (s : State) : State :=
  match s.tc.pendingOverforce, s.tc.pendingDwell with
  | false, false => s
  | false, true => s.dwellRaise
  | true, dwell =>
    let s1 := (s.endPreview .cut).faultRaise .platenOverforce
    if dwell then s1.notify .dwell else s1

/-! ### Requests -/

/-- TURN's tests, in order (R24). -/
def State.turnRefusal (n : Int) (clampAfter : Option Bool) (fromHost : Bool) (s : State) : Option Result :=
  match s.sau.volume with
  | none => some .notMounted
  | some v =>
    let target := (s.tc.j : Int) + n
    if s.tc.state ≠ .unclamped ∧ s.tc.state ≠ .clamped then some .state
    else if s.ticketOpen then some .state
    else if fromHost && s.runOwnsTc then some .state
    else if v.limits.turning = .manualOnly then some .cls
    else if n = 0 ∨ 16 < n ∨ n < -16 ∨ target < 0 ∨ (v.n : Int) < target ∨ clampAfter = none then some .argument
    else none

/-- An accepted TURN begins (R25). -/
def State.beginTurn (n : Int) (clampAfter byRun : Bool) (s : State) : State :=
  let clamped := decide (s.tc.state = .clamped)
  let s1 := (s.endPreview .cut).withTc fun t =>
    { t with op := some { kind := .turn, forward := decide (0 < n), remaining := n.natAbs, turned := 0
                          clampAfter := clampAfter, fromClamped := clamped, byRun := byRun } }
  if s1.isFoldout s1.tc.nextLeaf then s1.finishOp s1.tc.state .foldoutStop
  else if clamped then s1.beginRaise .lift
  else s1.beginLeaf

/-- TURN (R24, R25). -/
def decideTurn (n : Int) (clampAfter : Option Bool) (fromHost : Bool) (s : State) : State × Answer :=
  match s.turnRefusal n clampAfter fromHost with
  | some r => refuse r s
  | none => answer .accepted [] (s.beginTurn n (clampAfter.getD false) (!fromHost))

/-- CLAMP (R35). -/
def decideClamp (fromHost : Bool) (s : State) : State × Answer :=
  if !s.mounted then refuse .notMounted s
  else if fromHost && s.runActive then refuse .state s
  else if s.tc.state ≠ .unclamped then refuse .state s
  else if s.ticketOpen then refuse .state s
  else
    answer .accepted []
      (((s.endPreview .cut).withTc fun t => { t with op := some (platenOp .clamp (!fromHost)) }).beginLowering)

/-- UNCLAMP (R36). -/
def decideUnclamp (fromHost : Bool) (s : State) : State × Answer :=
  if fromHost && s.runActive then refuse .state s
  else if s.tc.state ≠ .clamped then refuse .state s
  else if s.ticketOpen then refuse .state s
  else
    answer .accepted []
      (((s.endPreview .cut).withTc fun t => { t with op := some (platenOp .unclamp (!fromHost)) }).beginRaise .unclamp)

/-- TC's part of HALT (R42). -/
def tcHalt (s : State) : State × Answer :=
  if s.tc.state = .homing then refuse .state s
  else if s.tc.state.moving then answer .ok [] (s.withTc fun t => { t with haltMark := true })
  else answer .ok [] s

/-- A halted operation with no work left goes to rest, with no notice (R44). -/
def State.restHalted (s : State) : State :=
  s.withTc fun t => { t.cleared with state := s.restState, op := none, loweringDue := false }

/-- TC's part of RESUME (R44). -/
def tcResume (s : State) : State × Answer :=
  if s.tc.state ≠ .halted then refuse .state s
  else if 0 < s.tc.remainingCount then
    if s.isFoldout s.tc.nextLeaf then
      answer .accepted [] (if s.platenDown then s.beginRaise .foldoutStop else s.finishOp .unclamped .foldoutStop)
    else answer .accepted [] (if s.platenDown then s.beginRaise .lift else s.beginLeaf)
  else if s.tc.loweringDue then answer .accepted [] s.beginLowering
  else answer .ok [] s.restHalted

/-- The end of the run as TC hears it, by TC's state (R45); an operation that RC did not send goes on. SEEK, ATTENTION and
SAFE-STOP stay as they are (07 R154). Log entry 19. -/
def State.runEnded (s : State) : State :=
  let byRun := match s.tc.op with
    | some o => o.byRun
    | none => false
  if !byRun then s
  else
    match s.tc.state with
    | .lifting | .carrying | .releasing | .returning | .lowering | .raising =>
      s.withTc fun t => { t with stopMark := true }
    | .halted => (s.withTc Tc.dropRemaining).finishOp s.restState .stopped
    | .homing | .unclamped | .clamped | .seek | .attention | .safeStop => s

/-- TC leaves SEEK, HALTED or ATTENTION for UNCLAMPED, dropping what it held (R46, R47, R49). A vacuum that is on stays on:
the model's choice, log entry 50. -/
def Tc.released (st : TcState) (t : Tc) : Tc :=
  { t.cleared with state := st, op := none, loweringDue := false, attention := none, leafInHand := false }

/-- DECLARE-PENDING (R46). -/
def decideDeclarePending (s : State) : State × Answer :=
  if !s.mounted then refuse .notMounted s
  else if s.runActive then refuse .state s
  else if s.tc.state ≠ .unclamped ∧ ¬(s.tc.state = .halted ∧ s.platenDown = false) then refuse .state s
  else if s.ticketOpen then refuse .state s
  else answer .ok [] ((s.endPreview .cut).withTc (Tc.released .seek))

/-- TC's state admits a DECLARE (R47 test 4). -/
def State.declarable (s : State) : Bool :=
  match s.tc.state with
  | .unclamped | .seek => true
  | .halted => !s.platenDown
  | .attention => s.pins.armPark && s.pins.platenUp
  | _ => false

/-- DECLARE (R47). -/
def decideDeclare (j : Nat) (s : State) : State × Answer :=
  if !s.mounted then refuse .notMounted s
  else if s.runActive then refuse .state s
  else if s.leaves < j then refuse .argument s
  else if !s.declarable then refuse .state s
  else
    answer .ok [] (s.withTc fun t =>
      if t.state = .unclamped then { t with j := j } else { t.released .unclamped with j := j })

/-- What CONFIRM does in SEEK and ATTENTION; `none` where TC takes no action (R49). -/
def State.confirm? (s : State) : Option State :=
  match s.tc.state with
  | .seek => some (s.withTc (Tc.released .unclamped))
  | .attention =>
    if s.pins.armPark && s.pins.platenUp then
      let j := match s.tc.attention with
        | some a =>
          match a.sign with
          | some forward => if s.tc.leafInHand && s.mounted then carriedTo forward s.tc.j else s.tc.j
          | none => s.tc.j
        | none => s.tc.j
      some (s.withTc fun t => { t.released .unclamped with j := j })
    else none
  | _ => none

/-! ### Recovery (R50 to R52) -/

/-- TC's part of the guard's opening (R50). `origin` is the state it left, or the first one while a recovery is under way
(R51), also where an overforce has turned the recovery's raise into one toward ATTENTION: the model's choice, log entry
17. -/
def Tc.safeStopped (leafOnHead : Bool) (t : Tc) : Tc :=
  let origin := match t.recover, t.origin with
    | some _, some o => o
    | _, _ => t.state
  { t with
    state := .safeStop
    origin := some origin
    faultPending := t.faultPending || decide (t.state = .raising ∧ t.raiseGoal = some .fault)
    recover := none, knife := 0, vacuum := t.vacuum && leafOnHead, dwellStart := none
    pendingDwell := false, pendingOverforce := false, haltMark := false }

/-- A recovery's return to park with nothing in hand (Table 2-7). Log entry 40. -/
def State.recoverReturn (goal : RecoverGoal) (s : State) : State :=
  (s.releaseBack.withTc fun t => { t with recover := some goal }).beginReturn .recover

/-- A recovery by a raise (Table 2-7). -/
def State.recoverRaise (goal : RecoverGoal) (s : State) : State :=
  (s.withTc fun t => { t with recover := some goal }).raiseNow .recover

/-- Takes up a stroke where it stood (Table 2-7). Log entry 40. -/
def State.recoverStroke (st : TcState) (s : State) : State :=
  s.withTc fun t =>
    { t with state := st, phaseStart := s.now, recover := some .halted, returnGoal := some .recover }

/-- The resolution of a SAFE-STOP by its origin (R51, Table 2-7). Log entry 17. A leaf released back is no longer in hand, and
one that is gone stays in hand until the return to SEEK ends: the model's choice, log entry 47. -/
def State.resolveStop (s : State) : State :=
  match s.tc.origin with
  | some .homing => s.homeFor s.tc.homeCause true
  | some .lifting =>
    if !s.tc.leafInHand then s.recoverReturn .halted
    else if s.leafOnHead then (s.withTc fun t => { t with leafInHand := false }).recoverReturn .halted
    else (s.withTc Tc.dropRemaining).recoverReturn .seek
  | some .carrying =>
    if !s.tc.leafInHand then s.recoverStroke .releasing
    else if s.leafOnHead then s.recoverStroke .carrying
    else (s.withTc Tc.dropRemaining).recoverReturn .seek
  | some .releasing => s.recoverStroke .releasing
  | some .returning => s.recoverStroke .returning
  | some .lowering => (s.withTc fun t => { t with loweringDue := true }).recoverRaise .halted
  | some .raising =>
    match s.tc.raiseGoal with
    | some (.dismount forced) =>
      (s.withTc fun t => { t with recover := some .dismounted }).raiseNow (.dismount forced)
    | _ => if s.tc.faultPending then s.recoverRaise .attention else s.recoverRaise .halted
  | some .attention => s.recoverRaise .attention
  | some .seek => s.recovered .seek
  | _ => s.recoverRaise .halted

/-- RECOVER (R51, R52). -/
def decideRecover (s : State) : State × Answer :=
  match s.tc.state with
  | .safeStop =>
    if s.pins.guardOpen then refuse .guard s
    else if s.tc.origin = some .homing ∧ s.leafOnHead then refuse .state s
    else answer .accepted [] s.resolveStop
  | .attention =>
    if s.pins.guardOpen then refuse .guard s
    else if s.leafOnHead then refuse .state s
    else
      answer .accepted [] ((s.withTc fun t =>
        { t with attention := none, op := none, loweringDue := false, leafInHand := false }).homeFor .attention false)
  | _ => refuse .state s

/-! ### TURN STATUS (R54) -/

/-- The remaining count as read: the record's, or in ATTENTION the one held there (R48). -/
def Tc.shownRemaining (t : Tc) : Option Nat :=
  match t.op with
  | some o => some o.remaining
  | none => if t.state = .attention then t.attention.map Attention.remaining else none

/-- The operation record as read. A sign and the two flags of a turn have no meaning in another operation. -/
def opItems (t : Tc) : List Item :=
  let turn := t.op.filter fun o => o.kind == .turn
  [Item.ofNat? (t.op.map fun o => o.kind.order), Item.ofFlag? (turn.map Op.forward), Item.ofNat? t.shownRemaining,
   Item.ofNat? (t.op.map Op.turned), Item.ofFlag? (turn.map Op.clampAfter), Item.ofFlag? (turn.map Op.fromClamped),
   .flag t.loweringDue]

/-- The arm is in a stroke of a lift attempt, or a SAFE-STOP holds it in one: the attempt number and the air-knife level
have a meaning (R26, R54). -/
def Tc.attemptShown (t : Tc) : Bool :=
  decide (t.attempt ≠ 0) && (t.state.armStroke || (t.state == .safeStop && (t.origin.map TcState.armStroke).getD false))

/-- The platen position: 0 up, 1 down at force, 2 between. -/
def State.platenPosition (s : State) : Nat :=
  if s.pins.platenUp then 0 else if s.tc.atForce then 1 else 2

/-- The dwell time remaining in ms, or none while the timer is stopped (R40). -/
def State.dwellLeft (s : State) : Option Nat :=
  s.tc.dwellStart.map fun t => (t + s.dwellLimitMs) - s.clock

/-- TURN STATUS (R54). -/
def decideTurnStatus (s : State) : State × Answer :=
  let t := s.tc
  let stopped := decide (t.state = .safeStop)
  let waiting := decide (t.state = .attention)
  answer .ok
    ([.num t.state.code, .num t.j, .flag s.mounted] ++ opItems t
      ++ [Item.ofNat? (if t.attemptShown then some t.attempt else none),
          Item.ofNat? (if t.attemptShown then some t.air else none), .flag t.leafInHand, .num s.platenPosition, .num t.force,
          .flag s.pins.armPark, .flag s.pins.guardOpen, Item.ofNat? s.dwellLeft,
          .flag (t.pendingDwell || t.pendingOverforce),
          Item.ofNat? (if stopped then t.origin.map TcState.code else none),
          Item.ofFlag? (if stopped then some t.faultPending else none),
          Item.ofNat? (if waiting then t.attention.map fun a => a.code.code else none),
          Item.ofFlag? (if waiting then t.attention.bind Attention.sign else none),
          .num t.turnsDone, .num t.missRetries, .num t.doubleRetries]) s

end Sys2Proof.Machine
end

