-- ==== Sys2Proof/Machine/Capture.lean ====
section
/-! DEFINITION. CC: the capture sequence (05 sections 5.3 to 5.6): admission, trigger, lamps-off, cuts, the ticket's close
and abandonment. Instants of a capture are in µs. -/

namespace Sys2Proof.Machine

/-! ### Cameras -/

def Cc.cam (c : Cc) : Camera → Cam
  | .a => c.camA
  | .b => c.camB

def Cc.setCam (c : Cc) (k : Camera) (v : Cam) : Cc :=
  match k with
  | .a => { c with camA := v }
  | .b => { c with camB := v }

/-- A camera after its capture: only the times of its pulses stay (R115, R125). -/
def Cam.rest (c : Cam) : Cam :=
  { c with triggered := false, raised := false, done := false, stored := false }

/-- Both cameras, where triggered, meet `f`. -/
def Cc.allTriggered (f : Cam → Bool) (c : Cc) : Bool :=
  (!c.camA.triggered || f c.camA) && (!c.camB.triggered || f c.camB)

def Pins.ready (p : Pins) : Camera → Bool
  | .a => p.readyA
  | .b => p.readyB

def Pins.exposing (p : Pins) : Camera → Bool
  | .a => p.exposingA
  | .b => p.exposingB

def Pins.setReady (p : Pins) (c : Camera) (v : Bool) : Pins :=
  match c with
  | .a => { p with readyA := v }
  | .b => { p with readyB := v }

def Pins.setExposing (p : Pins) (c : Camera) (v : Bool) : Pins :=
  match c with
  | .a => { p with exposingA := v }
  | .b => { p with exposingB := v }

/-! ### Close (R122) -/

/-- A capture is in progress: the frame limit of its ticket, in ms, from the trigger (R120). -/
def frameLimitMs (exposure : Nat) : Nat :=
  exposure + 500

/-- The OPEN ticket closes: CC is IDLE, the CAPTURE notice is pending, the backlog is re-tested, and RC is told (R122 steps
1 to 3 and 5). -/
def State.closeTicket (s : State) : State :=
  match s.openTicket? with
  | none => s
  | some t =>
    let s1 := s.onOpenTicket fun t => { t with closed := true, closeTime := some s.clock }
    let s2 := { s1 with
      cc := { s1.cc with
        state := .idle, triggeredAt := none, lampsOffAt := none, elapsed := false, limitPassed := false
        cut := none, camA := s1.cc.camA.rest, camB := s1.cc.camB.rest }
      rc := { s1.rc with heardClose := some t.serial } }
    (s2.notify .capture).retestBacklog

/-- The close, with the raise TC has deferred to it (R122). -/
def State.closeCapture (s : State) : State :=
  s.closeTicket.deferredRaise

/-- The OPEN ticket has a result on every covered side. -/
def State.openDecided (s : State) : Bool :=
  match s.openTicket? with
  | some t => t.decided
  | none => false

/-- Closes the ticket of a triggered capture once it may close (R122). -/
def State.tryClose (s : State) : State :=
  if s.cc.state = .collect ∧ s.openDecided ∧ (s.cc.limitPassed || s.cc.allTriggered Cam.stored) then
    s.closeCapture
  else s

/-! ### Lamps-off (R119) -/

/-- The lamps-off condition's event (R119). -/
def State.lampsOff (s : State) : State :=
  let s1 := s.endWindow
  let s2 := { s1 with cc := { s1.cc with state := .collect, lampsOffAt := some s1.now } }
  s2.tryClose

/-- Tests the lamps-off condition (R119). -/
def State.tryLampsOff (s : State) : State :=
  if s.cc.state = .expose ∧ s.cc.elapsed ∧ s.cc.allTriggered Cam.done then s.lampsOff else s

/-! ### Cuts and abandonment (R121, R124) -/

/-- A cut of the capture in progress (R121). Log entry 34. -/
def State.cutCapture (r : SideResult) (s : State) : State :=
  let given := { s.onOpenTicket (Ticket.giveAll r) with cc := { (s.onOpenTicket (Ticket.giveAll r)).cc with
    cut := some (s.cc.cut.getD r) } }
  match s.cc.state with
  | .idle => s
  | .settle | .waitEdge => given.endWindow.closeCapture
  | .expose => given.endWindow
  | .collect =>
    if r = .guardCut ∨ s.cc.lampsOffAt = some s.now then given.tryClose else s

/-- The capture in progress is abandoned (R124). -/
def State.abandonCapture (s : State) : State :=
  if s.cc.state = .idle then s
  else
    let s1 := (s.endWindow.onOpenTicket (Ticket.giveAll .resetCut)).closeTicket
    { s1 with cc := { s1.cc with state := .idle } }

/-! ### The trigger (R118, R63) -/

/-- The levels at exposure start: none for a dark bank. -/
def State.startLevels (s : State) : PerBank (Option Nat) :=
  PerBank.of fun b =>
    let r := s.lc.banks.get b
    if r.lit then some r.level else none

/-- A bank's level with 0 for a dark bank (R63). -/
def State.triggerLevel (s : State) (b : LampBank) : Nat :=
  (s.startLevels.get b).getD 0

/-- The target is missed (R63): |E - E_t| > tol. -/
def regMissed (e target : Nat) : Bool :=
  decide (e + tolerance target < target) || decide (target + tolerance target < e)

/-- The window is under-lit: E below the band with every lit bank at 99 (R63). Log entry 37. -/
def State.underLit (target : Nat) (s : State) : Bool :=
  decide (s.di.lux + tolerance target < target)
  && PerBank.all fun b => !(s.lc.banks.get b).lit || (s.lc.banks.get b).level == 99

/-- LC's tests at the trigger, HELD-LUX only (R63). -/
def State.testTarget (t : Ticket) (target : Nat) (s : State) : State :=
  match t.mode with
  | .fixed => s
  | .heldLux =>
    let s1 := if s.underLit target then s.onOpenTicket fun t => { t with underLit := true } else s
    if regMissed s.di.lux target then s1.report .regMiss [s.di.lux, target] else s1

/-- The target of the window in progress. -/
def State.windowTarget (s : State) : Nat :=
  match s.lc.window with
  | some w => w.target
  | none => 0

/-- A camera is triggered. -/
def Cam.fire (now : Nat) (c : Cam) : Cam :=
  { c with triggered := true, raised := false, done := false, stored := false, lastTrigger := some now }

/-- The cameras of the covered sides are triggered. -/
def Cc.fire (t : Ticket) (now : Nat) (c : Cc) : Cc :=
  { c with
    camA := if t.left.isSome then c.camA.fire now else c.camA
    camB := if t.right.isSome then c.camB.fire now else c.camB
    state := .expose, triggeredAt := some now }

/-- The window at the trigger: the levels at exposure start, and regulation held where the profile says so (R62, R63). -/
def Window.atTrigger (levels : PerBank (Option Nat)) (w : Window) : Window :=
  { w with startLevels := some levels, held := w.hold && w.mode == .heldLux }

/-- The trigger edge (R118). -/
def State.trigger (source : SyncSource) (s : State) : State :=
  match s.openTicket? with
  | none => s
  | some t =>
    let s1 := { s with cc := s.cc.fire t s.now }
    let s2 := s1.onOpenTicket fun t =>
      { t with startLux := some s.di.lux, startLevels := some (PerBank.of s.triggerLevel), source := some source }
    let s3 := { s2 with lc := { s2.lc with window := s2.lc.window.map (Window.atTrigger s.startLevels) } }
    s3.testTarget t s.windowTarget

/-- The instant at which settle ends (R118). -/
def State.settleDue? (s : State) : Option Nat :=
  match s.cc.state, s.openTicket? with
  | .settle, some t => some (s.cc.openedAt + t.settle * 1000)
  | _, _ => none

/-! ### Timers of the exposure -/

/-- The OPEN ticket's exposure in ms, with the instant of its trigger. -/
def State.exposure? (s : State) : Option (Nat × Nat) :=
  match s.cc.triggeredAt, s.openTicket? with
  | some t0, some t => some (t0, t.exposure)
  | _, _ => none

/-- The instant at which the exposure time elapses (R119). -/
def State.elapsedDue? (s : State) : Option Nat :=
  if s.cc.state = .expose ∧ s.cc.elapsed = false then s.exposure?.map fun p => p.1 + p.2 * 1000 else none

/-- The instant at which a camera still exposing, or that never exposed, counts as done (R119). -/
def State.camDue? (k : Camera) (s : State) : Option Nat :=
  let c := s.cc.cam k
  if s.cc.state = .expose ∧ c.triggered ∧ c.done = false then
    s.exposure?.map fun p => p.1 + (p.2 + if c.raised then 500 else 5) * 1000
  else none

/-- The instant at which the frame limit passes (R120). -/
def State.limitDue? (s : State) : Option Nat :=
  if s.cc.limitPassed then none else s.exposure?.map fun p => p.1 + frameLimitMs p.2 * 1000

/-- The exposure time elapses (R119). -/
def State.exposureElapsed (s : State) : State :=
  { s with cc := { s.cc with elapsed := true } }.tryLampsOff

/-- A camera counts as done (R119). -/
def State.camDone (k : Camera) (s : State) : State :=
  { s with cc := s.cc.setCam k { s.cc.cam k with done := true } }.tryLampsOff

/-- CAMERA_EXPOSING: the pins, and the follow-up of a triggered camera (R115, R119). Log entry 10. -/
def State.cameraExposing (k : Camera) (level ready : Bool) (s : State) : State :=
  let s1 := { s with pins := (s.pins.setReady k ready).setExposing k level }
  let c := s.cc.cam k
  if c.triggered then
    if level then { s1 with cc := s1.cc.setCam k { c with raised := true } }
    else if c.raised then s1.camDone k
    else s1
  else s1

/-- CAMERA_STORED: the pins, and the result of a triggered camera's side (R115, R120). -/
def State.cameraStored (k : Camera) (ready : Bool) (s : State) : State :=
  let c := { s.cc.cam k with lastStored := some s.now }
  let s1 := { s with pins := s.pins.setReady k ready, cc := s.cc.setCam k c }
  if c.triggered then
    let s2 := { s1 with cc := s1.cc.setCam k { c with stored := true } }
    (s2.onOpenTicket (Ticket.giveHalf k .stored)).tryClose
  else s1

/-- A camera that has not stored at the frame limit (R120). -/
def State.frameTimeout (k : Camera) (s : State) : State :=
  let c := s.cc.cam k
  if c.triggered && !c.stored then
    let serial := match s.openTicket? with
      | some t => t.serial
      | none => 0
    (s.report .frameTimeout [cameraCode k, serial]).onOpenTicket (Ticket.giveHalf k .noFrame)
  else s

/-- The frame limit passes (R119, R120). -/
def State.framePassed (s : State) : State :=
  let s1 := (s.frameTimeout .a).frameTimeout .b
  let s2 := { s1 with cc := { s1.cc with limitPassed := true } }
  if s2.cc.state = .expose then
    { s2 with cc := { s2.cc with
        elapsed := true, camA := { s2.cc.camA with done := true }, camB := { s2.cc.camB with done := true } } }.lampsOff
  else s2.tryClose

/-! ### Admission (R116, R117) -/

/-- The sides a capture would cover: the left and the right one, 0 for one that is not selected (R116). -/
structure Selection where
  left  : Nat
  right : Nat
  deriving DecidableEq, Repr

/-- AUTO selects a PENDING or RETAKE side. -/
def wantedByAuto : SideState → Bool
  | .pending | .retake => true
  | .held | .accepted | .blank | .foldout | .absent => false

/-- The selection by a rule (R116). -/
def State.select (rule : SideSelection) (s : State) : Selection :=
  let l := s.leftNow
  let r := s.rightNow
  match rule with
  | .auto =>
    { left := if wantedByAuto (s.sideState l) && l != 0 then l else 0
      right := if wantedByAuto (s.sideState r) && r != 0 then r else 0 }
  | .left => { left := l, right := 0 }
  | .right => { left := 0, right := r }
  | .both => { left := l, right := r }

/-- The selection rule of a request: the override, else the profile's (R116); `none` for an override of another value. -/
def selectionRule (p : Profile) : SidesOverride → Option SideSelection
  | .absent => some p.selection
  | .named rule => rule

/-- The cameras of the selected sides are READY. -/
def State.camerasReady (sel : Selection) (s : State) : Bool :=
  (sel.left == 0 || s.pins.readyA) && (sel.right == 0 || s.pins.readyB)

/-- Some selected side is HELD. -/
def State.selectionHeld (sel : Selection) (s : State) : Bool :=
  (sel.left != 0 && s.sideState sel.left == .held) || (sel.right != 0 && s.sideState sel.right == .held)

/-- TC is CLAMPED, or the class platen policy is FREE. -/
def State.platenFits (s : State) : Bool :=
  s.tc.state == .clamped || (match s.limits? with
    | some c => c.policy == .free
    | none => false)

/-- The admission tests of CAPTURE in order (05 Table 5-6). -/
def State.captureRefusal (profile : Nat) (rule : Option SideSelection) (sel : Selection) (fromHost : Bool)
    (s : State) : Option Result :=
  let p := profileAt s.set.profiles profile
  if !s.mounted then some .notMounted
  else if 3 < profile ∨ rule = none then some .argument
  else if (fromHost && s.runActive) || !s.settled || !s.platenFits then some .state
  else if s.ticketOpen then some .busy
  else if !s.cc.sync.state.admits then some .noSync
  else if !s.camerasReady sel then some .camera
  else if !s.anyUsable p then some .lamp
  else if s.di.sensorDark then some .sensor
  else if sel.left = 0 ∧ sel.right = 0 then some .nothing
  else if s.selectionHeld sel then some .held
  else if ringSize ≤ s.cc.tickets.length then some .ringFull
  else s.doseRefusal p (s.captureTime p)

/-- A covered half at the ticket's opening. -/
def openHalf (side : Nat) : Option Half :=
  if side = 0 then none else some { side := side, result := none, superseded := false }

/-- The ticket a capture opens (R117 step 2). -/
def State.newTicket (profile : Nat) (sel : Selection) (s : State) : Ticket :=
  let p := profileAt s.set.profiles profile
  { serial := s.cc.nextSerial, closed := false
    mountNo := match s.sau.volume with
      | some v => v.mountNo
      | none => 0
    opening := s.tc.j, left := openHalf sel.left, right := openHalf sel.right, orphaned := false, read := false
    profile := profile, mode := p.mode, settle := p.settle, exposure := p.exposure, startLux := none
    startLevels := none, lampDegraded := false, underLit := false, syncSwitched := false, source := none
    dose := 0, openTime := s.clock, closeTime := none }

/-- A bank of a profile's enable set is faulted. -/
def State.anyFaulted (p : Profile) (s : State) : Bool :=
  PerBank.any fun b => p.enabled.get b && (s.lc.banks.get b).faulted

/-- Marks a selected side HELD. -/
def State.hold (side : Nat) (s : State) : State :=
  if side = 0 then s else s.setSide side .held

/-- An accepted CAPTURE (R117). -/
def State.openCapture (profile : Nat) (sel : Selection) (s : State) : State :=
  let p := profileAt s.set.profiles profile
  let s1 := s.endPreview .cut
  let t := { s1.newTicket profile sel with lampDegraded := s1.anyFaulted p }
  let s2 := { s1 with cc := { s1.cc with
    tickets := s1.cc.tickets ++ [t], nextSerial := serialAfter s1.cc.nextSerial, state := .settle
    openedAt := s1.now, triggeredAt := none, lampsOffAt := none, elapsed := false, limitPassed := false
    cut := none, camA := s1.cc.camA.rest, camB := s1.cc.camB.rest } }
  ((s2.hold sel.left).hold sel.right).openWindow .capture profile

/-- The serial of the oldest ticket, 0 with the ring empty. -/
def State.oldestSerial (s : State) : Nat :=
  match s.cc.tickets with
  | t :: _ => t.serial
  | [] => 0

/-- CAPTURE (R116, R117). -/
def decideCapture (profile : Nat) (sides : SidesOverride) (fromHost : Bool) (s : State) : State × Answer :=
  let p := profileAt s.set.profiles profile
  let rule := selectionRule p sides
  let sel := s.select (rule.getD .auto)
  match s.captureRefusal profile rule sel fromHost with
  | some .ringFull => refuse .ringFull (s.report .ringFull [s.oldestSerial])
  | some r => refuse r s
  | none =>
    answer .accepted [.num s.cc.nextSerial, .num sel.left, .num sel.right] (s.openCapture profile sel)

/-! ### CAPTURE STATUS (R125) -/

/-- The source the selector uses: 0 external, 1 internal, none. -/
def SyncState.source? : SyncState → Option SyncSource
  | .external | .manualExternal => some .external
  | .internal | .manualExternalLost | .manualInternal => some .internal
  | .detecting => none

/-- Whole ms since an instant. -/
def State.msSince (t : Nat) (s : State) : Nat :=
  (s.now - t) / 1000

def halfItems (h : Option Half) : List Item :=
  match h with
  | some h => [.num h.side, .num (resultByte h.result)]
  | none => [.missing, .missing]

/-- The part of CAPTURE STATUS that needs a capture in progress. -/
def State.captureItems (s : State) : List Item :=
  match s.openTicket? with
  | none => List.replicate 13 .missing
  | some t =>
    [.num t.serial, .num t.profile, .num t.opening] ++ halfItems t.left ++ halfItems t.right
      ++ [.num (s.msSince s.cc.openedAt), Item.ofNat? (s.cc.triggeredAt.map fun t0 => s.msSince t0),
          Item.ofNat? (s.cc.triggeredAt.map fun t0 => (t0 + frameLimitMs t.exposure * 1000 - s.now) / 1000),
          .flag t.lampDegraded, .flag t.underLit, .flag t.syncSwitched]

/-- A camera in CAPTURE STATUS: the items of R125's list, which has none for the trigger that R115 names: the model's choice,
log entry 51. -/
def State.cameraItems (k : Camera) (s : State) : List Item :=
  [.flag (s.pins.ready k), .flag (s.pins.exposing k), Item.ofNat? ((s.cc.cam k).lastStored.map fun t0 => s.msSince t0)]

/-- CAPTURE STATUS (R125). -/
def decideCaptureStatus (s : State) : State × Answer :=
  answer .ok
    ([.num s.cc.state.order] ++ s.captureItems ++ [Item.ofNat? (s.cc.cut.map SideResult.code)]
      ++ s.cameraItems .a ++ s.cameraItems .b
      ++ [.num s.cc.sync.state.order, .num (sourceCode s.cc.sync.state.source?)]) s

end Sys2Proof.Machine
end

