-- ==== Sys2Proof/Machine/Dose.lean ====
section
/-! DEFINITION. DI: the sensor, lit dose and ambient dose, the day budget and its cut, the dose day and the carry table
(04). -/

namespace Sys2Proof.Machine

/-! ### The tests of the day dose (R85, R87) -/

/-- The warning level of a day budget (R87). -/
def warningLevel (budget : Nat) : Nat :=
  budget * 7 / 8

/-- A reason joins the DOSE notice (R88). -/
def State.doseNotice (r : DoseReason) (s : State) : State :=
  s.notifyWith .dose fun g => { g with dose := insertNew r g.dose }

/-- The warning test (R87). -/
def State.testWarning (c : ClassRec) (s : State) : State :=
  if warningLevel c.dayBudget ≤ s.di.dayDose ∧ s.di.warned = false then
    { s with di := { s.di with warned := true } }.doseNotice .warning
  else s

/-- DI puts the lamps out: a capture window in progress is cut, a lit preview ends CUT (R77, R85). -/
def State.cutLight (r : SideResult) (s : State) : State :=
  ((s.endPreview .cut).cutCapture r).banksDark

/-- The budget test (R85). -/
def State.testBudget (c : ClassRec) (s : State) : State :=
  if c.dayBudget ≤ s.di.dayDose ∧ s.di.exhausted = false then
    let s1 := { s with di := { s.di with exhausted := true } }.cutLight .doseCut
    (s1.report .doseExhausted [s.di.dayDose, c.dayBudget]).doseNotice .exhausted
  else s

/-- Both tests of the day dose, after a credit and at mount (R85, R87, R95). -/
def State.testDayDose (s : State) : State :=
  match s.limits? with
  | some c => (s.testWarning c).testBudget c
  | none => s

/-! ### Credits (R80, R81, R82) -/

/-- Adds units to a dose, which stays at its highest value (R82). -/
def addDose (dose units : Nat) : Nat :=
  satAdd maxDose dose units

/-- The units of a sample go to the day dose and the current opening (R80, R81). -/
def State.chargeDay (units : Nat) (s : State) : State :=
  let openings := updateOpening s.tc.j (fun o => { o with dose := addDose o.dose units }) s.sau.openings
  { s with
    di := { s.di with dayDose := addDose s.di.dayDose units }
    sau := { s.sau with openings := openings } }

/-- The units of a lit sample in a capture window go to the OPEN ticket too (R80). -/
def State.chargeTicket (units : Nat) (s : State) : State :=
  if s.captureWindow then s.onOpenTicket fun t => { t with dose := addDose t.dose units } else s

/-- Credits the units of a lit sample (R80); no unit changes nothing. -/
def State.creditLit (units : Nat) (s : State) : State :=
  if units = 0 ∨ s.mounted = false then s else ((s.chargeDay units).chargeTicket units).testDayDose

/-- Credits ambient units (R81). -/
def State.creditAmbient (units : Nat) (s : State) : State :=
  if units = 0 ∨ s.mounted = false then s else (s.chargeDay units).testDayDose

/-! ### The sensor (R75 to R79) -/

/-- The illuminance of a raw reading (R75). -/
def luxOf (raw k : Nat) : Nat :=
  raw * k / 64

/-- The count of consecutive lit samples after one more (R76, R77). -/
def nextCount (hit : Bool) (count : Nat) : Nat :=
  if hit then count + 1 else 0

/-- Integrates a lit sample (R79). -/
def State.integrate (s : State) : State :=
  let sum := s.di.remainder + s.di.lux
  { s with di := { s.di with remainder := sum % 1000 } }.creditLit (sum / 1000)

/-- SENSOR-DARK: the block, the lamps going dark, the cut and the report (R77). -/
def State.sensorFailed (s : State) : State :=
  ({ s with di := { s.di with sensorDark := true } }.cutLight .sensorCut).report .sensorDark []

/-- A lit sample: the counts, the dose, and what the counts bring (R76, R77, R79). SENSOR-SATURATED is reported before the
credit and what it brings: the model's choice, log entry 46. -/
def State.litSample (s : State) : State :=
  let sat := nextCount (s.di.raw == 4095) s.di.satCount
  let dark := nextCount (s.di.raw == 0) s.di.darkCount
  let s1 := { s with di := { s.di with satCount := sat, darkCount := dark } }
  let s2 := if sat = 10 then s1.report .sensorSaturated [] else s1
  let s3 := s2.integrate
  if dark = 50 then s3.sensorFailed else s3

/-- The reading of a millisecond: what the converter gives at the pin (R75). -/
def State.readSensor (s : State) : State :=
  let s1 := { s with di := { s.di with
    raw := s.pins.sensorRaw, lux := luxOf s.pins.sensorRaw s.set.k, lastRead := some s.clock } }
  if s.anyLit then s1.litSample else s1

/-- The light sensor's converter gives another value. -/
def State.setSensor (raw : Nat) (s : State) : State :=
  { s with pins := { s.pins with sensorRaw := raw } }

/-- Ambient accrual of a whole second (R81). -/
def State.accrue (s : State) : State :=
  let s1 := { s with di := { s.di with lastAmbient := some (s.clock / 1000) } }
  match s.limits? with
  | some c => if c.ambient && !s.anyLit then s1.creditAmbient s.di.lux else s1
  | none => s1

/-- The reading of the present millisecond, where it has not been made (R75). -/
def State.readOnce (s : State) : State :=
  if s.starting || s.di.lastRead == some s.clock then s else s.readSensor

/-- The present instant is a whole second not yet charged (R81). -/
def State.secondDue (s : State) : Bool :=
  s.clock % 1000 == 0 && s.di.lastAmbient != some (s.clock / 1000)

/-- What DI does by itself in a millisecond: the reading, and at a whole second the ambient test, which charges that reading's
E (R75, R81). What has been done in this millisecond is not done again. -/
def State.milli (s : State) : State :=
  let s1 := s.readOnce
  if s1.secondDue then s1.accrue else s1

/-! ### The dose day (R90 to R93) -/

/-- A rollover of the dose day (R93). -/
def State.rollover (s : State) : State :=
  let s1 := { s with di := { s.di with carry := [] } }
  let s2 :=
    if s.mounted then
      { s1 with
        di := { s1.di with dayDose := 0, carriedIn := 0, exhausted := false, warned := false }
        sau := { s1.sau with openings := s1.sau.openings.map fun o => { o with dose := 0 } } }
    else s1
  s2.doseNotice .rollover

/-- The length of a dose day in ms. -/
def dayMs (hours : Nat) : Nat :=
  hours * 3600000

/-- The alarm expires: the next day follows the last without a gap (R90). -/
def State.alarmExpired (s : State) : State :=
  { s with di := { s.di with dayStart := s.di.alarm, alarm := s.di.alarm + dayMs s.set.dayLength } }.rollover

/-- DAY MARK (R91). -/
def decideDayMark (length : Nat) (s : State) : State × Answer :=
  if s.pins.lockEngaged then refuse .locked s
  else
    let h := clampTo 1 48 length
    let start := s.clock
    let s1 := { s with set := { s.set with dayLength := h }
                       di := { s.di with dayStart := start, alarm := start + dayMs h } }
    answer .ok [.time (some start), .num h, .time (some (start + dayMs h)), .flag (outside 1 48 length)] s1.rollover

/-! ### The carry table (R95, R98, R99) -/

/-- The entry of a mark (R94: there is at most one). -/
def findCarry (mark : Text) (carry : List CarryEntry) : Option CarryEntry :=
  carry.find? fun e => e.mark == mark

/-- The table without the entry of a mark. -/
def dropCarry (mark : Text) (carry : List CarryEntry) : List CarryEntry :=
  carry.filter fun e => !(e.mark == mark)

/-- DI's part in an accepted MOUNT (R95). -/
def State.mountDose (mark : Text) (s : State) : State :=
  let dose := match findCarry mark s.di.carry with
    | some e => e.dose
    | none => 0
  { s with di := { s.di with
      carry := dropCarry mark s.di.carry, dayDose := dose, carriedIn := dose, exhausted := false
      warned := false } }.testDayDose

/-- CARRY READ (R98). -/
def decideCarryRead (index : Nat) (s : State) : State × Answer :=
  if 15 < index then refuse .argument s
  else
    match s.di.carry[index]? with
    | none => answer .absent [.num s.di.carry.length] s
    | some e =>
      answer .ok [.bytes e.mark, .num e.dose, .time (some e.time), .num e.cls, .num s.di.carry.length] s

/-- CARRY DROP (R99). -/
def decideCarryDrop (raw : Text) (s : State) : State × Answer :=
  if s.pins.lockEngaged then refuse .locked s
  else
    match shelfMark? raw with
    | none => refuse .argument s
    | some mark =>
      match findCarry mark s.di.carry with
      | none => refuse .absent s
      | some e =>
        answer .ok [.num e.dose] { s with di := { s.di with carry := dropCarry mark s.di.carry } }

/-! ### DOSE STATUS (R100) -/

/-- The items of the mounted volume. -/
def State.doseVolumeItems (s : State) : List Item :=
  match s.limits? with
  | none => List.replicate 9 .missing
  | some c =>
    [.num s.di.dayDose, .num s.di.carriedIn, .num c.dayBudget, .num c.openingLimit,
     .num (warningLevel c.dayBudget), .flag s.di.exhausted, .flag s.di.warned, .flag c.ambient,
     .num (openingAt s.sau.openings s.tc.j).dose]

/-- DOSE STATUS (R100). -/
def decideDoseStatus (s : State) : State × Answer :=
  answer .ok
    ([.flag s.mounted] ++ s.doseVolumeItems
      ++ [.num s.di.remainder, .num s.di.raw, .num s.di.lux, .num s.set.k,
          .num s.set.luxPerStep.la, .num s.set.luxPerStep.lb, .num s.set.luxPerStep.ra, .num s.set.luxPerStep.rb,
          .flag s.di.sensorDark, .num s.di.satCount, .num s.di.darkCount, .time (some s.di.dayStart),
          .num s.set.dayLength, .time (some s.di.alarm), .num (s.di.alarm - s.clock), .num s.di.carry.length]) s

end Sys2Proof.Machine
end

