-- ==== Sys2Proof/Machine/Sync.lean ====
section
/-! DEFINITION. The sync selector (05 section 5.2): measuring external edges, detection, loss and return, and delivering
edges to CC and LC. All times are in µs. -/

namespace Sys2Proof.Machine

/-- Changes the selector. -/
def State.withSync (f : Sync → Sync) (s : State) : State :=
  { s with cc := { s.cc with sync := f s.cc.sync } }

/-- The nominal period to the nearest µs (R105). -/
def nominalUs (rate : Nat) : Nat :=
  (1000000 + rate / 2) / rate

/-- Two nominal periods to the nearest µs: the loss test (R108, 05 Table 5-3). -/
def lossUs (rate : Nat) : Nat :=
  (2000000 + rate / 2) / rate

/-- A period is good: within 2% of the nominal period (R106), the exact 2% and not the ends of the band that 05 Table 5-3
prints to the hundredth of a ms: the model's choice, log entry 43. -/
def goodPeriod (rate period : Nat) : Bool :=
  decide (98000000 ≤ period * rate * 100) && decide (period * rate * 100 ≤ 102000000)

/-- An edge is delivered to LC and CC: frame 1 starts, and a capture past its settle time is triggered (R57, R105, R118). -/
def State.deliverEdge (source : SyncSource) (s : State) : State :=
  let s1 := (s.withSync fun y => { y with delivered := some s.now })
  let s2 := { s1 with lc := { s1.lc with frameEdge := some s.now, banks := s1.lc.banks.map BankRec.atEdge } }
  match s.cc.state with
  | .waitEdge => s2.trigger source
  | .settle =>
    match s.settleDue? with
    | some t => if t ≤ s.now then s2.trigger source else s2
    | none => s2
  | .idle | .expose | .collect => s2

/-- The settle time has elapsed: WAIT-EDGE, or the trigger by an edge delivered in the same event (R118). -/
def State.settleEnded (s : State) : State :=
  let s1 := { s with cc := { s.cc with state := .waitEdge } }
  if s.cc.sync.delivered = some s.now then s1.trigger (s.cc.sync.state.source?.getD .internal) else s1

/-- The internal generator starts, with its first edge now (R105). -/
def State.startGenerator (s : State) : State :=
  (s.withSync fun y => { y with gen := some s.now }).deliverEdge .internal

/-- The internal generator runs, or starts in this event (R109). -/
def State.runGenerator (s : State) : State :=
  if s.cc.sync.gen.isSome then s else s.startGenerator

/-- The SYNC notice is made pending; a loss sets its lost flag (R111). -/
def State.syncNotice (lost : Bool) (s : State) : State :=
  s.notifyWith .sync fun g => { g with syncLost := g.syncLost || lost }

/-- An OPEN ticket is flagged SYNC-SWITCHED (R108, R110). -/
def State.syncSwitched (s : State) : State :=
  s.onOpenTicket fun t => { t with syncSwitched := true }

/-- Detection starts (R106). An edge from before the watch is forgotten, so the first period measured is the one between the
first two edges of the watch: the model's choice, log entry 44. -/
def State.beginDetection (s : State) : State :=
  s.withSync fun y =>
    { y with state := .detecting, goodCount := 0, found := false, watchEnd := s.now + watchUs, lastExt := none
             gen := none }

/-- The end of the watch (R106). Log entry 59. -/
def State.watchEnded (s : State) : State :=
  let s1 :=
    if s.cc.sync.found then s.withSync fun y => { y with state := .external }
    else (s.withSync fun y => { y with state := .internal, lastExt := none }).startGenerator
  s1.syncNotice false

/-- Measures an external edge: the period it ends, and the count of good ones (R105, R106, R110). The count goes on in
EXTERNAL and MANUAL-EXTERNAL, where no rule reads it but SYNC STATUS (R112): the model's choice, log entry 45. -/
def Sync.measure (rate now : Nat) (y : Sync) : Sync :=
  match y.lastExt with
  | none => { y with lastExt := some now }
  | some t =>
    { y with
      lastExt := some now, lastPeriod := some (now - t)
      goodCount := if goodPeriod rate (now - t) then y.goodCount + 1 else 0 }

/-- MANUAL-EXTERNAL returns after ten good edges (R110). -/
def State.manualReturn (s : State) : State :=
  let s1 := s.withSync fun y => { y with state := .manualExternal, gen := none }
  ((s1.deliverEdge .external).syncSwitched).syncNotice false

/-- A rising edge of the external input at the present instant (R105, R106, R110). -/
def State.externalEdge (s : State) : State :=
  let measured := s.withSync (Sync.measure s.set.syncRate s.now)
  match s.cc.sync.state with
  | .internal | .manualInternal => s
  | .external | .manualExternal => measured.deliverEdge .external
  | .detecting =>
    measured.withSync fun y => { y with found := y.found || decide (10 ≤ y.goodCount) }
  | .manualExternalLost => if 10 ≤ measured.cc.sync.goodCount then measured.manualReturn else measured

/-- The instant at which an external source counts as lost (R108, R110). -/
def State.lossDue? (s : State) : Option Nat :=
  match s.cc.sync.state, s.cc.sync.lastExt with
  | .external, some t | .manualExternal, some t => some (t + lossUs s.set.syncRate)
  | _, _ => none

/-- An external source is lost (R108, R110). Log entry 59. -/
def State.sourceLost (s : State) : State :=
  let period := s.cc.sync.lastPeriod.getD 0
  let s1 := s.withSync fun y =>
    match y.state with
    | .external => { y with state := .internal, lastExt := none }
    | _ => { y with state := .manualExternalLost, goodCount := 0 }
  (((s1.startGenerator).report .syncLost [period]).syncNotice true).syncSwitched

/-- The instant of the generator's next edge (R105, R113). One that a new rate has made overdue is delivered at the present
instant: the model's choice, log entry 52. -/
def State.edgeDue? (s : State) : Option Nat :=
  s.cc.sync.gen.map fun t => t + nominalUs s.set.syncRate

/-- The generator's edge (R105). -/
def State.generatorEdge (s : State) : State :=
  (s.withSync fun y => { y with gen := some s.now }).deliverEdge .internal

/-- The end of the watch, while detecting. -/
def State.watchDue? (s : State) : Option Nat :=
  if s.cc.sync.state = .detecting then some s.cc.sync.watchEnd else none

/-! ### Requests -/

/-- SYNC DETECT (R107). -/
def decideSyncDetect (s : State) : State × Answer :=
  match s.cc.sync.state with
  | .manualExternal | .manualExternalLost | .manualInternal | .detecting => refuse .state s
  | .external | .internal =>
    if s.ticketOpen || s.lc.preview.isSome then refuse .busy s else answer .accepted [] s.beginDetection

/-- The selector after SYNC SELECT (R109). INTERNAL forgets the last external edge: the model's choice, log entry 59. -/
def State.selectSource (source : SyncSource) (s : State) : State :=
  match source with
  | .internal => (s.withSync fun y => { y with state := .manualInternal, lastExt := none }).runGenerator
  | .external =>
    match s.cc.sync.state with
    | .external | .manualExternal => s.withSync fun y => { y with state := .manualExternal }
    | .detecting | .internal | .manualInternal | .manualExternalLost =>
      (s.withSync fun y => { y with state := .manualExternalLost, goodCount := 0 }).runGenerator

/-- SYNC SELECT (R109). -/
def decideSyncSelect (source : Option SyncSource) (s : State) : State × Answer :=
  match source with
  | none => refuse .argument s
  | some src => if s.ticketOpen || s.lc.preview.isSome then refuse .busy s else answer .ok [] (s.selectSource src)

/-- The rates of the nominal period (R113). -/
def isRate (hz : Nat) : Bool :=
  hz == 50 || hz == 60 || hz == 100 || hz == 120

/-- A new nominal rate; during detection the watch restarts (R113). -/
def State.setRate (hz : Nat) (s : State) : State :=
  let s1 := { s with set := { s.set with syncRate := hz } }
  if s.cc.sync.state = .detecting then s1.beginDetection else s1

/-- SYNC STATUS (R112). -/
def decideSyncStatus (s : State) : State × Answer :=
  let y := s.cc.sync
  answer .ok
    [.num y.state.order, .num (sourceCode y.state.source?), .num s.set.syncRate, Item.ofNat? y.lastPeriod,
     .num y.goodCount, Item.ofNat? (y.delivered.map fun t => s.now - t),
     Item.ofNat? (if y.state = .detecting then some ((y.watchEnd - s.now) / 1000) else none)] s

end Sys2Proof.Machine
end

