-- ==== Sys2Proof/Machine/Runs.lean ====
section
/-! DEFINITION. RC: runs (07 sections 7.1 to 7.6). RC sends TURN, CLAMP, UNCLAMP, CAPTURE and RESUME by the same decisions
that the host's requests meet. -/

namespace Sys2Proof.Machine

/-- Changes RC's part of the state. -/
def State.withRc (f : Rc → Rc) (s : State) : State :=
  { s with rc := f s.rc }

/-- The run state changes, or its reason does: the RUN notice is made pending (R143). -/
def State.setRun (st : RunState) (s : State) : State :=
  (s.withRc fun r => { r with state := st }).notify .run

/-- A run that has stopped sends nothing and waits for nothing (R143). -/
def Rc.stopped (r : Rc) : Rc :=
  { r with phase := .none, due := none, haltRequested := false }

/-- The run is PAUSED with a reason (R143); with MANUAL-TURN the pause opening is j (R147). -/
def State.pauseRun (reason : PauseReason) (s : State) : State :=
  (s.withRc fun r =>
    { r.stopped with pauseOpening := if reason = .manualTurn then some s.tc.j else none }).setRun (.paused reason)

/-- The run is ENDED with a reason (R143). -/
def State.endRun (reason : EndReason) (s : State) : State :=
  (s.withRc fun r => { r.stopped with pauseOpening := none }).setRun (.ended reason)

/-- The step waits until TC is settled (R148). Log entry 19. -/
def State.waitRun (due : DuePart) (s : State) : State :=
  s.withRc fun r => { r with phase := .waiting, due := some due }

/-- A side state needs capture under a run mode (R145 step 1). -/
def needsCapture (mode : Option RunMode) : SideState → Bool
  | .pending => true
  | .retake => mode == some .pendingAndRetake
  | .held | .accepted | .blank | .foldout | .absent => false

/-- An existing side of the current opening needs capture (R145 step 1). -/
def State.stepNeeds (s : State) : Bool :=
  let o := openingAt s.sau.openings s.tc.j
  s.mounted && (needsCapture s.rc.mode o.left || needsCapture s.rc.mode o.right)

/-- The mounted class has platen policy CLAMP. -/
def State.policyClamp (s : State) : Bool :=
  match s.limits? with
  | some c => c.policy == .clamp
  | none => false

/-- The mounted class has turning MANUAL-ONLY. -/
def State.manualOnly (s : State) : Bool :=
  match s.limits? with
  | some c => c.turning == .manualOnly
  | none => false

/-- The run may send its next request: TC is settled and no ticket is OPEN (R145, R147). Log entry 19. -/
def State.runMaySend (s : State) : Bool :=
  s.settled && !s.ticketOpen

/-- The run's profile. -/
def State.runProfile (s : State) : Nat :=
  s.rc.profile.getD 0

/-- The end of the step at the current opening (R147). -/
def State.endStep (s : State) : State :=
  if s.rc.last = some s.tc.j then s.endRun .complete
  else if !s.runMaySend then s.waitRun .stepEnd
  else if s.manualOnly then
    if s.tc.state = .clamped then
      (decideUnclamp false s).1.withRc fun r => { r with phase := .unclamping }
    else s.pauseRun .manualTurn
  else
    (decideTurn 1 (some s.policyClamp) false s).1.withRc fun r => { r with phase := .turning }

/-- An opening skipped on the opening limit (R146). -/
def Rc.skipOpening (r : Rc) : Rc :=
  { r with doseSkipped := satAdd maxCount16 r.doseSkipped 1, volumeSkips := satAdd maxCount16 r.volumeSkips 1 }

/-- RC acts on the answer to its CAPTURE (R146, 07 Table 7-3). -/
def State.captureAnswered (serial : Nat) (r : Result) (s : State) : State :=
  match r with
  | .accepted => s.withRc fun rc => { rc with phase := .capturing, ticket := some serial }
  | .nothing => s.endStep
  | .doseOpening => (s.withRc Rc.skipOpening).endStep
  | .doseVolume => s.endRun .exhausted
  | .ringFull | .held => s.pauseRun .tickets
  | .noSync => s.pauseRun .sync
  | .camera => s.pauseRun .camera
  | .lamp | .sensor => s.pauseRun .lamp
  | _ => s.waitRun .step

/-- RC sends CAPTURE (R145 step 4). -/
def State.runCapture (s : State) : State :=
  let a := decideCapture s.runProfile .absent false s
  a.1.captureAnswered s.cc.nextSerial a.2.result

/-- The run step at the current opening (R145). -/
def State.runStep (s : State) : State :=
  if !s.stepNeeds then s.endStep
  else if !s.runMaySend then s.waitRun .step
  else if s.policyClamp && s.tc.state == .unclamped then
    (decideClamp false s).1.withRc fun r => { r with phase := .clamping }
  else s.runCapture

/-- The run becomes ACTIVE and a step begins at j (R144, R150, R151). -/
def State.activateRun (s : State) : State :=
  ((s.withRc fun r => { r with haltRequested := false, pauseOpening := none, phase := .none, due := none
                               }).setRun .active).runStep

/-! ### Completions (R146, R148, R149) -/

/-- A HALT was requested, and the operation in flight has ended: the pause it asks for (R149). -/
def haltReason : OpResult → PauseReason
  | .fault => .turnFault
  | .foldoutStop => .foldout
  | .done | .halted | .stopped | .dismounted => .halt

/-- RC hears the end of an operation that it sent (R148). -/
def State.hearEnd (e : HeardEnd) (s : State) : State :=
  if e.byRun && s.runActive then
    if s.rc.haltRequested then s.pauseRun (haltReason e.result)
    else
      match e.result with
      | .fault => s.pauseRun .turnFault
      | .foldoutStop => s.pauseRun .foldout
      | .halted => s.pauseRun .halt
      | .done =>
        match e.kind with
        | .turn | .clamp => s.runStep
        | .unclamp => s.pauseRun .manualTurn
        | .dismount | .recover | .homing => s
      | .stopped | .dismounted => s
  else s

/-- Counts the run's own ticket (R146). -/
def Rc.countCapture (r : Rc) : Rc :=
  { r with captured := satAdd maxCount16 r.captured 1, ticket := none }

/-- RC hears the close of a ticket (R146, R149, R153). The close of the run's own ticket leads to the end of the step, also in
a resumed run whose step waits: the model's choice, log entry 54. -/
def State.hearClose (serial : Nat) (s : State) : State :=
  if s.rc.ticket = some serial then
    if s.runActive then
      let s1 := s.withRc Rc.countCapture
      if s.rc.haltRequested then s1.pauseRun .halt else s1.endStep
    else if s.runPaused then s.withRc Rc.countCapture
    else s.withRc fun r => { r with ticket := none }
  else s

/-- A WAITING run takes up what was due once TC is settled, or pauses where TC is in ATTENTION (R148). -/
def State.wakeRun (s : State) : State :=
  if s.runActive && s.rc.phase == .waiting then
    if s.tc.state = .attention then s.pauseRun .turnFault
    else if s.runMaySend then
      match s.rc.due with
      | some .stepEnd => s.endStep
      | _ => s.runStep
    else s
  else s

/-- RC takes the completions it has been told, one after the other, then looks at a WAITING run. -/
def serveRun : (fuel : Nat) → State → State
  | 0, s => s
  | fuel + 1, s =>
    match s.rc.heardEnd, s.rc.heardClose with
    | some e, _ => serveRun fuel ((s.withRc fun r => { r with heardEnd := none }).hearEnd e)
    | none, some n => serveRun fuel ((s.withRc fun r => { r with heardClose := none }).hearClose n)
    | none, none =>
      let s1 := s.wakeRun
      if s1.rc.heardEnd.isSome then serveRun fuel s1 else s1

/-- The completions one event can bring to RC: an operation's end and a ticket's close, and the ends of the requests they
make RC send. -/
def runFuel : Nat := 8

/-! ### Requests -/

/-- RUN START (R144). -/
def decideRunStart (last profile : Nat) (mode : Option RunMode) (s : State) : State × Answer :=
  if !s.mounted || s.runActive || s.runPaused || !s.settled then refuse .state s
  else if s.ticketOpen then refuse .busy s
  else if last < s.tc.j ∨ s.leaves < last ∨ 3 < profile ∨ mode = none then refuse .argument s
  else
    answer .accepted [] ((s.withRc fun r =>
      { r with first := some s.tc.j, last := some last, profile := some profile, mode := mode, captured := 0
               doseSkipped := 0, ticket := none }).activateRun)

/-- RC's part of HALT (R149). -/
def State.rcHalt (s : State) : State :=
  match s.rc.state with
  | .active =>
    if s.rc.phase = .waiting then s.pauseRun .halt else s.withRc fun r => { r with haltRequested := true }
  | .paused .tickets => s.setRun (.paused .halt)
  | _ => s

/-- HALT: TC's answer, and RC's part (R42, R149). -/
def decideHalt (s : State) : State × Answer :=
  let a := tcHalt s
  (a.1.rcHalt, a.2)

/-- j lies outside the run's first to last openings. -/
def State.outOfRun (s : State) : Bool :=
  decide (s.tc.j < s.rc.first.getD 0) || decide (s.rc.last.getD 0 < s.tc.j)

/-- RC goes on after passing a RESUME to TC (R151 test 3). -/
def State.resumedByTc (r : Result) (s : State) : State :=
  match r with
  | .accepted =>
    let phase := match s.tc.op with
      | some o => if o.kind = .clamp then StepPhase.clamping else .turning
      | none => .turning
    let lowering := decide (s.tc.state = .lowering)
    (s.withRc fun rc =>
      { rc with phase := if lowering then .clamping else phase, haltRequested := false, pauseOpening := none
                }).setRun .active
  | .ok => s.activateRun
  | _ => s

/-- The operation TC holds in HALTED was sent by the host (R151 test 3). -/
def State.haltedForHost (s : State) : Bool :=
  match s.tc.op with
  | some o => !o.byRun
  | none => false

/-- RESUME while the run is PAUSED belongs to RC (R151). Log entry 19. -/
def rcResume (reason : PauseReason) (s : State) : State × Answer :=
  if s.outOfRun then answer .ok [] (s.endRun .outOfRange)
  else if reason = .manualTurn ∧ s.rc.pauseOpening = some s.tc.j then refuse .state s
  else if s.tc.state = .halted then
    let a := tcResume s
    if s.haltedForHost then a else (a.1.resumedByTc a.2.result, a.2)
  else if !s.settled then refuse .state s
  else answer .accepted [] s.activateRun

/-- RESUME (R44, R151). -/
def decideResume (s : State) : State × Answer :=
  match s.rc.state with
  | .paused r => rcResume r s
  | _ => tcResume s

/-- RUN END (R154). -/
def decideRunEnd (s : State) : State × Answer :=
  if s.runActive || s.runPaused then answer .ok [] ((s.endRun .aborted).runEnded) else refuse .state s

/-- A release has freed a ticket (R150). -/
def State.ticketFreed (s : State) : State :=
  match s.rc.state with
  | .paused .tickets =>
    if s.outOfRun then s.endRun .outOfRange else if s.settled then s.activateRun else s
  | _ => s

/-- TC has entered SAFE-STOP (R153). -/
def State.rcSafeStop (s : State) : State :=
  match s.rc.state with
  | .active => s.pauseRun .guard
  | .paused .tickets | .paused .halt => s.setRun (.paused .guard)
  | _ => s

/-- RUN STATUS (R155). -/
def decideRunStatus (s : State) : State × Answer :=
  let r := s.rc
  answer .ok
    (r.state.items
      ++ [Item.ofNat? r.first, Item.ofNat? r.last, .num s.tc.j, .num r.captured, .num r.doseSkipped,
          Item.ofNat? r.profile, Item.ofNat? (r.mode.map runModeOrder), .num r.phase.order, .flag r.haltRequested,
          Item.ofNat? r.pauseOpening, .num r.volumeSkips]) s

/-! ### Tickets: requests (06) -/

/-- TICKET RELEASE (R134, R135, R150). -/
def decideTicketRelease (count : Nat) (left right : Option Verdict) (s : State) : State × Answer :=
  match left, right with
  | some l, some r =>
    if count = 0 ∨ ringSize < count then refuse .argument s
    else
      let w := releaseWalk l r count s []
      match w.2.serials with
      | [] => if w.2.atOpen then refuse .opened s else refuse .absent s
      | first :: rest =>
        answer .ok
          [.num w.2.serials.length, .num first, .num (rest.getLast?.getD first), .flag w.2.atOpen]
          (w.1.retestBacklog.ticketFreed)
  | _, _ => refuse .argument s

/-- Sets the read flag of the CLOSED ticket with a serial (R132). -/
def State.markRead (serial : Nat) (s : State) : State :=
  let tickets := s.cc.tickets.map fun t => if t.serial = serial && t.closed then { t with read := true } else t
  { s with cc := { s.cc with tickets := tickets } }.retestBacklog

/-- TICKET READ of a serial: the record as it stands when the request is taken, and whether it had been read; the read of a
CLOSED ticket sets its flag, and one that sets it re-tests the backlog (R132, R139). Log entry 35. -/
def readTicket (serial : Nat) (s : State) : State × Answer :=
  match s.cc.tickets.find? fun t => t.serial == serial with
  | none => refuse .absent s
  | some t =>
    if t.unread then
      answer .ok [.bytes t.bytes, .flag t.read] (s.markRead serial)
    else answer .ok [.bytes t.bytes, .flag t.read] s

/-- TICKET READ (R132, R133). -/
def decideTicketRead (ref : TicketRef) (s : State) : State × Answer :=
  match ref with
  | .serial n => if n = 0 then refuse .argument s else readTicket n s
  | .nextUnread =>
    match s.oldestUnread? with
    | none => refuse .absent s
    | some t => readTicket t.serial s

/-- BACKLOG SET (R138). -/
def decideBacklogSet (threshold timeout : Nat) (s : State) : State × Answer :=
  let th := clampTo 1 32 threshold
  let ti := clampTo 1 600 timeout
  answer .ok [.num th, .num ti, .flag (outside 1 32 threshold || outside 1 600 timeout)]
    { s with set := { s.set with backlogThreshold := th, backlogTimeout := ti } }.retestBacklog

/-- RING STATUS (R141). -/
def decideRingStatus (s : State) : State × Answer :=
  let ts := s.cc.tickets
  answer .ok
    [.num s.cc.oldest, .num ts.length, .num s.oldestSerial,
     .num (match ts.getLast? with
           | some t => t.serial
           | none => 0),
     .num (match s.openTicket? with
           | some t => t.serial
           | none => 0),
     .num (ts.countP Ticket.closed), .num s.unreadCount, .num (ts.countP Ticket.orphaned),
     .num (match s.oldestUnread? with
           | some t => t.serial
           | none => 0),
     Item.ofNat? (s.oldestUnread?.map fun t => s.ageOf t), .num s.cc.nextSerial, .num s.set.backlogThreshold,
     .num s.set.backlogTimeout, .flag s.cc.backlog] s

/-- The instant at which the age test comes to be met, while the condition does not hold (R139). -/
def State.backlogDue? (s : State) : Option Nat :=
  if s.cc.backlog then none
  else s.oldestUnread?.map fun t => atMs (t.closeTime.getD 0 + s.set.backlogTimeout * 1000)

end Sys2Proof.Machine
end

