-- ==== Sys2Proof/Machine/Pendant.lean ====
section
/-! DEFINITION. PS: debouncing and the pendant keys (07 section 7.7). -/

namespace Sys2Proof.Machine

/-- Changes an input of the pendant. -/
def State.setInput (k : Key) (v : KeyInput) (s : State) : State :=
  { s with ps := { s.ps with inputs := s.ps.inputs.set k v } }

/-- A reading of an input (R156): a new candidate, or the candidate dropped; one that repeats the candidate leaves its
time. -/
def KeyInput.read (pressed : Bool) (now : Nat) (i : KeyInput) : KeyInput :=
  if pressed = i.stable then { i with candidate := none }
  else
    match i.candidate with
    | some _ => i
    | none => { i with candidate := some (pressed, now) }

/-- PENDANT_INPUT_CHANGE (R156). -/
def State.inputChange (k : Key) (pressed : Bool) (s : State) : State :=
  let s1 := { s with pins := { s.pins with keys := s.pins.keys.set k pressed } }
  s1.setInput k ((s.ps.inputs.get k).read pressed s.now)

/-- The instant at which an input's candidate becomes stable (R156). -/
def State.keyDue? (k : Key) (s : State) : Option Nat :=
  (s.ps.inputs.get k).candidate.map fun c => c.2 + debounceUs

/-- Records the last local result: the request with its result code, or neither (R157). -/
def State.recordLocal (k : Key) (r : Option (LocalRequest × Result)) (s : State) : State :=
  let l : LocalResult := { key := k, request := r.map Prod.fst, result := r.map Prod.snd, time := s.clock }
  { s with ps := { s.ps with lastLocal := some l } }

/-- A request decided for a key, recorded with its result. -/
def State.byKey (k : Key) (q : LocalRequest) (a : State × Answer) : State :=
  a.1.recordLocal k (some (q, a.2.result))

/-- A press that acts on nothing. -/
def State.ignored (k : Key) (s : State) : State :=
  s.recordLocal k none

/-- PEDAL in LOCAL (R158). -/
def State.pressPedal (s : State) : State :=
  match s.rc.state with
  | .paused .turnFault | .paused .guard | .active => s.ignored .pedal
  | .paused _ => State.byKey .pedal .resume (decideResume s)
  | .idle | .ended _ =>
    if s.settled then State.byKey .pedal .capture (decideCapture 0 .absent false s) else s.ignored .pedal

/-- j after a hand turn is confirmed (R152). -/
def State.handTurned (s : State) : State :=
  s.withTc fun t => { t with j := if t.j < s.leaves then t.j + 1 else t.j }

/-- CONFIRM in LOCAL (R49, R152, R158). Log entry 25. -/
def State.pressConfirm (s : State) : State :=
  match s.confirm? with
  | some s1 => s1.recordLocal .confirm (some (.confirm, .ok))
  | none =>
    if s.tc.state = .unclamped ∧ s.rc.state = .paused .manualTurn then
      s.handTurned.recordLocal .confirm (some (.confirm, .ok))
    else s.ignored .confirm

/-- RETAKE on a side of the current opening (R158). -/
def State.retakeSide (side : Nat) (s : State) : State :=
  if side = 0 then s
  else
    match s.sideState side with
    | .held => s.supersede side
    | .accepted => s.setSide side .retake
    | .pending | .retake | .blank | .foldout | .absent => s

/-- RETAKE in LOCAL (R158). Log entry 25. -/
def State.pressRetake (s : State) : State :=
  if !s.mounted || s.tc.state == .seek then s.ignored .retake
  else ((s.retakeSide s.leftNow).retakeSide s.rightNow).recordLocal .retake (some (.retake, .ok))

/-- LAMP in LOCAL (R71, R158). -/
def State.pressLamp (s : State) : State :=
  if s.lc.preview.isSome then State.byKey .lamp .previewOff (decidePreviewOff s)
  else State.byKey .lamp .preview (decidePreview 0 10 s)

/-- A press as its key acts in mode LOCAL (R158); HALT acts in every mode (R157). -/
def State.actKey (k : Key) (s : State) : State :=
  match k with
  | .halt => State.byKey .halt .halt (decideHalt s)
  | .pedal => s.pressPedal
  | .confirm => s.pressConfirm
  | .retake => s.pressRetake
  | .lamp => s.pressLamp
  | .mark => s.ignored .mark

/-- A press joins the PENDANT notice (R159). -/
def State.pendantNotice (k : Key) (s : State) : State :=
  s.notifyWith .pendant fun g => { g with keys := insertNew k g.keys }

/-- What a press does, by the pendant mode (R157). A press with no action in FORWARD or OFF leaves the last local result as it
was: the model's choice, log entry 53. -/
def State.pressKey (k : Key) (s : State) : State :=
  match s.set.pendantMode with
  | .localMode => (s.actKey k).pendantNotice k
  | .forward => (if k = .halt then s.actKey .halt else s).pendantNotice k
  | .off => if k = .halt then s.actKey .halt else s

/-- A candidate level becomes stable; a press acts, but not while the part is starting (R156). -/
def State.keyStable (k : Key) (s : State) : State :=
  match (s.ps.inputs.get k).candidate with
  | none => s
  | some (level, _) =>
    let s1 := s.setInput k { stable := level, candidate := none }
    if level && !s.starting then s1.pressKey k else s1

/-- PENDANT MODE (R157). -/
def decidePendantMode (mode : Option PendantMode) (s : State) : State × Answer :=
  match mode with
  | none => refuse .argument s
  | some m => answer .ok [] { s with set := { s.set with pendantMode := m } }

/-- What a key asked for as reported: the KIND of the request (12 Table 12-1); CONFIRM and RETAKE have none. -/
def LocalRequest.kind? : LocalRequest → Option Nat
  | .halt => some 0x23 | .resume => some 0x24 | .capture => some 0x42 | .preview => some 0x30
  | .previewOff => some 0x31 | .confirm => none | .retake => none

/-- The last local result as reported. -/
def localItems : Option LocalResult → List Item
  | none => [.missing, .missing, .missing, .time none]
  | some l =>
    [.num (keyOrder l.key), Item.ofNat? (l.request.bind LocalRequest.kind?), Item.ofNat? (l.result.map Result.code),
     .time (some l.time)]

/-- PENDANT STATUS (R160). -/
def decidePendantStatus (s : State) : State × Answer :=
  let i := s.ps.inputs
  answer .ok
    ([.num (pendantModeOrder s.set.pendantMode), .flag i.halt.stable, .flag i.confirm.stable, .flag i.retake.stable,
      .flag i.lamp.stable, .flag i.mark.stable, .flag i.pedal.stable,
      .nums (s.lk.gathered.keys.map keyOrder)] ++ localItems s.ps.lastLocal) s

end Sys2Proof.Machine
end

