-- ==== Sys2Proof/Machine/Volumes.lean ====
section
/-! DEFINITION. SAU's requests (01, 08): patterns, classes, mounting, reading the volume, SIDE SET, DISMOUNT and the
tally. -/

namespace Sys2Proof.Machine

/-! ### Patterns and classes -/

/-- PATTERN WRITE (R4). A raw pattern above 40 characters fails the layout of its KIND (12 Table 12-13), which LK answers
before the lock is tested (10 R185, 12 R195). -/
def decidePatternWrite (f : PatternFields) (s : State) : State × Answer :=
  if 40 < f.pattern.length then refuse .argument s
  else if s.pins.lockEngaged then refuse .locked s
  else
    match patternEntry? f with
    | none => refuse .argument s
    | some e => answer .ok [] { s with set := { s.set with patterns := s.set.patterns.set f.position e } }

/-- PATTERN READ (R5). -/
def decidePatternRead (position : Nat) (s : State) : State × Answer :=
  if 11 < position then refuse .argument s
  else
    answer .ok
      [.bytes ((s.set.patterns.getD position { enabled := false, pattern := [], cls := 0 }).bytes position)] s

/-- CLASSIFY (R6). -/
def decideClassify (raw : Text) (s : State) : State × Answer :=
  match shelfMark? raw with
  | none => refuse .argument s
  | some mark =>
    let (cls, position) := classify s.set.patterns mark
    answer .ok [.bytes mark, .num cls, Item.ofNat? position] s

/-- CLASS WRITE (R8). -/
def decideClassWrite (cls : Nat) (f : ClassFields) (s : State) : State × Answer :=
  if s.pins.lockEngaged then refuse .locked s
  else if 7 < cls then refuse .argument s
  else
    match classRecord? f with
    | none => refuse .argument s
    | some (c, clamped) =>
      answer .ok [.flag clamped] { s with set := { s.set with classes := s.set.classes.set cls c } }

/-- CLASS READ (R9). -/
def decideClassRead (cls : Nat) (s : State) : State × Answer :=
  if 7 < cls then refuse .argument s
  else answer .ok [.bytes (classAt s.set.classes cls).bytes] s

/-! ### Profiles (05 R103, R104) -/

/-- PROFILE WRITE (R103). -/
def decideProfileWrite (index : Nat) (f : ProfileFields) (s : State) : State × Answer :=
  if 3 < index then refuse .argument s
  else
    match profile? f with
    | none => refuse .argument s
    | some (p, clamped) =>
      answer .ok [.flag clamped]
        { s with set := { s.set with profiles := s.set.profiles.set index p }
                 lc := { s.lc with learned := s.lc.learned.set index p.levels } }

/-- PROFILE READ (R104). -/
def decideProfileRead (index : Nat) (s : State) : State × Answer :=
  if 3 < index then refuse .argument s
  else answer .ok [.bytes (profileAt s.set.profiles index).bytes] s

/-! ### Mounting (R11 to R16) -/

/-- A foldout list: at most 32 leaves, strictly ascending, each 1 to N (R12). -/
def foldoutsOk (n : Nat) (l : List Nat) : Bool :=
  decide (l.length ≤ 32) && l.all (fun f => decide (1 ≤ f) && decide (f ≤ n)) && ascending l
where
  /-- Each entry is greater than the one before it. -/
  ascending : List Nat → Bool
    | a :: b :: rest => decide (a < b) && ascending (b :: rest)
    | _ => true

/-- A blank list: at most 16 ranges within 1 to 2N (R12). -/
def blanksOk (n : Nat) (l : List (Nat × Nat)) : Bool :=
  decide (l.length ≤ 16) && l.all fun r => decide (1 ≤ r.1) && decide (r.1 ≤ r.2) && decide (r.2 ≤ 2 * n)

/-- The class override is none or names a class (R12). -/
def overrideOk : ClassOverride → Bool
  | .absent => true
  | .cls c => decide (c ≤ 7)

/-- The class of a mount and its source; `none` where the lock refuses the override (R13). -/
def mountClass (locked : Bool) (matched : Nat) : ClassOverride → Option (Nat × ClassSource)
  | .absent => some (matched, .matched)
  | .cls c =>
    if c = matched then some (matched, .matched)
    else if locked then none
    else some (c, .override)

/-- An accepted MOUNT: the volume, its opening table, TC's j and counters, DI's hand-off and RC's count (R14 to R16, R34,
07 R143). -/
def State.mountVolume (v : Volume) (s : State) : State :=
  let s1 := { s with
    sau := { mountCounter := v.mountNo, volume := some v
             openings := buildOpenings v.direction v.n v.foldouts v.blanks, tally := none }
    tc := { s.tc with j := v.j0, turnsDone := 0, missRetries := 0, doubleRetries := 0 }
    rc := { s.rc with volumeSkips := 0 } }
  s1.mountDose v.mark

/-- The counts of MOUNT's lists are those its layout allows (12 Table 12-5). -/
def mountFits (f : MountFields) : Bool :=
  decide (f.raw.length ≤ 40) && decide (f.foldouts.length ≤ 32) && decide (f.blanks.length ≤ 16)

/-- MOUNT (R11 to R16). A BODY that fails its layout is answered before MOUNT's own tests (10 R185, 12 R195). -/
def decideMount (f : MountFields) (s : State) : State × Answer :=
  if !mountFits f then refuse .argument s
  else if s.mounted ∨ s.tc.state ≠ .unclamped then refuse .state s
  else
    match shelfMark? f.raw, f.direction with
    | some mark, some d =>
      if f.n = 0 ∨ 2047 < f.n ∨ f.n < f.j0 ∨ overrideOk f.override = false ∨ foldoutsOk f.n f.foldouts = false
          ∨ blanksOk f.n f.blanks = false then refuse .argument s
      else
        let (matched, position) := classify s.set.patterns mark
        match mountClass s.pins.lockEngaged matched f.override with
        | none => refuse .locked s
        | some (cls, source) =>
          let no := (s.sau.mountCounter + 1) % 65536
          let v : Volume :=
            { mark := mark, n := f.n, direction := d, j0 := f.j0, mountNo := no, cls := cls, source := source
              position := position, limits := classAt s.set.classes cls, foldouts := f.foldouts
              blanks := f.blanks }
          answer .ok
            [.bytes (byte2 no ++ byte1 cls ++ byte1 source.code ++ byte1 (position.getD 0xFF))]
            (s.mountVolume v)
    | _, _ => refuse .argument s

/-! ### Reading the volume (R19, R20) -/

/-- The records of openings `first` on, at most `count` (R19). -/
def State.openingRecords (v : Volume) (first count : Nat) (s : State) : List Byte :=
  (List.range (min count (v.n - first + 1))).flatMap fun i =>
    openingBytes v.direction v.n (first + i) (openingAt s.sau.openings (first + i))

/-- OPENING READ (R19). -/
def decideOpeningRead (first count : Nat) (s : State) : State × Answer :=
  match s.sau.volume with
  | none => refuse .notMounted s
  | some v =>
    if count = 0 ∨ 16 < count ∨ v.n < first then refuse .argument s
    else
      answer .ok
        [.bytes (s.openingRecords v first count ++ byte1 (min count (v.n - first + 1)))] s

/-- The counts of the live states as read. -/
def SideCounts.items (c : SideCounts) : List Item :=
  [.num c.pending, .num c.held, .num c.accepted, .num c.retake, .num c.blank, .num c.foldout]

/-- The mounted-volume record as read (R17, R20). -/
def State.volumeItems (v : Volume) (s : State) : List Item :=
  [.bytes v.mark, .num v.n, .num (dirCode v.direction), .num v.j0, .num v.mountNo, .num v.cls,
   .num v.source.code, Item.ofNat? v.position, .bytes v.limits.bytes, .nums v.foldouts,
   .nums (v.blanks.flatMap fun r => [r.1, r.2]), .num s.tc.j]
  ++ (countSides (sidesInOrder v.direction v.n s.sau.openings)).items

/-- VOLUME READ (R20). -/
def decideVolumeRead (s : State) : State × Answer :=
  answer .ok
    ([.flag s.pins.lockEngaged, .num s.sau.mountCounter, .flag s.mounted]
      ++ (match s.sau.volume with
          | some v => s.volumeItems v
          | none => [])) s

/-! ### SIDE SET (08 R161) -/

/-- The states SIDE SET may set. -/
def settable : SideState → Bool
  | .pending | .retake | .blank | .accepted => true
  | .held | .foldout | .absent => false

/-- Some side from `side` on, `count` of them, is HELD. -/
def State.anyHeld (side count : Nat) (s : State) : Bool :=
  (List.range count).any fun i => s.sideState (side + i) == .held

/-- What SIDE SET counts: the sides changed, and those superseded. -/
structure SideTotals where
  changed    : Nat
  superseded : Nat
  deriving DecidableEq, Repr

/-- Sets one side (R161). Log entry 24. -/
def setOneSide (side : Nat) (st : SideState) (p : State × SideTotals) : State × SideTotals :=
  let old := p.1.sideState side
  if old = .held then
    (p.1.supersede side, { changed := p.2.changed + 1, superseded := p.2.superseded + 1 })
  else if old = st then p
  else (p.1.setSide side st, { p.2 with changed := p.2.changed + 1 })

/-- Sets a range of sides in order of side number (R161). -/
def setSides (st : SideState) : (count side : Nat) → State × SideTotals → State × SideTotals
  | 0, _, p => p
  | count + 1, side, p => setSides st count (side + 1) (setOneSide side st p)

/-- SIDE SET (R161). -/
def decideSideSet (first last : Nat) (st : Option SideState) (s : State) : State × Answer :=
  match s.sau.volume with
  | none => refuse .notMounted s
  | some v =>
    match st with
    | none => refuse .argument s
    | some st =>
      if first = 0 ∨ 2 * v.n < last ∨ last < first ∨ settable st = false then refuse .argument s
      else if s.anyHeld first (last + 1 - first) ∧ st ≠ .retake then refuse .held s
      else
        let r := setSides st (last + 1 - first) first (s, { changed := 0, superseded := 0 })
        answer .ok [.num r.2.changed, .num r.2.superseded] r.1

/-! ### DISMOUNT and TALLY READ (08 R162 to R168) -/

/-- The ring holds a ticket of the current mount (R162 test 5). -/
def State.ticketsOfMount (v : Volume) (s : State) : Bool :=
  s.cc.tickets.any (Ticket.ofMount v.mountNo)

/-- The tests of DISMOUNT in order (R162). -/
def State.dismountRefusal (force : Option Bool) (s : State) : Option Result :=
  match s.sau.volume with
  | none => some .notMounted
  | some v =>
    match force with
    | none => some .argument
    | some force =>
      if s.runActive || s.runPaused then some .state
      else if s.tc.state.moving ∨ s.tc.state = .attention ∨ s.tc.state = .safeStop then some .state
      else if !force && s.ticketsOfMount v then some .tickets
      else none

/-- The dismount's raise begins (R163 step 4). A dwell raise deferred to a ticket that the dismount abandons is this raise
too; an overforce raise so deferred is dropped, so that the dismount ends UNCLAMPED and not in ATTENTION: the model's choice,
log entry 18. -/
def State.beginDismountRaise (forced : Bool) (s : State) : State :=
  let dwell := s.tc.pendingDwell
  let s1 := (s.withTc fun t =>
    { t with op := some (platenOp .dismount false), loweringDue := false, pendingDwell := false
             pendingOverforce := false }).beginRaise (.dismount forced)
  if dwell then s1.notify .dwell else s1

/-- DISMOUNT (R162, R163). -/
def decideDismount (force : Option Bool) (s : State) : State × Answer :=
  match s.dismountRefusal force with
  | some r => refuse r s
  | none =>
    let forced := force.getD false
    let no := match s.sau.volume with
      | some v => v.mountNo
      | none => 0
    let s1 := s.endPreview .cut
    let s2 := if forced then s1.abandonCapture else s1
    if s.tc.state = .clamped ∨ (s.tc.state = .halted ∧ s.platenDown) then
      answer .accepted [.num no] (s2.beginDismountRaise forced)
    else answer .ok [.num no] (s2.completeDismount (causeOf forced))

/-- TALLY READ (R168). -/
def decideTallyRead (s : State) : State × Answer :=
  match s.sau.tally with
  | some t => answer .ok [.bytes t.bytes] s
  | none => refuse .absent s

end Sys2Proof.Machine
end

