-- ==== Sys2Proof/Machine/Startup.lean ====
section
/-! DEFINITION. The guard (02 R50), cold start (11 R191), the warm reset (11 R192) and the failure of the supply (11
R194). -/

namespace Sys2Proof.Machine

/-! ### The guard -/

/-- TC reports GUARD-OPEN with its state at the event, and the SAFETY notice is made pending (R50). -/
def State.guardReport (st : TcState) (s : State) : State :=
  (s.report .guardOpen [st.code]).notify .safety

/-- A stroke that a warm reset was bringing to rest ends with the guard: the dismount completes, and the SAFE-STOP has
origin HOMING (R55, 11 R192). -/
def State.stopResetStroke (s : State) : State :=
  s.completeResetDismount.withTc fun t =>
    { t with origin := some .homing, homeCause := .warmReset, homeByRecover := false, faultPending := false
             raiseGoal := none, returnGoal := none }

/-- The guard's opening outside start-up and SAFE-STOP (R50, 07 R153). -/
def State.safeStop (s : State) : State :=
  let s1 := s.withTc (Tc.safeStopped s.leafOnHead)
  let s2 := s1.rcSafeStop
  let s3 := ((s2.endPreview .cut).cutCapture .guardCut).banksDark
  let s4 := s3.guardReport s.tc.state
  if s.tc.resetStroke then s4.stopResetStroke else s4

/-- The guard's opening while the part is starting: no bank stays lit, and homing stops and waits for the guard again (02
R50, 11 R191). Log entry 20. -/
def State.startGuard (s : State) : State :=
  let s1 := s.banksDark.guardReport s.tc.state
  match s.start.phase with
  | .homing =>
    (s1.withTc fun t => { t with homePhase := none }) |> fun s2 =>
      { s2 with start := { s2.start with phase := .guardWait, guardWaits := s2.start.guardWaits + 1 } }
  | .detecting | .guardWait | .done => s1

/-- GUARD_OPEN (R50, R191). -/
def State.guardOpened (s : State) : State :=
  let s1 := { s with pins := { s.pins with guardOpen := true } }
  if s.pins.guardOpen || s.tc.state == .safeStop then s1
  else if s.starting then s1.startGuard
  else s1.safeStop

/-- The homing step of cold start (11 R191 step 5). -/
def State.startHoming (s : State) : State :=
  { s with start := { s.start with phase := .homing } }.homeFor .coldStart false

/-- GUARD_CLOSE (R50, R191). -/
def State.guardClosed (s : State) : State :=
  let s1 := { s with pins := { s.pins with guardOpen := false } }
  if s.pins.guardOpen && s.start.phase == .guardWait then s1.startHoming else s1

/-- SYNC_WATCH_END: the watch ends; in cold start the guard step follows (R106, R191 steps 3 to 5). -/
def State.syncWatchEnded (s : State) : State :=
  let s1 := s.watchEnded
  if s.start.phase = .detecting then
    if s.pins.guardOpen then
      { s1 with start := { s1.start with phase := .guardWait, guardWaits := s1.start.guardWaits + 1 } }
    else s1.startHoming
  else s1

/-! ### Cold start and the supply -/

/-- The line rate a strap setting selects (10 R182). -/
def rateOf (strap : Nat) : Nat :=
  if strap = 1 then 460800 else if strap = 2 then 921600 else 115200

/-- The store after the supply has failed: a write in progress leaves a copy whose CRC does not check (11 R194). -/
def Ss.powerLost (x : Ss) : Ss :=
  { copy := x.copy, crcGood := x.crcGood && x.writing.isNone, writing := none, lastStore := none }

/-- POWER_FAIL: what is not in the store is lost. Log entry 27. -/
def State.powerFailed (s : State) : State :=
  { State.cold s.pins (rateOf s.pins.rateStrap) Settings.factory .factory s.ss.powerLost s.pending with
    powered := false }

/-- COLD_START: steps 1 and 2, and the beginning of detection (11 R191). Log entry 27. -/
def State.coldStarted (restoreStrap : Bool) (rateStrap : Nat) (s : State) : State :=
  let pins := { s.pins with restoreStrap := restoreStrap, rateStrap := rateStrap }
  let ss := s.ss.powerLost
  let rate := rateOf rateStrap
  if restoreStrap then
    if ss.crcGood then State.cold pins rate ss.copy .restored ss s.pending
    else (State.cold pins rate Settings.factory .factoryCrcBad ss s.pending).report .storeCrc []
  else State.cold pins rate Settings.factory .factory ss s.pending

/-! ### The warm reset (11 R192) -/

/-- Step 1: an ACTIVE or PAUSED run becomes ENDED with ABORTED, with no RUN notice (07 R155). -/
def Rc.aborted (r : Rc) : Rc :=
  { r.stopped with
    pauseOpening := none, ticket := none, heardEnd := none, heardClose := none
    state := match r.state with
      | .active | .paused _ => .ended .aborted
      | .idle => .idle
      | .ended e => .ended e }

/-- Step 4: LK's part of the reset event (10 R187). -/
def Lk.afterReset (l : Lk) : Lk :=
  { l with
    receiver := .hunting, queue := [], inHand := none, slot := none, resetTaken := false, sending := none
    pendingSet := 0, gathered := Gathered.none }

/-- The stroke in flight is on its way to rest, as RECOVER would bring it (R55): an attempt releases its leaf back. A carry
is completed whatever the leaf sensor says, so one whose leaf has been taken counts as a turn: the model's choice, log entry
42. -/
def State.beginResetStroke (s : State) : State :=
  let s1 := s.withTc fun t =>
    { t with resetStroke := true, haltMark := false, stopMark := false, recover := none, origin := none }
  match s.tc.state with
  | .lifting => (s1.releaseBack.withTc fun t => { t with leafInHand := false }).beginReturn .turn
  | _ => s1

/-- TC's part of step 5 and its exceptions, the dismount done (R55). -/
def State.homeAfterReset (s : State) : State :=
  if s.pins.guardOpen || s.tc.state == .safeStop then
    s.withTc fun t =>
      { t with
        state := .safeStop, origin := some .homing, homeCause := .warmReset, homeByRecover := false
        faultPending := false, recover := none, raiseGoal := none, returnGoal := none, dwellStart := none
        haltMark := false, stopMark := false }
  else if s.tc.state = .attention ∧ s.leafOnHead then s
  else s.homeFor .warmReset false

/-- The warm reset (11 R192, 08 R169). -/
def State.warmReset (s : State) : State :=
  let s1 := s.withRc Rc.aborted
  let s2 := ((s1.endPreview .reset).abandonCapture).banksDark
  let stroke := s.tc.state.armStroke
  let s3 := if stroke then s2.beginResetStroke else s2.completeResetDismount
  let s4 := { s3 with
    lk := s3.lk.afterReset
    ps := Ps.asRead s3.pins.keys s3.ps.lastLocal
    rc := { s3.rc with heardEnd := none, heardClose := none }
    cc := { s3.cc with backlog := false } }
  if stroke then s4 else s4.homeAfterReset

end Sys2Proof.Machine
end

