-- ==== Sys2Proof/Machine/Settings.lean ====
section
/-! DEFINITION. Requests on settings (11 R193, R194), on the notice mask (10 R188), and on the fault banks (09). -/

namespace Sys2Proof.Machine

/-! ### SETTINGS WRITE and SETTINGS READ -/

/-- A settings write taken: the value in force, and the clamped flag. -/
def wrote (value : Item) (clamped : Bool) (s : State) : State × Answer :=
  answer .ok [value, .flag clamped] s

/-- SETTINGS WRITE (R193, Table 11-3). -/
def decideSettingsWrite (c : SettingChange) (s : State) : State × Answer :=
  match c with
  | .other | .restoreOutcome => refuse .argument s
  | .k v =>
    if s.pins.lockEngaged then refuse .locked s
    else
      let k := clampTo 1 1023 v
      wrote (.num k) (outside 1 1023 v) { s with set := { s.set with k := k } }
  | .luxPerStep b v =>
    if s.pins.lockEngaged then refuse .locked s
    else
      let l := luxPerStepOf v
      wrote (.num l) (outside 1 655 v) { s with set := { s.set with luxPerStep := s.set.luxPerStep.set b l } }
  | .syncRate hz =>
    if !isRate hz then refuse .argument s
    else if s.ticketOpen || s.lc.preview.isSome then refuse .busy s
    else wrote (.num hz) false (s.setRate hz)
  | .dayLength h =>
    let l := clampTo 1 48 h
    wrote (.num l) (outside 1 48 h) { s with set := { s.set with dayLength := l } }
  | .pendantMode m =>
    match m with
    | none => refuse .argument s
    | some m => wrote (.num (pendantModeOrder m)) false { s with set := { s.set with pendantMode := m } }

/-- SETTINGS READ (R193). -/
def decideSettingsRead (item : Option SettingItem) (s : State) : State × Answer :=
  match item with
  | none => refuse .argument s
  | some .k => answer .ok [.num s.set.k] s
  | some (.luxPerStep b) => answer .ok [.num (s.set.luxPerStep.get b)] s
  | some .syncRate => answer .ok [.num s.set.syncRate] s
  | some .dayLength => answer .ok [.num s.set.dayLength] s
  | some .pendantMode => answer .ok [.num (pendantModeOrder s.set.pendantMode)] s
  | some .restoreOutcome =>
    answer .ok [.num s.start.restoreOutcome.order, .time s.ss.lastStore] s

/-! ### NOTICE MASK -/

/-- NOTICE MASK (10 R188): a bit from 12 to 15 names no kind. -/
def decideNoticeMask (mask : Nat) (s : State) : State × Answer :=
  if 4095 < mask then refuse .argument s
  else answer .ok [] { s with set := { s.set with noticeMask := BitVec.ofNat 12 mask } }

/-! ### Fault banks (09) -/

/-- What FAULT READ carries for one bank. -/
def State.bankBytes (s : State) (b : FaultBank) : List Byte :=
  faultBankBytes (s.fb.banks.get b) (s.set.faultMasks.get b) (s.set.thresholds.get b)

/-- FAULT READ (R174). -/
def decideFaultRead (bank : Option BankRef) (s : State) : State × Answer :=
  match bank with
  | none => refuse .argument s
  | some (.one b) => answer .ok [.bytes (s.bankBytes b)] s
  | some .all =>
    answer .ok
      [.bytes (s.bankBytes .turn ++ s.bankBytes .lamp ++ s.bankBytes .capture ++ s.bankBytes .link
        ++ s.bankBytes .account)] s

/-- FAULT CLEAR (R175). -/
def decideFaultClear (bank : Option FaultBank) (s : State) : State × Answer :=
  match bank with
  | none => refuse .argument s
  | some b =>
    let f := s.fb.banks.get b
    answer .ok [.flag f.record.isSome] (s.setFaultBank b { f with record := none })

/-- FAULT MASK (R172): a bit beyond the bank's codes names a code of no bank (12 section 12.7). -/
def decideFaultMask (bank : Option FaultBank) (mask : Nat) (s : State) : State × Answer :=
  match bank with
  | none => refuse .argument s
  | some b =>
    if 2 ^ codeCount b ≤ mask then refuse .argument s
    else answer .ok [] { s with set := { s.set with faultMasks := s.set.faultMasks.set b (BitVec.ofNat 8 mask) } }

/-- THRESHOLD SET (R177). -/
def decideThresholdSet (bank : Option FaultBank) (threshold : Nat) (s : State) : State × Answer :=
  match bank with
  | none => refuse .argument s
  | some b =>
    let t := clampTo 1 4095 threshold
    let count := (s.fb.banks.get b).count
    let s1 := { s with set := { s.set with thresholds := s.set.thresholds.set b t } }
    answer .ok [.num t, .flag (outside 1 4095 threshold), .num count, .flag (decide (t ≤ count))]
      (s1.recount b count)

/-- THRESHOLD CLEAR (R178). -/
def decideThresholdClear (bank : Option FaultBank) (s : State) : State × Answer :=
  match bank with
  | none => refuse .argument s
  | some b => answer .ok [.num (s.fb.banks.get b).count] (s.recount b 0)

end Sys2Proof.Machine
end

