-- ==== Sys2Proof/Machine/Link.lean ====
section
/-! DEFINITION. LK: the receiver, the receive queue, taking requests, the reply slot, notices and the transmitter (10). -/

namespace Sys2Proof.Machine

/-- Changes LK's part of the state. -/
def State.withLk (f : Lk → Lk) (s : State) : State :=
  { s with lk := f s.lk }

/-! ### General requests (R186, R190) -/

/-- The characters of "ZELTINAR". -/
def vendorName : List Byte := [0x5A#8, 0x45#8, 0x4C#8, 0x54#8, 0x49#8, 0x4E#8, 0x41#8, 0x52#8]

/-- The characters of "2180". -/
def partName : List Byte := [0x32#8, 0x31#8, 0x38#8, 0x30#8]

/-- The character of "C". -/
def revisionName : List Byte := [0x43#8]

/-- IDENTIFY (R186). The serial number is a free value: log entry 6. -/
def decideIdentify (s : State) : State × Answer :=
  answer .ok
    [.bytes vendorName, .bytes partName, .bytes revisionName, .num Config.serialNumber.toNat, .num s.lk.rate,
     .flag s.starting] s

/-- CLOCK READ (R186). -/
def decideClockRead (s : State) : State × Answer :=
  answer .ok [.time (some s.clock), .time (some s.di.dayStart), .num s.set.dayLength, .num (s.di.alarm - s.clock)] s

/-- The receiver's state: 0 HUNTING, 1 IN-FRAME. -/
def Receiver.order : Receiver → Nat
  | .hunting => 0
  | .inFrame _ _ => 1

/-- LINK STATUS (R190). -/
def decideLinkStatus (s : State) : State × Answer :=
  answer .ok
    [.num s.lk.rate, .num s.lk.receiver.order, .num s.lk.queue.length, .flag s.lk.inHand.isSome,
     Item.ofNat? (s.lk.inHand.map fun p => p.1.toNat), .num s.lk.pendingSet.toNat, .num s.set.noticeMask.toNat] s

/-! ### The decision of a request -/

/-- The owning block's decision on a request other than STORE (R184, R185). An event is no request. -/
def decisionOf (i : Instr) (s : State) : State × Answer :=
  match i with
  | .identify _ => decideIdentify s
  | .clockRead _ => decideClockRead s
  | .reset _ => answer .ok [] (s.withLk fun l => { l with resetTaken := true })
  | .noticeMask _ m => decideNoticeMask m s
  | .linkStatus _ => decideLinkStatus s
  | .settingsWrite _ c => decideSettingsWrite c s
  | .settingsRead _ i => decideSettingsRead i s
  | .patternWrite _ f => decidePatternWrite f s
  | .patternRead _ p => decidePatternRead p s
  | .classify _ raw => decideClassify raw s
  | .classWrite _ c f => decideClassWrite c f s
  | .classRead _ c => decideClassRead c s
  | .mount _ f => decideMount f s
  | .openingRead _ f c => decideOpeningRead f c s
  | .volumeRead _ => decideVolumeRead s
  | .sideSet _ f l st => decideSideSet f l st s
  | .dismount _ f => decideDismount f s
  | .tallyRead _ => decideTallyRead s
  | .turn _ n c => decideTurn n c true s
  | .clamp _ => decideClamp true s
  | .unclamp _ => decideUnclamp true s
  | .halt _ => decideHalt s
  | .resume _ => decideResume s
  | .declarePending _ => decideDeclarePending s
  | .declare _ j => decideDeclare j s
  | .recover _ => decideRecover s
  | .turnStatus _ => decideTurnStatus s
  | .preview _ p d => decidePreview p d s
  | .previewOff _ => decidePreviewOff s
  | .profileLevel _ p b a => decideProfileLevel p b a s
  | .lampClear _ t => decideLampClear t s
  | .lampStatus _ => decideLampStatus s
  | .doseStatus _ => decideDoseStatus s
  | .dayMark _ l => decideDayMark l s
  | .carryRead _ i => decideCarryRead i s
  | .carryDrop _ raw => decideCarryDrop raw s
  | .profileWrite _ i f => decideProfileWrite i f s
  | .profileRead _ i => decideProfileRead i s
  | .capture _ p o => decideCapture p o true s
  | .captureStatus _ => decideCaptureStatus s
  | .syncDetect _ => decideSyncDetect s
  | .syncSelect _ src => decideSyncSelect src s
  | .syncStatus _ => decideSyncStatus s
  | .ticketRead _ r => decideTicketRead r s
  | .ticketRelease _ c l r => decideTicketRelease c l r s
  | .backlogSet _ t o => decideBacklogSet t o s
  | .ringStatus _ => decideRingStatus s
  | .runStart _ l p m => decideRunStart l p m s
  | .runEnd _ => decideRunEnd s
  | .runStatus _ => decideRunStatus s
  | .pendantMode _ m => decidePendantMode m s
  | .pendantStatus _ => decidePendantStatus s
  | .faultRead _ b => decideFaultRead b s
  | .faultClear _ b => decideFaultClear b s
  | .faultMask _ b m => decideFaultMask b m s
  | .thresholdSet _ b t => decideThresholdSet b t s
  | .thresholdClear _ b => decideThresholdClear b s
  | _ => refuse .unknown s

/-! ### The reply slot -/

/-- The KIND of a reply: the request's with the top bit set (R185). -/
def replyKind (kind : Byte) : Byte :=
  kind ||| 0x80#8

/-- The reply to the request in hand enters the slot, and the request is gone (R184). -/
def State.putReply (r : Reply) (s : State) : State :=
  s.withLk fun l => { l with slot := some r, inHand := none }

/-- The reply to a request of a known KIND. -/
def replyTo (kind tag : Byte) (a : Answer) : Reply :=
  { kind := replyKind kind, tag := tag, result := a.result, body := a.body }

/-- A known request that is answered while the part is starting: IDENTIFY, CLOCK READ, FAULT READ (R185). -/
def answeredAtStart (kind : Byte) : Bool :=
  kind == 0x01#8 || kind == 0x02#8 || kind == 0x58#8

/-- STORE is taken: the copy is made, and the write begins; the request stays in hand (11 R194). -/
def State.beginStore (s : State) : State :=
  { s with ss := { s.ss with writing := some (s.set, s.now) } }

/-- A request is taken and decided (R184, R185). -/
def State.decideFrame (f : RxFrame) (s : State) : State :=
  if !knownKind f.kind then s.putReply { kind := 0xFF#8, tag := f.tag, result := .unknown, body := [] }
  else if s.starting && !answeredAtStart f.kind then s.putReply (replyTo f.kind f.tag ⟨.starting, []⟩)
  else
    match f.request with
    | none => s.putReply (replyTo f.kind f.tag ⟨.argument, []⟩)
    | some (.store _) => s.beginStore
    | some i =>
      let a := decisionOf i s
      a.1.putReply (replyTo f.kind f.tag a.2)

/-- LK takes the oldest frame of the queue where it may, and RC hears what the decision ended (R184). -/
def State.tryTake (s : State) : State :=
  if s.lk.inHand.isSome || s.lk.slot.isSome || s.lk.resetTaken then s
  else
    match s.lk.queue with
    | [] => s
    | f :: rest =>
      serveRun runFuel
        ((s.withLk fun l => { l with queue := rest, inHand := some (f.kind, f.tag) }).decideFrame f)

/-! ### The contents of notices -/

/-- A bank of the FAULT notice's new-record set, with the code and severity of its record (09 R173). -/
def State.newRecordItems (s : State) (b : FaultBank) : List Item :=
  let r := (s.fb.banks.get b).record
  [.num (faultBankCode b), Item.ofNat? (r.map fun x => x.code.code), Item.ofNat? (r.map fun x => x.code.severity.code)]

/-- A bank in the THRESHOLD notice (09 R179). -/
def State.thresholdItems (s : State) (b : FaultBank) : List Item :=
  let f := s.fb.banks.get b
  [.num f.count, .num (s.set.thresholds.get b), .flag f.crossed]

/-- The newest CLOSED ticket. -/
def State.newestClosed? (s : State) : Option Ticket :=
  (s.cc.tickets.filter Ticket.closed).getLast?

def homingItems : HomingOutcome → List Item
  | .done => [.num 0, .missing]
  | .failed .platen => [.num 1, .num 0]
  | .failed .arm => [.num 1, .num 1]

def doseReasonOrder : DoseReason → Nat
  | .warning => 0 | .exhausted => 1 | .rollover => 2

def backlogTriggerOrder : BacklogTrigger → Nat
  | .count => 0 | .age => 1

/-- The run record as it is sent (07 R143). -/
def runRecordItems (r : Rc) : List Item :=
  r.state.items
  ++ [Item.ofNat? r.first, Item.ofNat? r.last, Item.ofNat? r.profile, Item.ofNat? (r.mode.map runModeOrder),
      .num r.phase.order, .flag r.haltRequested, Item.ofNat? r.pauseOpening, .num r.captured, .num r.doseSkipped]

/-- The contents of a notice as they stand when its frame begins (R188). Log entry 7. A set stands in the order in which its
members joined it: the model's choice, log entry 57. -/
def State.contents (k : NoticeKind) (s : State) : List Item :=
  let g := s.lk.gathered
  match k with
  | .safety | .dwell => []
  | .fault =>
    [.nums (g.newRecords.map faultBankCode), .nums (g.overflows.map faultBankCode)]
      ++ g.newRecords.flatMap s.newRecordItems
  | .start =>
    match g.start with
    | some r =>
      [.num r.restore.order, .num r.sync.order, .num s.lk.rate, .num r.guardWaits] ++ homingItems r.homing
    | none => []
  | .turn =>
    match g.turnEnd with
    | some e =>
      [.num e.kind.order, .num e.result.order, .num e.turned, .num e.remaining, .num e.j, .num e.state.code]
    | none => []
  | .capture =>
    match s.newestClosed? with
    | some t =>
      [.num t.serial, Item.ofNat? (t.left.map fun h => resultByte h.result),
       Item.ofNat? (t.right.map fun h => resultByte h.result), .num s.unreadCount]
    | none => [.num 0, .missing, .missing, .num s.unreadCount]
  | .run => runRecordItems s.rc
  | .dose =>
    [.nums (g.dose.map doseReasonOrder), .num s.di.dayDose, .num s.di.carriedIn, .flag s.di.exhausted,
     Item.ofNat? (s.limits?.map ClassRec.dayBudget), Item.ofNat? (s.limits?.map ClassRec.openingLimit),
     .time (some s.di.dayStart), .time (some s.di.alarm)]
  | .backlog =>
    [.nums (g.backlog.map backlogTriggerOrder), .num s.unreadCount,
     .num (match s.oldestUnread? with
           | some t => t.serial
           | none => 0),
     Item.ofNat? (s.oldestUnread?.map fun t => s.ageOf t), .num s.set.backlogThreshold, .num s.set.backlogTimeout,
     .num s.cc.tickets.length]
  | .threshold =>
    [.nums (g.crossed.map faultBankCode)] ++ s.thresholdItems .turn ++ s.thresholdItems .lamp
      ++ s.thresholdItems .capture ++ s.thresholdItems .link ++ s.thresholdItems .account
  | .sync =>
    [.num s.cc.sync.state.order, .num (sourceCode s.cc.sync.state.source?), .num s.set.syncRate,
     Item.ofNat? s.cc.sync.lastPeriod, .flag g.syncLost]
  | .pendant =>
    [.nums (g.keys.map keyOrder), .num (pendantModeOrder s.set.pendantMode),
     Item.ofNat? (if s.mounted then some s.tc.j else none)] ++ s.rc.state.items ++ localItems s.ps.lastLocal

/-- What a notice has gathered is emptied when its frame begins (R188). -/
def Gathered.emptied (k : NoticeKind) (g : Gathered) : Gathered :=
  match k with
  | .safety | .capture | .run | .dwell => g
  | .fault => { g with newRecords := [], overflows := [] }
  | .start => { g with start := Option.none }
  | .turn => { g with turnEnd := Option.none }
  | .dose => { g with dose := [] }
  | .backlog => { g with backlog := [] }
  | .threshold => { g with crossed := [] }
  | .sync => { g with syncLost := false }
  | .pendant => { g with keys := [] }

/-! ### The transmitter (R189) -/

/-- The earliest pending kind in transmitter order. -/
def State.earliest? (s : State) : Option NoticeKind :=
  NoticeKind.order.find? fun k => s.lk.pendingSet.getLsbD k.bit

/-- A notice's frame begins: its contents are taken, and the kind leaves the pending set (R188). -/
def State.sendNotice (k : NoticeKind) (s : State) : State :=
  s.withLk fun l =>
    { l with sending := some (.notice k (s.contents k)), pendingSet := l.pendingSet &&& ~~~(1#12 <<< k.bit)
             gathered := l.gathered.emptied k }

/-- An idle transmitter begins the reply that waits, or else the earliest pending notice (R189). -/
def State.kick (s : State) : State :=
  if s.lk.sending.isSome then s
  else
    match s.lk.slot with
    | some r => s.withLk fun l => { l with slot := none, sending := some (.reply r) }
    | none =>
      match s.earliest? with
      | some k => s.sendNotice k
      | none => s

/-- Taking requests and beginning frames until neither can go on (R184, R189). Log entry 28. -/
def pump : (fuel : Nat) → State → State
  | 0, s => s
  | fuel + 1, s => pump fuel s.tryTake.kick

/-- Two requests can be taken in one event: one whose reply begins, and one whose reply waits. -/
def pumpFuel : Nat := 3

/-- The OK reply to the RESET taken is the one being sent; a part that is starting has taken none (R185, R187). -/
def State.resetReplied (s : State) : Bool :=
  !s.starting && s.lk.resetTaken && (match s.lk.sending with
    | some (.reply r) => r.kind == 0x83#8 && r.result == .ok
    | _ => false)

/-- TRANSMIT_FRAME_END: the frame has been sent; with the RESET reply the warm reset begins (R187, R189). -/
def State.frameEnded (s : State) : State :=
  match s.lk.sending with
  | none => s
  | some _ =>
    let s1 := s.withLk fun l => { l with sending := none }
    if s.resetReplied then s1.warmReset else s1

/-- The write of the store completes (11 R194). -/
def State.storeDone (s : State) : State :=
  match s.ss.writing with
  | none => s
  | some (copy, _) =>
    let s1 := { s with ss := { copy := copy, crcGood := true, writing := none, lastStore := some s.clock } }
    match s.lk.inHand with
    | some (kind, tag) => if kind = 0x0A#8 then s1.putReply (replyTo kind tag ⟨.ok, [.time (some s.clock)]⟩) else s1
    | none => s1

/-! ### Events -/

/-- Everything an event brings in one step: its own effect, RC's answers to what it ended, and LK's next frames. -/
def State.settle (s : State) : State :=
  pump pumpFuel (serveRun runFuel s)

/-- An event of the powered part; with no supply nothing happens. -/
def State.event (f : State → State) (s : State) : State :=
  if s.powered then (f s).settle else s

/-- An event at a pin: without supply its level changes all the same. -/
def State.pinEvent (pin f : State → State) (s : State) : State :=
  if s.powered then (f s).settle else pin s

/-! ### The bytes of a sent frame (R181, R182, 12) -/

/-- The bytes of a value that chapter 12 lays out by itself: bytes, a yes/no field and an elapsed-clock time (R195). -/
def Item.bytes? : Item → Option (List Byte)
  | .bytes l => some l
  | .flag b => some (flagByte b)
  | .time t => some (timeBytes t)
  | .num _ | .int _ | .nums _ | .missing => none

/-- The bytes of the fields of a reply or notice of a KIND, one field after the other, 250 at most with what goes before
them. A field that chapter 12 does not lay out is free (log entry 7). -/
def fieldBytes (kind : Byte) (room : Nat) (fields : List Item) : List Byte :=
  (fields.mapIdx fun place i => i.bytes?.getD (Config.unstatedField kind place i)).flatten.take room

/-- The KIND of a notice (12 Table 12-2). -/
def NoticeKind.kind (k : NoticeKind) : Byte :=
  BitVec.ofNat 8 (0xE0 + k.bit)

def TxFrame.kind : TxFrame → Byte
  | .reply r => r.kind
  | .notice k _ => k.kind

/-- The TAG of a sent frame: the request's, and 0 in a notice (R181, R185, R188). -/
def TxFrame.tag : TxFrame → Byte
  | .reply r => r.tag
  | .notice _ _ => 0#8

/-- The BODY of a sent frame; a reply's begins with the result code (R185). -/
def TxFrame.body : TxFrame → List Byte
  | .reply r => BitVec.ofNat 8 r.result.code :: fieldBytes r.kind 249 r.body
  | .notice k fields => fieldBytes k.kind 250 fields

/-- The bytes of a sent frame as they travel: SYNC, LEN, KIND, TAG, BODY and the CRC (R181, R182). -/
def TxFrame.bytes (f : TxFrame) : List Byte :=
  frameBytes f.kind f.tag f.body

/-! ### The receiver (R183) -/

/-- A good frame joins the receive queue, or is dropped with OVERRUN (R184). -/
def State.joinQueue (f : RxFrame) (s : State) : State :=
  if s.lk.queue.length < 2 then s.withLk fun l => { l with queue := l.queue ++ [f] }
  else s.report .overrun [f.kind.toNat]

/-- The receiver goes back to HUNTING. -/
def State.hunt (s : State) : State :=
  s.withLk fun l => { l with receiver := .hunting }

/-- The CRC of a complete frame's bytes checks (R182). -/
def crcChecks (bytes : List Byte) : Bool :=
  let covered := (bytes.drop 1).take (bytes.length - 3)
  let c := crc16 covered
  bytes.drop (bytes.length - 2) == [c.extractLsb' 8 8, c.extractLsb' 0 8]

/-- The frame that complete, good bytes carry (R181, R185). -/
def rxFrameOf (bytes : List Byte) : RxFrame :=
  let kind := bytes.getD 2 0#8
  let tag := bytes.getD 3 0#8
  let body := (bytes.drop 4).take (bytes.length - 6)
  { kind := kind, tag := tag, request := parseRequest kind tag body }

/-- The last byte of a frame has been collected (R183). -/
def State.frameComplete (bytes : List Byte) (s : State) : State :=
  if crcChecks bytes then s.hunt.joinQueue (rxFrameOf bytes)
  else s.hunt.report .badCrc [(bytes.getD 2 0#8).toNat]

/-- One byte received (R183). A byte that ends a frame brings what its event brings: a good frame is taken at once where a
request may be taken (R184). Log entry 28. -/
def State.rxByte (s : State) (b : Byte) : State :=
  match s.lk.receiver with
  | .hunting =>
    if b = 0xC3#8 then s.withLk fun l => { l with receiver := .inFrame [b] s.now } else s
  | .inFrame bytes _ =>
    let all := bytes ++ [b]
    let len := (all.getD 1 0#8).toNat
    if all.length = 2 ∧ 250 < b.toNat then (s.hunt.report .badLength [b.toNat]).settle
    else if 2 < all.length ∧ all.length = len + 6 then (s.frameComplete all).settle
    else s.withLk fun l => { l with receiver := .inFrame all s.now }

/-- The instant at which the gap inside a frame has passed 20 ms (R183). -/
def State.rxDue? (s : State) : Option Nat :=
  match s.lk.receiver with
  | .hunting => none
  | .inFrame _ last => some (last + rxGapUs + 1)

/-- The partial frame is dropped with RX-TIMEOUT (R183). Log entry 23. -/
def State.rxTimedOut (s : State) : State :=
  match s.lk.receiver with
  | .hunting => s
  | .inFrame bytes _ => s.hunt.report .rxTimeout [bytes.length]

/-- FRAME_RECEIVED: bytes arrive at the present instant (R183). -/
def State.bytesReceived (bytes : List Byte) (s : State) : State :=
  let s1 := match s.rxDue? with
    | some t => if t ≤ s.now then s.rxTimedOut.settle else s
    | none => s
  bytes.foldl State.rxByte s1

/-! ### Timers (log entries 3 and 4) -/

/-- A class with ambient accrual is mounted. -/
def State.chargesAmbient (s : State) : Bool :=
  match s.limits? with
  | some c => c.ambient
  | none => false

/-- The next millisecond, up to `target`, in which DI's own work shows: each one while a bank is lit, each whole second while
room light is charged, and else `target` itself, since the sensor's level stands and only the latest reading is kept. -/
def State.nextMs (target : Nat) (s : State) : Nat :=
  if s.starting then target
  else if s.anyLit then s.clock + 1
  else if s.chargesAmbient then min target ((s.clock / 1000 + 1) * 1000)
  else target

/-- The clock goes on to the next millisecond in which DI has work, which is done there, with all that it brings (04 R75,
R81). -/
def State.passMs (target : Nat) (s : State) : State :=
  ((s.goTo (atMs (s.nextMs target))).milli).settle

/-- Milliseconds pass until the timer ends in the present one; it then has its effect. A timer that has stopped on the way has
none. -/
def passTimer (due : State → Option Nat) (f : State → State) : (fuel : Nat) → State → State
  | 0, s => s
  | fuel + 1, s =>
    match due s with
    | none => s
    | some t => if t / 1000 ≤ s.clock then f (s.goTo t) else passTimer due f fuel (s.passMs (t / 1000))

/-- An event of a timer: the part is carried to the timer's instant, over milliseconds in which DI does its own work; with no
such timer running nothing happens. -/
def State.atDue (due : State → Option Nat) (f : State → State) (s : State) : State :=
  match due s with
  | none => s
  | some t =>
    if t / 1000 ≤ s.clock then f (s.goTo t)
    else passTimer due f (t / 1000 - s.clock + 1) s.milli.settle

/-- AMBIENT_ACCRUAL: at the present instant where it is a whole second not yet charged, else at the next (04 R81). Log
entry 22. -/
def State.ambientTick (s : State) : State :=
  if s.secondDue then s.milli
  else s.atDue (fun _ => some (atMs ((s.clock / 1000 + 1) * 1000))) State.milli

/-! ### Timers and pins whose commands look at more than one block -/

/-- The lock switch turns (01 R10). -/
def State.setLock (engaged : Bool) (s : State) : State :=
  { s with pins := { s.pins with lockEngaged := engaged } }

/-- The instant at which the phase of homing reaches its limit (02 R53). -/
def State.homeDueUs? (s : State) : Option Nat :=
  s.homeDue?.map Prod.fst

/-- The phase of homing reaches its limit (02 R53). -/
def State.homeLimit (s : State) : State :=
  match s.homeDue? with
  | some (_, part) => s.homingFailed part
  | none => s

/-- The instant at which the dwell timer expires (02 R41). -/
def State.dwellDueUs? (s : State) : Option Nat :=
  s.dwellDue?.map atMs

/-- The instant of the next comparison (03 R61). -/
def State.compareDueUs? (s : State) : Option Nat :=
  s.compareDue?.map Prod.fst

/-- The comparison that is due (03 R61). -/
def State.compare (s : State) : State :=
  match s.compareDue? with
  | some (t, w) => s.compareAt t w
  | none => s

/-- The instant at which a LIT preview expires (03 R70). -/
def State.previewDue? (s : State) : Option Nat :=
  s.lc.preview.map fun p => atMs p.finish

/-- The instant of the dose-day alarm (04 R90). -/
def State.alarmDue? (s : State) : Option Nat :=
  some (atMs s.di.alarm)

/-- SENSOR_READING: the sensor gives `raw`, and the present millisecond takes its reading. Where this one's has been made, DI
first ends its own work of this millisecond, which at a whole second charges room light, and the next millisecond takes the
reading. None is taken before the end of start-up (04 R75, R81). Log entry 22. -/
def State.sensorReading (raw : Nat) (s : State) : State :=
  if s.starting then s.setSensor raw
  else if s.di.lastRead = some s.clock then
    (((s.milli.settle).setSensor raw).goTo (atMs (s.clock + 1))).readSensor
  else (s.setSensor raw).readSensor

/-- The reading that makes ten consecutive saturated lit samples, where nine stand (04 R76). Log entry 21. -/
def State.tenthSaturated (s : State) : State :=
  if s.anyLit ∧ s.di.satCount = 9 then s.sensorReading 4095 else s

/-- The reading that makes fifty consecutive dark lit samples, where forty-nine stand (04 R77). Log entry 21. -/
def State.fiftiethDark (s : State) : State :=
  if s.anyLit ∧ s.di.darkCount = 49 then s.sensorReading 0 else s

/-- A request command: its good frame arrives at the receive queue (R184). Log entry 1. -/
def State.submit (i : Instr) (s : State) : State :=
  match i.kind?, i.tag? with
  | some kind, some tag => s.joinQueue { kind := kind, tag := tag, request := some i }
  | _, _ => s

/-- A request command in a powered part. -/
def request (i : Instr) (s : State) : Host.Outcome State Fault Refusal :=
  .next (s.event (State.submit i))

/-- The command of a running timer. -/
def timer (due : State → Option Nat) (f : State → State) (s : State) : Host.Outcome State Fault Refusal :=
  .next (s.event (State.atDue due f))

end Sys2Proof.Machine
end

