-- ==== Sys2Proof/Machine/CaptureCommands.lean ====
section
/-! DEFINITION. The meanings of the commands of one family: capture and synchronisation. A request command is its good frame arriving at the
receive queue; what the request does stands in the decision that Link.lean's `decisionOf` names for it. -/

namespace Sys2Proof.Machine

/-- PROFILE_WRITE (R103): writes one capture profile, clamping fields, and resets its learned levels. -/
def execProfileWrite (tag : Byte) (index : Nat) (fields : ProfileFields) (s : State) :
    Host.Outcome State Fault Refusal :=
  request (.profileWrite tag index fields) s

/-- PROFILE_READ (R104): returns one capture profile. -/
def execProfileRead (tag : Byte) (index : Nat) (s : State) : Host.Outcome State Fault Refusal :=
  request (.profileRead tag index) s

/-- CAPTURE (R116): works out the selection, applies the admission tests, and opens a ticket and a capture window. -/
def execCapture (tag : Byte) (profile : Nat) (sides : SidesOverride) (s : State) : Host.Outcome State Fault Refusal :=
  request (.capture tag profile sides) s

/-- CAPTURE_STATUS (R125): returns the capture state, the ticket in progress, the camera signals and the sync state. -/
def execCaptureStatus (tag : Byte) (s : State) : Host.Outcome State Fault Refusal :=
  request (.captureStatus tag) s

/-- SYNC_DETECT (R107): starts a 500 ms detection watch of the external sync input. -/
def execSyncDetect (tag : Byte) (s : State) : Host.Outcome State Fault Refusal :=
  request (.syncDetect tag) s

/-- SYNC_SELECT (R109): fixes the sync source by hand to EXTERNAL or INTERNAL. -/
def execSyncSelect (tag : Byte) (source : Option SyncSource) (s : State) : Host.Outcome State Fault Refusal :=
  request (.syncSelect tag source) s

/-- SYNC_STATUS (R112): returns the selector state, the source in use, the rate, the period and the good count. -/
def execSyncStatus (tag : Byte) (s : State) : Host.Outcome State Fault Refusal :=
  request (.syncStatus tag) s

/-- SETTLE_END (R118): the settle time elapses, and CC enters WAIT-EDGE. -/
def execSettleEnd (s : State) : Host.Outcome State Fault Refusal :=
  timer State.settleDue? State.settleEnded s

/-- EXTERNAL_SYNC_EDGE (R105): A rising edge of the external input is measured, counted for detection or return, and
delivered in the external states. -/
def execExternalSyncEdge (after : Nat) (s : State) : Host.Outcome State Fault Refusal :=
  .next (s.event fun s1 => s1.atDue (fun _ => some (s1.now + after)) State.externalEdge)

/-- INTERNAL_SYNC_EDGE (R105): the internal generator delivers an edge one nominal period after its previous one. -/
def execInternalSyncEdge (s : State) : Host.Outcome State Fault Refusal :=
  timer State.edgeDue? State.generatorEdge s

/-- SYNC_LOSS (R108): two nominal periods pass without an external edge; the source is lost, and the internal generator
takes over. -/
def execSyncLoss (s : State) : Host.Outcome State Fault Refusal :=
  timer State.lossDue? State.sourceLost s

/-- SYNC_WATCH_END (R106): the 500 ms detection watch ends, and the selector enters EXTERNAL or INTERNAL. -/
def execSyncWatchEnd (s : State) : Host.Outcome State Fault Refusal :=
  timer State.watchDue? State.syncWatchEnded s

/-- CAMERA_EXPOSING (R119): A triggered camera raises or drops EXPOSING, which may satisfy the lamps-off condition. -/
def execCameraExposing (cam : Camera) (level : Bool) (ready : Bool) (s : State) : Host.Outcome State Fault Refusal :=
  .next (s.pinEvent (fun s1 => { s1 with pins := (s1.pins.setReady cam ready).setExposing cam level })
    (State.cameraExposing cam level ready))

/-- EXPOSURE_ELAPSED (R119): the exposure time elapses since the trigger, and the lamps-off condition is tested. -/
def execExposureElapsed (s : State) : Host.Outcome State Fault Refusal :=
  timer State.elapsedDue? State.exposureElapsed s

/-- EXPOSING_TIMEOUT (R119): A camera counts as done exposing at exposure + 5 ms without EXPOSING, or at exposure + 500
ms still holding it. -/
def execExposingTimeout (cam : Camera) (s : State) : Host.Outcome State Fault Refusal :=
  timer (State.camDue? cam) (State.camDone cam) s

/-- CAMERA_STORED (R120): A triggered camera pulses STORED, and a side with no result takes STORED. -/
def execCameraStored (cam : Camera) (ready : Bool) (s : State) : Host.Outcome State Fault Refusal :=
  .next (s.pinEvent (fun s1 => { s1 with pins := s1.pins.setReady cam ready }) (State.cameraStored cam ready))

/-- FRAME_LIMIT (R120): the frame limit passes; cameras without STORED record FRAME-TIMEOUT, and their sides take
NO-FRAME. -/
def execFrameLimit (s : State) : Host.Outcome State Fault Refusal :=
  timer State.limitDue? State.framePassed s

end Sys2Proof.Machine
end

