-- ==== Sys2Proof/Machine/DoseCommands.lean ====
section
/-! DEFINITION. The meanings of the commands of one family: light dose. A request command is its good frame arriving at the
receive queue; what the request does stands in the decision that Link.lean's `decisionOf` names for it. -/

namespace Sys2Proof.Machine

/-- DOSE_STATUS (R100): returns the day dose, the allowances, the sensor readings, the dose day and the carry table
count. -/
def execDoseStatus (tag : Byte) (s : State) : Host.Outcome State Fault Refusal :=
  request (.doseStatus tag) s

/-- DAY_MARK (R91): sets the working day length and starts a new dose day now with a rollover, unless the lock is
engaged. -/
def execDayMark (tag : Byte) (length : Nat) (s : State) : Host.Outcome State Fault Refusal :=
  request (.dayMark tag length) s

/-- CARRY_READ (R98): returns one entry of the dose carry table. -/
def execCarryRead (tag : Byte) (index : Nat) (s : State) : Host.Outcome State Fault Refusal :=
  request (.carryRead tag index) s

/-- CARRY_DROP (R99): removes the carry entry of a shelf mark, unless the lock is engaged. -/
def execCarryDrop (tag : Byte) (raw : Text) (s : State) : Host.Outcome State Fault Refusal :=
  request (.carryDrop tag raw) s

/-- SENSOR_READING (R75): each millisecond DI reads the sensor, converts it to lux, and integrates a lit sample. -/
def execSensorReading (raw : Nat) (s : State) : Host.Outcome State Fault Refusal :=
  .next (s.pinEvent (State.setSensor raw) (State.sensorReading raw))

/-- SENSOR_SATURATED (R76): the tenth consecutive lit reading of 4095 reports SENSOR-SATURATED. -/
def execSensorSaturated (s : State) : Host.Outcome State Fault Refusal :=
  .next (s.event State.tenthSaturated)

/-- SENSOR_DARK (R77): the fiftieth consecutive lit reading of 0 sets the sensor-dark block, darkens every bank and cuts
the window. -/
def execSensorDark (s : State) : Host.Outcome State Fault Refusal :=
  .next (s.event State.fiftiethDark)

/-- AMBIENT_ACCRUAL (R81): at each whole second with no bank lit, room light is charged to the mounted volume where its
class asks for it. -/
def execAmbientAccrual (s : State) : Host.Outcome State Fault Refusal :=
  .next (s.event State.ambientTick)

/-- ROLLOVER (R93): the dose-day alarm expires; the carry table and the day's doses are cleared, EXHAUSTED is lifted,
and a new day begins. -/
def execRollover (s : State) : Host.Outcome State Fault Refusal :=
  timer State.alarmDue? State.alarmExpired s

end Sys2Proof.Machine
end

