-- ==== Sys2Proof/Machine/FaultCommands.lean ====
section
/-! DEFINITION. The meanings of the commands of one family: the fault banks. A request command is its good frame arriving at the
receive queue; what the request does stands in the decision that Link.lean's `decisionOf` names for it. -/

namespace Sys2Proof.Machine

/-- FAULT_READ (R174): returns the record, mask and threshold state of one bank or of all five. -/
def execFaultRead (tag : Byte) (bank : Option BankRef) (s : State) : Host.Outcome State Fault Refusal :=
  request (.faultRead tag bank) s

/-- FAULT_CLEAR (R175): clears a bank's record and its overflow flag. -/
def execFaultClear (tag : Byte) (bank : Option FaultBank) (s : State) : Host.Outcome State Fault Refusal :=
  request (.faultClear tag bank) s

/-- FAULT_MASK (R172): replaces a bank's mask of enabled fault kinds. -/
def execFaultMask (tag : Byte) (bank : Option FaultBank) (mask : Nat) (s : State) :
    Host.Outcome State Fault Refusal :=
  request (.faultMask tag bank mask) s

/-- THRESHOLD_SET (R177): sets a bank's threshold, clamping it, and recomputes the crossed flag. -/
def execThresholdSet (tag : Byte) (bank : Option FaultBank) (threshold : Nat) (s : State) :
    Host.Outcome State Fault Refusal :=
  request (.thresholdSet tag bank threshold) s

/-- THRESHOLD_CLEAR (R178): sets a bank's threshold count to 0 and clears its crossed flag. -/
def execThresholdClear (tag : Byte) (bank : Option FaultBank) (s : State) : Host.Outcome State Fault Refusal :=
  request (.thresholdClear tag bank) s

end Sys2Proof.Machine
end

