-- ==== Sys2Proof/Machine/LampCommands.lean ====
section
/-! DEFINITION. The meanings of the commands of one family: illumination. A request command is its good frame arriving at the
receive queue; what the request does stands in the decision that Link.lean's `decisionOf` names for it. -/

namespace Sys2Proof.Machine

/-- PREVIEW (R68): tests and admits a preview of a profile for 1 to 30 s and lights its banks. -/
def execPreview (tag : Byte) (profile : Nat) (duration : Nat) (s : State) : Host.Outcome State Fault Refusal :=
  request (.preview tag profile duration) s

/-- PREVIEW_OFF (R71): ends a lit preview with result OFF, or answers NONE. -/
def execPreviewOff (tag : Byte) (s : State) : Host.Outcome State Fault Refusal :=
  request (.previewOff tag) s

/-- PROFILE_LEVEL (R64): steps or sets one bank's level in a profile, clamping it, and sets the matching learned level. -/
def execProfileLevel (tag : Byte) (profile : Nat) (bank : Option LampBank) (action : Option LevelAction) (s : State) :
    Host.Outcome State Fault Refusal :=
  request (.profileLevel tag profile bank action) s

/-- LAMP_CLEAR (R67): returns a faulted bank to service, or lifts the sensor-dark block. -/
def execLampClear (tag : Byte) (target : Option LampTarget) (s : State) : Host.Outcome State Fault Refusal :=
  request (.lampClear tag target) s

/-- LAMP_STATUS (R73): returns the window, the banks, regulation, the preview and the learned levels. -/
def execLampStatus (tag : Byte) (s : State) : Host.Outcome State Fault Refusal :=
  request (.lampStatus tag) s

/-- BANK_CURRENT_FAULT (R65): A lit bank's driver reports low or high current; the bank goes dark and faulted, and
BANK-OPEN or BANK-SHORT is reported. -/
def execBankCurrentFault (bank : LampBank) (report : CurrentReport) (s : State) : Host.Outcome State Fault Refusal :=
  .next (s.event (State.bankFault bank report))

/-- REGULATION_COMPARISON (R61): every m ms of a HELD-LUX window, all lit banks step up or down one level toward the
target. -/
def execRegulationComparison (s : State) : Host.Outcome State Fault Refusal :=
  timer State.compareDueUs? State.compare s

/-- PREVIEW_EXPIRY (R70): the elapsed clock reaches a lit preview's end time, and the preview ends EXPIRED. -/
def execPreviewExpiry (s : State) : Host.Outcome State Fault Refusal :=
  timer State.previewDue? (State.endPreview .expired) s

end Sys2Proof.Machine
end

