-- ==== Sys2Proof/Machine/LinkCommands.lean ====
section
/-! DEFINITION. The meanings of the commands of one family: the host link and settings. A request command is its good frame arriving at the
receive queue; what the request does stands in the decision that Link.lean's `decisionOf` names for it. -/

namespace Sys2Proof.Machine

/-- LOCK_SWITCH_CHANGE (R10): the conservation lock key switch changes position; later requests are decided by the new
position, and no notice is made. -/
def execLockSwitchChange (engaged : Bool) (s : State) : Host.Outcome State Fault Refusal :=
  .next (s.pinEvent (State.setLock engaged) (State.setLock engaged))

/-- FRAME_RECEIVED (R183): the receiver collects a frame, checks its length and CRC, and passes a good frame to the
receive queue. -/
def execFrameReceived (bytes : List Byte) (s : State) : Host.Outcome State Fault Refusal :=
  .next (if s.powered then s.bytesReceived bytes else s)

/-- RX_TIMEOUT (R183): more than 20 ms pass without a byte inside a frame; the partial frame is dropped and RX-TIMEOUT
is reported. -/
def execRxTimeout (s : State) : Host.Outcome State Fault Refusal :=
  timer State.rxDue? State.rxTimedOut s

/-- UNKNOWN_REQUEST (R185): A request whose KIND names no request of the part is answered UNKNOWN with reply KIND 0xFF. -/
def execUnknownRequest (tag : Byte) (kind : Byte) (s : State) : Host.Outcome State Fault Refusal :=
  request (.unknownRequest tag kind) s

/-- TRANSMIT_FRAME_END (R189): the frame being sent ends, and the transmitter chooses the waiting reply or else the
earliest pending notice kind. -/
def execTransmitFrameEnd (s : State) : Host.Outcome State Fault Refusal :=
  .next (s.event State.frameEnded)

/-- IDENTIFY (R186): returns the vendor, part, revision, serial number, line rate and starting flag. -/
def execIdentify (tag : Byte) (s : State) : Host.Outcome State Fault Refusal :=
  request (.identify tag) s

/-- CLOCK_READ (R186): returns the elapsed clock, the day start, the day length and the time to rollover. -/
def execClockRead (tag : Byte) (s : State) : Host.Outcome State Fault Refusal :=
  request (.clockRead tag) s

/-- RESET (R187): answered OK; no further request is taken until the warm reset that follows the reply. -/
def execReset (tag : Byte) (s : State) : Host.Outcome State Fault Refusal :=
  request (.reset tag) s

/-- NOTICE_MASK (R188): replaces the notice mask with the given set of kinds. -/
def execNoticeMask (tag : Byte) (mask : Nat) (s : State) : Host.Outcome State Fault Refusal :=
  request (.noticeMask tag mask) s

/-- LINK_STATUS (R190): returns the line rate, the receiver state, the queue, the request in hand, the pending notice
set and the notice mask. -/
def execLinkStatus (tag : Byte) (s : State) : Host.Outcome State Fault Refusal :=
  request (.linkStatus tag) s

/-- SETTINGS_WRITE (R193): changes one working setting, subject to the lock, clamping or refusal. -/
def execSettingsWrite (tag : Byte) (change : SettingChange) (s : State) : Host.Outcome State Fault Refusal :=
  request (.settingsWrite tag change) s

/-- SETTINGS_READ (R193): returns one working setting, or the last restore outcome with the time of the last STORE. -/
def execSettingsRead (tag : Byte) (item : Option SettingItem) (s : State) : Host.Outcome State Fault Refusal :=
  request (.settingsRead tag item) s

/-- STORE (R194): copies the working settings and begins writing them, with their CRC, to the settings store. -/
def execStore (tag : Byte) (s : State) : Host.Outcome State Fault Refusal :=
  request (.store tag) s

/-- STORE_COMPLETE (R194): the settings store write completes, the OK reply enters the reply slot, and the last STORE
time is set. -/
def execStoreComplete (s : State) : Host.Outcome State Fault Refusal :=
  .next (s.event State.storeDone)

end Sys2Proof.Machine
end

