-- ==== Sys2Proof/Machine/PowerCommands.lean ====
section
/-! DEFINITION. The meanings of the commands of one family: start and power. A request command is its good frame arriving at the
receive queue; what the request does stands in the decision that Link.lean's `decisionOf` names for it. -/

namespace Sys2Proof.Machine

/-- COLD_START (R191): power-on runs the cold start sequence: clock, restore, sync detection, guard wait, homing and the
START notice. -/
def execColdStart (restoreStrap : Bool) (rateStrap : Nat) (s : State) : Host.Outcome State Fault Refusal :=
  .next (s.coldStarted restoreStrap rateStrap).settle

/-- WARM_RESET (R192): once the RESET reply has been sent in full, the part ends the run, abandons the capture,
force-dismounts, clears the link and starts homing. -/
def execWarmReset (s : State) : Host.Outcome State Fault Refusal :=
  .next (s.event fun s1 => if s1.starting then s1 else s1.warmReset)

/-- POWER_FAIL (R194): the supply is lost; a settings store write in progress is left with a copy whose CRC does not
check, so the next cold start with the restore strap set loads factory values and records STORE-CRC. -/
def execPowerFail (s : State) : Host.Outcome State Fault Refusal :=
  .next s.powerFailed

end Sys2Proof.Machine
end

