-- ==== Sys2Proof/Machine/RunCommands.lean ====
section
/-! DEFINITION. The meanings of the commands of one family: tickets, runs and the pendant. A request command is its good frame arriving at the
receive queue; what the request does stands in the decision that Link.lean's `decisionOf` names for it. -/

namespace Sys2Proof.Machine

/-- TICKET_READ (R132): reads a ticket by serial, or the oldest unread closed ticket, setting its read flag if it is
CLOSED. -/
def execTicketRead (tag : Byte) (ref : TicketRef) (s : State) : Host.Outcome State Fault Refusal :=
  request (.ticketRead tag ref) s

/-- TICKET_RELEASE (R135): releases up to the given count of oldest CLOSED tickets and applies the verdicts to their
sides. -/
def execTicketRelease (tag : Byte) (count : Nat) (left : Option Verdict) (right : Option Verdict) (s : State) :
    Host.Outcome State Fault Refusal :=
  request (.ticketRelease tag count left right) s

/-- BACKLOG_SET (R138): sets the backlog threshold and timeout, clamping them. -/
def execBacklogSet (tag : Byte) (threshold : Nat) (timeout : Nat) (s : State) : Host.Outcome State Fault Refusal :=
  request (.backlogSet tag threshold timeout) s

/-- RING_STATUS (R141): returns the ring occupancy, the serials, the unread counts and the backlog state. -/
def execRingStatus (tag : Byte) (s : State) : Host.Outcome State Fault Refusal :=
  request (.ringStatus tag) s

/-- BACKLOG_AGE (R139): the oldest unread closed ticket reaches the backlog timeout, and the backlog condition is
re-tested. -/
def execBacklogAge (s : State) : Host.Outcome State Fault Refusal :=
  timer State.backlogDue? State.retestBacklog s

/-- RUN_START (R144): starts an automatic run from the current opening to the last opening. -/
def execRunStart (tag : Byte) (last : Nat) (profile : Nat) (mode : Option RunMode) (s : State) :
    Host.Outcome State Fault Refusal :=
  request (.runStart tag last profile mode) s

/-- RUN_END (R154): ends an ACTIVE or PAUSED run ABORTED and tells TC to finish the leaf in hand. -/
def execRunEnd (tag : Byte) (s : State) : Host.Outcome State Fault Refusal :=
  request (.runEnd tag) s

/-- RUN_STATUS (R155): returns the run record and the volume's dose-skip count. -/
def execRunStatus (tag : Byte) (s : State) : Host.Outcome State Fault Refusal :=
  request (.runStatus tag) s

/-- PENDANT_MODE (R157): sets the working pendant mode to LOCAL, FORWARD or OFF. -/
def execPendantMode (tag : Byte) (mode : Option PendantMode) (s : State) : Host.Outcome State Fault Refusal :=
  request (.pendantMode tag mode) s

/-- PENDANT_STATUS (R160): returns the pendant mode, the key levels, the waiting key set and the last local result. -/
def execPendantStatus (tag : Byte) (s : State) : Host.Outcome State Fault Refusal :=
  request (.pendantStatus tag) s

/-- PENDANT_INPUT_CHANGE (R156): A pendant input reading differs from its stable level and becomes the candidate, or a
reading equal to it drops the candidate. -/
def execPendantInputChange (key : Key) (pressed : Bool) (s : State) : Host.Outcome State Fault Refusal :=
  .next (s.pinEvent (fun s1 => { s1 with pins := { s1.pins with keys := s1.pins.keys.set key pressed } })
    (State.inputChange key pressed))

/-- KEY_PRESS (R156): A candidate level holds for 20 ms and becomes stable; a press acts by the pendant mode. -/
def execKeyPress (key : Key) (s : State) : Host.Outcome State Fault Refusal :=
  timer (State.keyDue? key) (State.keyStable key) s

end Sys2Proof.Machine
end

