-- ==== Sys2Proof/Machine/TurnCommands.lean ====
section
/-! DEFINITION. The meanings of the commands of one family: turning, the platen and the guard. A request command is its good frame arriving at the
receive queue; what the request does stands in the decision that Link.lean's `decisionOf` names for it. -/

namespace Sys2Proof.Machine

/-- TURN (R24): tests a turn of 1 to 16 leaves and begins it, ending a lit preview and making the first foldout check. -/
def execTurn (tag : Byte) (n : Int) (clampAfter : Option Bool) (s : State) : Host.Outcome State Fault Refusal :=
  request (.turn tag n clampAfter) s

/-- CLAMP (R35): tests the request and lowers the platen toward the class force target. -/
def execClamp (tag : Byte) (s : State) : Host.Outcome State Fault Refusal :=
  request (.clamp tag) s

/-- UNCLAMP (R36): tests the request and raises the platen to its UP switch. -/
def execUnclamp (tag : Byte) (s : State) : Host.Outcome State Fault Refusal :=
  request (.unclamp tag) s

/-- HALT (R42): marks a turn or platen move to stop at its next safe point, and pauses an active run. -/
def execHalt (tag : Byte) (s : State) : Host.Outcome State Fault Refusal :=
  request (.halt tag) s

/-- RESUME (R44): continues a halted turn or lowering, or is passed to the Run Controller when a run is PAUSED. -/
def execResume (tag : Byte) (s : State) : Host.Outcome State Fault Refusal :=
  request (.resume tag) s

/-- DECLARE_PENDING (R46): puts TC in SEEK, dropping halted work and cutting a lit preview. -/
def execDeclarePending (tag : Byte) (s : State) : Host.Outcome State Fault Refusal :=
  request (.declarePending tag) s

/-- DECLARE (R47): sets the current opening j and leaves SEEK, HALTED or ATTENTION for UNCLAMPED. -/
def execDeclare (tag : Byte) (j : Nat) (s : State) : Host.Outcome State Fault Refusal :=
  request (.declare tag j) s

/-- RECOVER (R51): resolves a SAFE-STOP by its origin, or re-homes from ATTENTION, once the guard is closed. -/
def execRecover (tag : Byte) (s : State) : Host.Outcome State Fault Refusal :=
  request (.recover tag) s

/-- TURN_STATUS (R54): returns the TC state, j, the operation record, the mechanism readings, dwell and the counters. -/
def execTurnStatus (tag : Byte) (s : State) : Host.Outcome State Fault Refusal :=
  request (.turnStatus tag) s

/-- GUARD_OPEN (R50): the guard opens; all motion stops, banks go dark, an OPEN ticket is cut, and TC enters SAFE-STOP. -/
def execGuardOpen (s : State) : Host.Outcome State Fault Refusal :=
  .next (s.pinEvent (fun s1 => { s1 with pins := { s1.pins with guardOpen := true } }) State.guardOpened)

/-- GUARD_CLOSE (R191): the guard closes; during the start-up guard wait the sequence goes on to homing, and otherwise
nothing changes. -/
def execGuardClose (s : State) : Host.Outcome State Fault Refusal :=
  .next (s.pinEvent (fun s1 => { s1 with pins := { s1.pins with guardOpen := false } }) State.guardClosed)

/-- LEAF_SENSOR_REPORT (R27): the leaf sensor reports 0, 1 or 2+ leaves at the end of a lift attempt, deciding carry,
retry or exhaustion. -/
def execLeafSensorReport (r : LeafReport) (s : State) : Host.Outcome State Fault Refusal :=
  .next (s.pinEvent (fun s1 => { s1 with pins := { s1.pins with leafSensor := r } }) (State.leafReport r))

/-- END_OF_SWEEP (R30): the carry ends at the end-of-sweep switch; j changes, the counts move, and TC enters RELEASING. -/
def execEndOfSweep (s : State) : Host.Outcome State Fault Refusal :=
  .next (s.event State.endCarry)

/-- RELEASE_HEAD_UP (R31): the head is up after releasing the leaf, and TC enters RETURNING. -/
def execReleaseHeadUp (s : State) : Host.Outcome State Fault Refusal :=
  .next (s.event State.headUp)

/-- ARM_PARK_MADE (R31): the arm park switch is made; a return, a homing or a safe point ends, and the next leaf or the
turn's end follows. -/
def execArmParkMade (s : State) : Host.Outcome State Fault Refusal :=
  .next (s.pinEvent (fun s1 => { s1 with pins := { s1.pins with armPark := true } }) State.parkMade)

/-- PLATEN_UP_MADE (R36): the platen UP switch is made, ending a raise for UNCLAMP, a turn start, a dwell or fault
raise, a dismount or homing. -/
def execPlatenUpMade (s : State) : Host.Outcome State Fault Refusal :=
  .next (s.pinEvent (fun s1 => { s1 with pins := { s1.pins with platenUp := true } }) State.upMade)

/-- FORCE_READING (R38): TC compares each platen force reading with the lowering threshold and the overforce limit. -/
def execForceReading (counts : Nat) (s : State) : Host.Outcome State Fault Refusal :=
  .next (s.event (State.forceRead counts))

/-- STROKE_TIMEOUT (R39): A motion phase reaches its limit; the fault is recorded, the operation ends FAULT, and TC
enters ATTENTION. -/
def execStrokeTimeout (s : State) : Host.Outcome State Fault Refusal :=
  timer State.phaseDue? State.phaseTimeout s

/-- HOME_FAIL (R53): A homing phase reaches its 3000 ms limit; HOME-FAIL is recorded, and TC enters ATTENTION. -/
def execHomeFail (s : State) : Host.Outcome State Fault Refusal :=
  timer State.homeDueUs? State.homeLimit s

/-- DWELL_EXPIRY (R41): the dwell timer reaches the class limit; the platen is raised now, or deferred to the OPEN
ticket's close. -/
def execDwellExpiry (s : State) : Host.Outcome State Fault Refusal :=
  timer State.dwellDueUs? State.dwellExpired s

end Sys2Proof.Machine
end

