-- ==== Sys2Proof/Machine/VolumeCommands.lean ====
section
/-! DEFINITION. The meanings of the commands of one family: marks, classes and volumes. A request command is its good frame arriving at the
receive queue; what the request does stands in the decision that Link.lean's `decisionOf` names for it. -/

namespace Sys2Proof.Machine

/-- PATTERN_WRITE (R4): normalises, checks and writes one pattern table entry, unless the lock is engaged. -/
def execPatternWrite (tag : Byte) (fields : PatternFields) (s : State) : Host.Outcome State Fault Refusal :=
  request (.patternWrite tag fields) s

/-- PATTERN_READ (R5): returns one pattern table entry. -/
def execPatternRead (tag : Byte) (position : Nat) (s : State) : Host.Outcome State Fault Refusal :=
  request (.patternRead tag position) s

/-- CLASSIFY (R6): normalises a shelf mark and reports its class and matched position. -/
def execClassify (tag : Byte) (raw : Text) (s : State) : Host.Outcome State Fault Refusal :=
  request (.classify tag raw) s

/-- CLASS_WRITE (R8): writes one handling-class record, clamping its numeric fields, unless the lock is engaged. -/
def execClassWrite (tag : Byte) (cls : Nat) (fields : ClassFields) (s : State) : Host.Outcome State Fault Refusal :=
  request (.classWrite tag cls fields) s

/-- CLASS_READ (R9): returns one record of the class table. -/
def execClassRead (tag : Byte) (cls : Nat) (s : State) : Host.Outcome State Fault Refusal :=
  request (.classRead tag cls) s

/-- MOUNT (R11): tests and accepts a volume, fixes its class, numbers the mount and builds its opening table. -/
def execMount (tag : Byte) (fields : MountFields) (s : State) : Host.Outcome State Fault Refusal :=
  request (.mount tag fields) s

/-- OPENING_READ (R19): returns up to 16 consecutive opening records. -/
def execOpeningRead (tag : Byte) (first : Nat) (count : Nat) (s : State) : Host.Outcome State Fault Refusal :=
  request (.openingRead tag first count) s

/-- VOLUME_READ (R20): returns the lock position, the mount counter and the mounted-volume record with its side counts. -/
def execVolumeRead (tag : Byte) (s : State) : Host.Outcome State Fault Refusal :=
  request (.volumeRead tag) s

/-- SIDE_SET (R161): sets a range of sides to PENDING, RETAKE, BLANK or ACCEPTED, superseding HELD sides set to RETAKE. -/
def execSideSet (tag : Byte) (first : Nat) (last : Nat) (state : Option SideState) (s : State) :
    Host.Outcome State Fault Refusal :=
  request (.sideSet tag first last state) s

/-- DISMOUNT (R162): tests and accepts a dismount, raising the platen first if it is down. -/
def execDismount (tag : Byte) (force : Option Bool) (s : State) : Host.Outcome State Fault Refusal :=
  request (.dismount tag force) s

/-- TALLY_READ (R168): returns the tally of the last dismount, or NONE. -/
def execTallyRead (tag : Byte) (s : State) : Host.Outcome State Fault Refusal :=
  request (.tallyRead tag) s

end Sys2Proof.Machine
end

