-- ==== Sys2Proof/Machine/Dispatch.lean ====
section
/-! DEFINITION. One arm for each command: a call of its meaning. -/

namespace Sys2Proof.Machine

def exec (i : Instr) (s : State) : Host.Outcome State Fault Refusal :=
  match i with
  | .coldStart restoreStrap rateStrap => Sys2Proof.Machine.execColdStart restoreStrap rateStrap s
  | .warmReset => Sys2Proof.Machine.execWarmReset s
  | .powerFail => Sys2Proof.Machine.execPowerFail s
  | .lockSwitchChange engaged => Sys2Proof.Machine.execLockSwitchChange engaged s
  | .frameReceived bytes => Sys2Proof.Machine.execFrameReceived bytes s
  | .rxTimeout => Sys2Proof.Machine.execRxTimeout s
  | .unknownRequest tag kind => Sys2Proof.Machine.execUnknownRequest tag kind s
  | .transmitFrameEnd => Sys2Proof.Machine.execTransmitFrameEnd s
  | .identify tag => Sys2Proof.Machine.execIdentify tag s
  | .clockRead tag => Sys2Proof.Machine.execClockRead tag s
  | .reset tag => Sys2Proof.Machine.execReset tag s
  | .noticeMask tag mask => Sys2Proof.Machine.execNoticeMask tag mask s
  | .linkStatus tag => Sys2Proof.Machine.execLinkStatus tag s
  | .settingsWrite tag change => Sys2Proof.Machine.execSettingsWrite tag change s
  | .settingsRead tag item => Sys2Proof.Machine.execSettingsRead tag item s
  | .store tag => Sys2Proof.Machine.execStore tag s
  | .storeComplete => Sys2Proof.Machine.execStoreComplete s
  | .patternWrite tag fields => Sys2Proof.Machine.execPatternWrite tag fields s
  | .patternRead tag position => Sys2Proof.Machine.execPatternRead tag position s
  | .classify tag raw => Sys2Proof.Machine.execClassify tag raw s
  | .classWrite tag cls fields => Sys2Proof.Machine.execClassWrite tag cls fields s
  | .classRead tag cls => Sys2Proof.Machine.execClassRead tag cls s
  | .mount tag fields => Sys2Proof.Machine.execMount tag fields s
  | .openingRead tag first count => Sys2Proof.Machine.execOpeningRead tag first count s
  | .volumeRead tag => Sys2Proof.Machine.execVolumeRead tag s
  | .sideSet tag first last state => Sys2Proof.Machine.execSideSet tag first last state s
  | .dismount tag force => Sys2Proof.Machine.execDismount tag force s
  | .tallyRead tag => Sys2Proof.Machine.execTallyRead tag s
  | .turn tag n clampAfter => Sys2Proof.Machine.execTurn tag n clampAfter s
  | .clamp tag => Sys2Proof.Machine.execClamp tag s
  | .unclamp tag => Sys2Proof.Machine.execUnclamp tag s
  | .halt tag => Sys2Proof.Machine.execHalt tag s
  | .resume tag => Sys2Proof.Machine.execResume tag s
  | .declarePending tag => Sys2Proof.Machine.execDeclarePending tag s
  | .declare tag j => Sys2Proof.Machine.execDeclare tag j s
  | .recover tag => Sys2Proof.Machine.execRecover tag s
  | .turnStatus tag => Sys2Proof.Machine.execTurnStatus tag s
  | .guardOpen => Sys2Proof.Machine.execGuardOpen s
  | .guardClose => Sys2Proof.Machine.execGuardClose s
  | .leafSensorReport r => Sys2Proof.Machine.execLeafSensorReport r s
  | .endOfSweep => Sys2Proof.Machine.execEndOfSweep s
  | .releaseHeadUp => Sys2Proof.Machine.execReleaseHeadUp s
  | .armParkMade => Sys2Proof.Machine.execArmParkMade s
  | .platenUpMade => Sys2Proof.Machine.execPlatenUpMade s
  | .forceReading counts => Sys2Proof.Machine.execForceReading counts s
  | .strokeTimeout => Sys2Proof.Machine.execStrokeTimeout s
  | .homeFail => Sys2Proof.Machine.execHomeFail s
  | .dwellExpiry => Sys2Proof.Machine.execDwellExpiry s
  | .preview tag profile duration => Sys2Proof.Machine.execPreview tag profile duration s
  | .previewOff tag => Sys2Proof.Machine.execPreviewOff tag s
  | .profileLevel tag profile bank action => Sys2Proof.Machine.execProfileLevel tag profile bank action s
  | .lampClear tag target => Sys2Proof.Machine.execLampClear tag target s
  | .lampStatus tag => Sys2Proof.Machine.execLampStatus tag s
  | .bankCurrentFault bank report => Sys2Proof.Machine.execBankCurrentFault bank report s
  | .regulationComparison => Sys2Proof.Machine.execRegulationComparison s
  | .previewExpiry => Sys2Proof.Machine.execPreviewExpiry s
  | .doseStatus tag => Sys2Proof.Machine.execDoseStatus tag s
  | .dayMark tag length => Sys2Proof.Machine.execDayMark tag length s
  | .carryRead tag index => Sys2Proof.Machine.execCarryRead tag index s
  | .carryDrop tag raw => Sys2Proof.Machine.execCarryDrop tag raw s
  | .sensorReading raw => Sys2Proof.Machine.execSensorReading raw s
  | .sensorSaturated => Sys2Proof.Machine.execSensorSaturated s
  | .sensorDark => Sys2Proof.Machine.execSensorDark s
  | .ambientAccrual => Sys2Proof.Machine.execAmbientAccrual s
  | .rollover => Sys2Proof.Machine.execRollover s
  | .profileWrite tag index fields => Sys2Proof.Machine.execProfileWrite tag index fields s
  | .profileRead tag index => Sys2Proof.Machine.execProfileRead tag index s
  | .capture tag profile sides => Sys2Proof.Machine.execCapture tag profile sides s
  | .captureStatus tag => Sys2Proof.Machine.execCaptureStatus tag s
  | .syncDetect tag => Sys2Proof.Machine.execSyncDetect tag s
  | .syncSelect tag source => Sys2Proof.Machine.execSyncSelect tag source s
  | .syncStatus tag => Sys2Proof.Machine.execSyncStatus tag s
  | .settleEnd => Sys2Proof.Machine.execSettleEnd s
  | .externalSyncEdge after => Sys2Proof.Machine.execExternalSyncEdge after s
  | .internalSyncEdge => Sys2Proof.Machine.execInternalSyncEdge s
  | .syncLoss => Sys2Proof.Machine.execSyncLoss s
  | .syncWatchEnd => Sys2Proof.Machine.execSyncWatchEnd s
  | .cameraExposing cam level ready => Sys2Proof.Machine.execCameraExposing cam level ready s
  | .exposureElapsed => Sys2Proof.Machine.execExposureElapsed s
  | .exposingTimeout cam => Sys2Proof.Machine.execExposingTimeout cam s
  | .cameraStored cam ready => Sys2Proof.Machine.execCameraStored cam ready s
  | .frameLimit => Sys2Proof.Machine.execFrameLimit s
  | .ticketRead tag ref => Sys2Proof.Machine.execTicketRead tag ref s
  | .ticketRelease tag count left right => Sys2Proof.Machine.execTicketRelease tag count left right s
  | .backlogSet tag threshold timeout => Sys2Proof.Machine.execBacklogSet tag threshold timeout s
  | .ringStatus tag => Sys2Proof.Machine.execRingStatus tag s
  | .backlogAge => Sys2Proof.Machine.execBacklogAge s
  | .runStart tag last profile mode => Sys2Proof.Machine.execRunStart tag last profile mode s
  | .runEnd tag => Sys2Proof.Machine.execRunEnd tag s
  | .runStatus tag => Sys2Proof.Machine.execRunStatus tag s
  | .pendantMode tag mode => Sys2Proof.Machine.execPendantMode tag mode s
  | .pendantStatus tag => Sys2Proof.Machine.execPendantStatus tag s
  | .pendantInputChange key pressed => Sys2Proof.Machine.execPendantInputChange key pressed s
  | .keyPress key => Sys2Proof.Machine.execKeyPress key s
  | .faultRead tag bank => Sys2Proof.Machine.execFaultRead tag bank s
  | .faultClear tag bank => Sys2Proof.Machine.execFaultClear tag bank s
  | .faultMask tag bank mask => Sys2Proof.Machine.execFaultMask tag bank mask s
  | .thresholdSet tag bank threshold => Sys2Proof.Machine.execThresholdSet tag bank threshold s
  | .thresholdClear tag bank => Sys2Proof.Machine.execThresholdClear tag bank s

end Sys2Proof.Machine
end

