-- ==== Sys2Proof/Machine/Timers.lean ====
section
/-! DEFINITION. The passing of time on an empty queue: which timer of the part ends next, and the clock's next millisecond
(log entry 2). -/

namespace Sys2Proof.Machine

/-- The last millisecond of the 48-bit elapsed clock (04 R89). -/
def clockLast : Nat := 281474976710655

/-- A timer with its command, where it runs. -/
def dueCommand (due : Option Nat) (i : Instr) : Option (Nat × Instr) :=
  due.map fun t => (t, i)

/-- The instant at which a write of the store has taken its 400 ms (11 R194). -/
def State.storeDue? (s : State) : Option Nat :=
  s.ss.writing.map fun w => w.2 + storeUs

/-- The instant of the sensor's next reading: the present one while this millisecond's has not been made, else the next
millisecond; none before the end of start-up (04 R75). -/
def State.readingDue? (s : State) : Option Nat :=
  if s.starting then none
  else some (if s.di.lastRead = some s.clock then atMs (s.clock + 1) else s.now)

/-- The ambient test of a whole second whose reading has been made (04 R81). -/
def State.ambientDue? (s : State) : Option Nat :=
  if s.clock % 1000 = 0 ∧ s.di.lastAmbient ≠ some (s.clock / 1000) ∧ s.di.lastRead = some s.clock then some s.now
  else none

/-- The running timers with their commands, in the order in which those of one instant act. A comparison comes after every
timer that can put the lamps out (03 R61). Log entry 2. -/
def State.timers (s : State) : List (Nat × Instr) :=
  List.reduceOption
    [dueCommand s.readingDue? (.sensorReading s.pins.sensorRaw),
     dueCommand s.ambientDue? .ambientAccrual,
     dueCommand s.settleDue? .settleEnd,
     dueCommand s.edgeDue? .internalSyncEdge,
     dueCommand s.lossDue? .syncLoss,
     dueCommand s.watchDue? .syncWatchEnd,
     dueCommand s.elapsedDue? .exposureElapsed,
     dueCommand (s.camDue? .a) (.exposingTimeout .a),
     dueCommand (s.camDue? .b) (.exposingTimeout .b),
     dueCommand s.limitDue? .frameLimit,
     dueCommand s.previewDue? .previewExpiry,
     dueCommand s.phaseDue? .strokeTimeout,
     dueCommand s.homeDueUs? .homeFail,
     dueCommand s.dwellDueUs? .dwellExpiry,
     dueCommand s.backlogDue? .backlogAge,
     dueCommand (s.keyDue? .halt) (.keyPress .halt),
     dueCommand (s.keyDue? .confirm) (.keyPress .confirm),
     dueCommand (s.keyDue? .retake) (.keyPress .retake),
     dueCommand (s.keyDue? .lamp) (.keyPress .lamp),
     dueCommand (s.keyDue? .mark) (.keyPress .mark),
     dueCommand (s.keyDue? .pedal) (.keyPress .pedal),
     dueCommand s.rxDue? .rxTimeout,
     dueCommand s.storeDue? .storeComplete,
     dueCommand s.alarmDue? .rollover,
     dueCommand s.compareDueUs? .regulationComparison]

/-- The earlier of two timers; of two that end together the one that stands first. -/
def earlier (a b : Nat × Instr) : Nat × Instr :=
  if b.1 < a.1 then b else a

/-- The timer that ends first. -/
def State.nextTimer? (s : State) : Option (Nat × Instr) :=
  match s.timers with
  | [] => none
  | t :: rest => some (rest.foldl earlier t)

/-- Time passes: the clock goes on to the instant of a timer that ends by the next whole millisecond, and the timer's
command joins the queue; else the clock goes on to that millisecond. A part with no supply keeps no time; the clock ends
at its last millisecond (log entry 29). -/
def State.idle (s : State) : Host.Outcome State Fault Refusal :=
  if s.powered = false then .next s
  else if clockLast ≤ s.clock then .fault .clockEnd
  else
    let next := atMs (s.clock + 1)
    match s.nextTimer? with
    | some (t, i) => if t ≤ next then .next { s.goTo t with pending := [i] } else .next (s.goTo next)
    | none => .next (s.goTo next)

end Sys2Proof.Machine
end

