-- ==== Sys2Proof/WellFormed.lean ====
section
/-! DEFINITION. Well-formed commands: every field holds a value that its pin, its sensor or its place in a request's BODY
can carry. A value that a request's own rule refuses is well-formed all the same. -/

namespace Sys2Proof

/-- A number that fits in `n` bytes (12, "Numbers of more than one byte"). -/
def fits (n v : Nat) : Bool :=
  decide (v < 256 ^ n)

/-- The fields of PATTERN WRITE fit their places, and the pattern is 0 to 40 bytes long (12 Table 12-13). -/
def PatternFields.wf (f : PatternFields) : Bool :=
  fits 1 f.position && fits 1 f.cls && decide (f.pattern.length ≤ 40)

/-- The fields of a class record fit their places (12 Table 12-12). -/
def ClassFields.wf (f : ClassFields) : Bool :=
  fits 4 f.dayBudget && fits 4 f.openingLimit && fits 1 f.retryLimit && fits 1 f.airStart
    && fits 2 f.forceTarget && fits 2 f.dwellLimit

/-- The fields of a capture profile fit their places (12 Table 12-11). -/
def ProfileFields.wf (f : ProfileFields) : Bool :=
  fits 1 f.enable && fits 1 f.levelLa && fits 1 f.levelLb && fits 1 f.levelRa && fits 1 f.levelRb
    && fits 2 f.target && fits 2 f.interval && fits 1 f.settle && fits 2 f.exposure

/-- The override byte: 0xFF is none (12 Table 12-5). -/
def ClassOverride.wf : ClassOverride → Bool
  | .absent => true
  | .cls c => decide (c < 255)

/-- The fields of MOUNT fit their places and counts (12 Table 12-5). -/
def MountFields.wf (f : MountFields) : Bool :=
  decide (1 ≤ f.raw.length) && decide (f.raw.length ≤ 40) && fits 2 f.n && fits 2 f.j0 && f.override.wf
    && decide (f.foldouts.length ≤ 32) && f.foldouts.all (fits 2)
    && decide (f.blanks.length ≤ 16) && f.blanks.all fun r => fits 2 r.1 && fits 2 r.2

/-- A command is well-formed: straps and readings lie in their ranges (04 R75, 02 R38, 10 R182), an unknown request's KIND
names no request of the part (10 R185), and the fields of a request whose layout chapter 12 gives fit it. -/
def Instr.wf : Instr → Bool
  | .coldStart _ rateStrap => decide (rateStrap < 4)
  | .unknownRequest _ kind => !knownKind kind
  | .noticeMask _ mask => fits 2 mask
  | .patternWrite _ f => f.wf
  | .classWrite _ cls f => fits 1 cls && f.wf
  | .mount _ f => f.wf
  | .profileWrite _ index f => fits 1 index && f.wf
  | .faultMask _ _ mask => fits 1 mask
  | .sensorReading raw => decide (raw < 4096)
  | .forceReading counts => decide (counts < 4096)
  | .warmReset | .powerFail | .lockSwitchChange _ | .frameReceived _ | .rxTimeout | .transmitFrameEnd
  | .identify _ | .clockRead _ | .reset _ | .linkStatus _ | .settingsWrite _ _ | .settingsRead _ _ | .store _
  | .storeComplete | .patternRead _ _ | .classify _ _ | .classRead _ _ | .openingRead _ _ _ | .volumeRead _
  | .sideSet _ _ _ _ | .dismount _ _ | .tallyRead _ | .turn _ _ _ | .clamp _ | .unclamp _ | .halt _ | .resume _
  | .declarePending _ | .declare _ _ | .recover _ | .turnStatus _ | .guardOpen | .guardClose
  | .leafSensorReport _ | .endOfSweep | .releaseHeadUp | .armParkMade | .platenUpMade | .strokeTimeout | .homeFail
  | .dwellExpiry | .preview _ _ _ | .previewOff _ | .profileLevel _ _ _ _ | .lampClear _ _ | .lampStatus _
  | .bankCurrentFault _ _ | .regulationComparison | .previewExpiry | .doseStatus _ | .dayMark _ _
  | .carryRead _ _ | .carryDrop _ _ | .sensorSaturated | .sensorDark | .ambientAccrual | .rollover
  | .profileRead _ _ | .capture _ _ _ | .captureStatus _ | .syncDetect _ | .syncSelect _ _ | .syncStatus _
  | .settleEnd | .externalSyncEdge _ | .internalSyncEdge | .syncLoss | .syncWatchEnd | .cameraExposing _ _ _
  | .exposureElapsed | .exposingTimeout _ | .cameraStored _ _ | .frameLimit | .ticketRead _ _
  | .ticketRelease _ _ _ _ | .backlogSet _ _ _ | .ringStatus _ | .backlogAge | .runStart _ _ _ _ | .runEnd _
  | .runStatus _ | .pendantMode _ _ | .pendantStatus _ | .pendantInputChange _ _ | .keyPress _ | .faultRead _ _
  | .faultClear _ _ | .thresholdSet _ _ _ | .thresholdClear _ _ => true

/-! ### The BODY of a well-formed request -/

/-- A byte for an enumerated field: the value's number in the order of its table, or 0xFF where it names none. -/
def enumByte {α : Type} (number : α → Nat) : Option α → Byte
  | some v => BitVec.ofNat 8 (number v)
  | none => 0xFF#8

/-- The numbers of the enumerated fields (12 Tables 12-4, 12-5, 12-11, 12-12). -/
def turningNumber : Turning → Nat
  | .auto => 0
  | .manualOnly => 1

def policyNumber : PlatenPolicy → Nat
  | .clamp => 0
  | .free => 1

def lampModeNumber : LampMode → Nat
  | .fixed => 0
  | .heldLux => 1

def selectionNumber : SideSelection → Nat
  | .auto => 0
  | .left => 1
  | .right => 2
  | .both => 3

def directionNumber : Direction → Nat
  | .ltr => 0
  | .rtl => 1

/-- The number of a fault bank in the order of its table (12 Table 12-4). -/
def faultBankNumber : FaultBank → Nat
  | .turn => 0
  | .lamp => 1
  | .capture => 2
  | .link => 3
  | .account => 4

/-- The bank byte of FAULT READ (12 Table 12-4): 0xFF is ALL, and 5 names no bank. -/
def bankRefByte : Option BankRef → Byte
  | some (.one b) => BitVec.ofNat 8 (faultBankNumber b)
  | some .all => 0xFF#8
  | none => 0x05#8

/-- The numbers of the sync sources (12 Table 12-4). -/
def syncSourceNumber : SyncSource → Nat
  | .external => 0
  | .internal => 1

/-- The override byte (12 Table 12-5). -/
def overrideByte : ClassOverride → Byte
  | .absent => 0xFF#8
  | .cls c => BitVec.ofNat 8 c

/-- A PATTERN WRITE body (12 Table 12-13). -/
def PatternFields.body (f : PatternFields) : List Byte :=
  [BitVec.ofNat 8 f.position, enumByte Bool.toNat f.enabled, BitVec.ofNat 8 f.cls,
   BitVec.ofNat 8 f.pattern.length] ++ f.pattern

/-- A class record (12 Table 12-12). -/
def ClassFields.body (f : ClassFields) : List Byte :=
  beBytes 4 f.dayBudget ++ beBytes 4 f.openingLimit
    ++ [enumByte Bool.toNat f.ambient,
        enumByte turningNumber f.turning,
        BitVec.ofNat 8 f.retryLimit, BitVec.ofNat 8 f.airStart,
        enumByte policyNumber f.policy]
    ++ beBytes 2 f.forceTarget ++ beBytes 2 f.dwellLimit

/-- A capture profile (12 Table 12-11). -/
def ProfileFields.body (f : ProfileFields) : List Byte :=
  [enumByte lampModeNumber f.mode,
   BitVec.ofNat 8 f.enable, BitVec.ofNat 8 f.levelLa, BitVec.ofNat 8 f.levelLb, BitVec.ofNat 8 f.levelRa,
   BitVec.ofNat 8 f.levelRb]
    ++ beBytes 2 f.target ++ beBytes 2 f.interval
    ++ [enumByte Bool.toNat f.hold, BitVec.ofNat 8 f.settle] ++ beBytes 2 f.exposure
    ++ [enumByte selectionNumber f.selection]

/-- A MOUNT body (12 Table 12-5). -/
def MountFields.body (f : MountFields) : List Byte :=
  BitVec.ofNat 8 f.raw.length :: f.raw ++ beBytes 2 f.n
    ++ [enumByte directionNumber f.direction]
    ++ beBytes 2 f.j0 ++ [overrideByte f.override, BitVec.ofNat 8 f.foldouts.length]
    ++ f.foldouts.flatMap (beBytes 2)
    ++ [BitVec.ofNat 8 f.blanks.length] ++ f.blanks.flatMap fun r => beBytes 2 r.1 ++ beBytes 2 r.2

/-- The BODY of a request whose layout chapter 12 gives (log entry 5); `none` for the others. -/
def Instr.body? : Instr → Option (List Byte)
  | .identify _ | .clockRead _ | .reset _ | .linkStatus _ | .store _ | .volumeRead _ | .tallyRead _ | .clamp _
  | .unclamp _ | .halt _ | .resume _ | .declarePending _ | .recover _ | .turnStatus _ | .previewOff _
  | .lampStatus _ | .doseStatus _ | .captureStatus _ | .syncDetect _ | .syncStatus _ | .ringStatus _ | .runEnd _
  | .runStatus _ | .pendantStatus _ => some []
  | .noticeMask _ mask => some (beBytes 2 mask)
  | .patternWrite _ f => some f.body
  | .classWrite _ cls f => some (BitVec.ofNat 8 cls :: f.body)
  | .mount _ f => some f.body
  | .profileWrite _ index f => some (BitVec.ofNat 8 index :: f.body)
  | .faultMask _ bank mask => some [enumByte faultBankNumber bank, BitVec.ofNat 8 mask]
  | .dismount _ force => some [enumByte Bool.toNat force]
  | .syncSelect _ source => some [enumByte syncSourceNumber source]
  | .faultRead _ bank => some [bankRefByte bank]
  | .faultClear _ bank => some [enumByte faultBankNumber bank]
  | .thresholdClear _ bank => some [enumByte faultBankNumber bank]
  | _ => none

end Sys2Proof
end

