-- ==== Sys2Proof/Safety.lean ====
section
/-! DEFINITION. The terms claims are made in: when an event brings nothing but its own effect and the next frame, when a
request is answered in the event of its frame, and what holds of every state a run passes through. -/

namespace Sys2Proof.Machine

/-! ### When an event brings no other event with it -/

/-- RC has been told nothing, and no step of a run waits for the cradle (07 R146, R148). -/
abbrev State.runQuiet (s : State) : Prop :=
  s.rc.heardEnd = none ∧ s.rc.heardClose = none ∧ ¬ (s.runActive = true ∧ s.rc.phase = .waiting)

/-- The part has its supply, no frame waits in the receive queue, and RC has nothing to take up. An event then brings its
own effect and the frame an idle transmitter begins, and nothing else. -/
abbrev State.quiet (s : State) : Prop :=
  s.powered = true ∧ s.lk.queue = [] ∧ s.runQuiet

/-- A request is taken in the event of its good frame (10 R184): quiet, no request in hand, an empty reply slot, and no
RESET taken. -/
abbrev State.takes (s : State) : Prop :=
  s.quiet ∧ s.lk.inHand = none ∧ s.lk.slot = none ∧ s.lk.resetTaken = false

/-- A request is taken in the event of its frame, and start-up has ended (10 R185). -/
abbrev State.serves (s : State) : Prop :=
  s.takes ∧ s.starting = false

/-- The reply to a request enters the slot, and an idle transmitter begins it at once (10 R184, R185, R189). -/
def State.answered (kind tag : Byte) (a : Answer) (s : State) : State :=
  (s.putReply (replyTo kind tag a)).kick

/-- Answered with a result alone. -/
def State.answeredWith (kind tag : Byte) (r : Result) (s : State) : State :=
  s.answered kind tag ⟨r, []⟩

/-- A timer that ends at instant `due` ends in the present millisecond: nothing happens on the way to it (log entry 3). -/
abbrev State.endsNow (due : Nat) (s : State) : Prop :=
  due / 1000 ≤ s.now / 1000

/-- The two states hold the same outside LK's part. -/
def sameOutsideLink (s t : State) : Prop :=
  t = { s with lk := t.lk }

/-- The opening entry with one side in another state: the half on which the side stands (01 R18). -/
def withSide (d : Direction) (side : Nat) (st : SideState) (o : Opening) : Opening :=
  if onLeft d side then { o with left := st } else { o with right := st }

/-! ### Presses of the pendant's keys -/

/-- An input whose candidate press, first seen at `since`, has held for 20 ms: the press is stable, the candidate gone, and
the clock at that instant (07 R156, log entry 3). -/
def State.debounced (k : Key) (since : Nat) (s : State) : State :=
  { s with
    now := max s.now (since + 20000)
    ps := { s.ps with inputs := s.ps.inputs.set k { stable := true, candidate := none } } }

/-- The last local result: the key, what it asked for, the result, and the time (07 R157). -/
def State.recorded (k : Key) (q : Option LocalRequest) (r : Option Result) (s : State) : State :=
  { s with ps := { s.ps with lastLocal := some { key := k, request := q, result := r, time := s.now / 1000 } } }

/-- A press of a key leaves `t` where its action leaves `u`: outside mode OFF the press joins the PENDANT notice, and nothing
else changes (07 R157, R159). -/
def pressLeaves (k : Key) (u t : State) : Prop :=
  t = { u with lk := t.lk }
  ∧ (u.set.pendantMode ≠ .off → u.set.noticeMask.getLsbD 11 = true → u.lk.sending.isSome = true →
      t.lk.pendingSet.getLsbD 11 = true ∧ k ∈ t.lk.gathered.keys)
  ∧ (u.set.pendantMode = .off → t = u.kick)

/-- A side state after the pendant's RETAKE (07 R158). -/
def retaken (st : SideState) : SideState :=
  if st = .held ∨ st = .accepted then .retake else st

/-- A covered half of a side of the current opening that is HELD (07 R158, 06 R130). -/
def State.halfRetaken (s : State) (h : Half) : Bool :=
  decide (h.side ≠ 0 ∧ (h.side = s.leftNow ∨ h.side = s.rightNow) ∧ s.sideState h.side = .held)

/-! ### The account of a volume (08) -/

/-- The states of sides 1 to 2N, each found at its own opening (01 R18). -/
def State.sideStates (v : Volume) (s : State) : List SideState :=
  (List.range (2 * v.n)).map fun i => s.sideState (i + 1)

/-- A side number is that of a gap side: PENDING or RETAKE (08 R167). -/
def gapAt (sides : List SideState) (side : Nat) : Prop :=
  side ≠ 0 ∧ (sides[side - 1]? = some .pending ∨ sides[side - 1]? = some .retake)

/-- Sides `a` to `b` are a gap run: a maximal sequence of consecutive side numbers that are all gap sides (08 R167). -/
def gapRun (sides : List SideState) (a b : Nat) : Prop :=
  a ≤ b ∧ (∀ side, a ≤ side → side ≤ b → gapAt sides side) ∧ ¬ gapAt sides (a - 1) ∧ ¬ gapAt sides (b + 1)

/-- The counts of the six live states (08 R166). -/
def countsOf (sides : List SideState) : SideCounts :=
  { pending := sides.count .pending, held := sides.count .held, accepted := sides.count .accepted
    retake := sides.count .retake, blank := sides.count .blank, foldout := sides.count .foldout }

/-- The gap fields of a tally: the runs in ascending order, 32 of them at most in the list, and the full counts (08 R166,
R167). -/
def Tally.gapsOf (sides : List SideState) (y : Tally) : Prop :=
  ∃ runs : List (Nat × Nat), (∀ a b, (a, b) ∈ runs ↔ gapRun sides a b) ∧ runs.Pairwise (fun p q => p.2 < q.1)
    ∧ y.gaps = runs.take 32 ∧ y.gapCount = runs.length ∧ y.truncated = decide (32 < runs.length)
    ∧ y.gapSides = sides.count .pending + sides.count .retake

/-- The sides of a volume after step 2 of its dismount: with force each HELD side is a RETAKE (08 R165). -/
def State.sidesAtClose (v : Volume) (cause : TallyCause) (s : State) : List SideState :=
  if cause = .dismount then s.sideStates v
  else (s.sideStates v).map fun st => if st = .held then .retake else st

/-- The tally of volume `v`, dismounted for `cause` from state `s`: the fields of 08 Table 8-2 (R165, R166, R167). -/
def Tally.closes (v : Volume) (cause : TallyCause) (s : State) (y : Tally) : Prop :=
  y.mark = v.mark ∧ y.mountNo = v.mountNo ∧ y.cls = v.cls ∧ y.source = v.source ∧ y.n = v.n ∧ y.direction = v.direction
  ∧ y.cause = cause ∧ y.time = s.now / 1000 ∧ y.dayDose = s.di.dayDose ∧ y.carriedIn = s.di.carriedIn
  ∧ y.turnsDone = s.tc.turnsDone ∧ y.missRetries = s.tc.missRetries ∧ y.doubleRetries = s.tc.doubleRetries
  ∧ y.doseSkips = s.rc.volumeSkips
  ∧ y.counts = countsOf (s.sidesAtClose v cause) ∧ y.gapsOf (s.sidesAtClose v cause)
  ∧ y.forcedRetakes = (if cause = .dismount then 0 else (s.sideStates v).count .held)

/-! ### A run's end (02 R45) -/

/-- The operation in hand has ended STOPPED in a state, and a TURN notice tells it (02 R33, R45). -/
def opStopped (o : Op) (st : TcState) (s t : State) : Prop :=
  t.tc.state = st ∧ t.tc.op = none ∧ t.tc.j = s.tc.j
  ∧ (s.set.noticeMask.getLsbD 3 = true → s.lk.sending.isSome = true →
      t.lk.pendingSet.getLsbD 3 = true
      ∧ (t.lk.gathered.turnEnd.map fun e => (e.kind, e.result, e.state)) = some (o.kind, .stopped, st))

/-! ### Homing and the end of start-up (02 R53, 11 R191) -/

/-- Start-up ends with a homing outcome: START is made pending, and carries the restore outcome, the selector's state, the
guard waits and that outcome (11 R191 step 6). The selector's state is the present one: log entry 58. -/
def startEnds (outcome : HomingOutcome) (s t : State) : Prop :=
  t.start = { s.start with phase := .done, homing := some outcome }
  ∧ (s.set.noticeMask.getLsbD 2 = true → s.lk.sending.isSome = true →
      t.lk.pendingSet.getLsbD 2 = true ∧ t.lk.gathered.start = some
        { restore := s.start.restoreOutcome, sync := t.cc.sync.state, guardWaits := s.start.guardWaits
          homing := outcome })

/-- The end of a homing is told: by the end of start-up at cold start, else by a TURN notice with its result, under the kind
that log entry 16 says (02 R53). -/
def homingTold (outcome : HomingOutcome) (result : OpResult) (s t : State) : Prop :=
  (s.start.phase ≠ .done → startEnds outcome s t)
  ∧ (s.start.phase = .done → t.start = s.start
    ∧ (s.set.noticeMask.getLsbD 3 = true → s.lk.sending.isSome = true →
        t.lk.pendingSet.getLsbD 3 = true ∧ t.lk.gathered.turnEnd = some
          { kind := if s.tc.homeByRecover then .recover else .homing, result := result, turned := 0, remaining := 0
            j := s.tc.j, state := t.tc.state }))

/-- A homing for a cause has ended well: TC is in UNCLAMPED, or in SEEK after RECOVER in ATTENTION while a volume is mounted,
j stands, and no operation is held (02 R53). -/
def homed (cause : HomeCause) (s t : State) : Prop :=
  t.tc.state = (if cause = .attention ∧ s.sau.volume.isSome = true then .seek else .unclamped)
  ∧ t.tc.op = none ∧ t.tc.attention = none ∧ t.tc.homePhase = none ∧ t.tc.j = s.tc.j
  ∧ homingTold .done .done s t

/-- The homing step of cold start from `s`: the vacuum and the air knife go off, the platen is driven up and then the arm to
park, and a switch already made ends its phase at once; with both made start-up ends (02 R53, 11 R191 steps 5 and 6). -/
def coldHoming (s t : State) : Prop :=
  t.tc.vacuum = false ∧ t.tc.knife = 0 ∧ t.tc.j = s.tc.j
  ∧ (s.pins.platenUp = false ∨ s.pins.armPark = false →
      t.tc.state = .homing ∧ t.tc.homePhase = some (if s.pins.platenUp then .arm else .platen)
      ∧ t.tc.phaseStart = t.now ∧ t.start = { s.start with phase := .homing })
  ∧ (s.pins.platenUp = true → s.pins.armPark = true →
      t.tc.state = .unclamped ∧ t.tc.op = none ∧ startEnds .done s t)

/-! ### Invariants -/

/-- The ring holds at most 32 tickets, the carry table at most 16 entries, the remainder at most 999 lx·ms, and the receive
queue at most 2 frames (06 R127, 04 R94, R79, 10 R184). -/
def State.bounded (s : State) : Prop :=
  s.cc.tickets.length ≤ 32 ∧ s.di.carry.length ≤ 16 ∧ s.di.remainder < 1000 ∧ s.lk.queue.length ≤ 2

/-- Serials that rise by one from the oldest ticket on, up to the next serial (06 R127, R128). -/
def serialsRise (next : Nat) : List Nat → Prop
  | [] => True
  | n :: rest => serialAfter n = rest.headD next ∧ serialsRise next rest

/-- A serial is a 32-bit count that is never 0 (06 R128). -/
def isSerial (n : Nat) : Prop :=
  1 ≤ n ∧ n ≤ 4294967295

/-- The ring's serials rise by one up to the next serial, an OPEN ticket is the newest, and the oldest position lies in 0 to
31 (06 R127, R128). -/
def Cc.ringSound (c : Cc) : Prop :=
  serialsRise c.nextSerial (c.tickets.map Ticket.serial) ∧ (∀ t ∈ c.tickets.dropLast, t.closed = true)
  ∧ isSerial c.nextSerial ∧ (∀ t ∈ c.tickets, isSerial t.serial) ∧ c.oldest < 32

/-- The opening table of a mounted volume has an entry for each opening, 0 to N (01 R15). -/
def Sau.tableSound (a : Sau) : Prop :=
  ∀ v, a.volume = some v → a.openings.length = v.n + 1

/-- A threshold lies in 1 to 4095. -/
def thresholdsOk (t : PerFaultBank Nat) : Prop :=
  ∀ b, 1 ≤ t.get b ∧ t.get b ≤ 4095

/-- The threshold counters hold what R176 says of them, under the working thresholds; the thresholds in the settings store
and in a copy on its way there lie in their range. -/
def State.countersHold (s : State) : Prop :=
  (∀ b, (s.fb.banks.get b).count ≤ 4095
    ∧ (s.fb.banks.get b).crossed = decide (s.set.thresholds.get b ≤ (s.fb.banks.get b).count))
  ∧ thresholdsOk s.set.thresholds ∧ thresholdsOk s.ss.copy.thresholds
  ∧ ∀ w, s.ss.writing = some w → thresholdsOk w.1.thresholds

/-- No bank is lit. -/
def State.dark (s : State) : Prop :=
  ∀ b, (s.lc.banks.get b).lit = false

/-- What keeps the lamps off: no supply, the guard open, SAFE-STOP, the sensor-dark block, or an EXHAUSTED volume (02 R50,
04 R77, R86). -/
abbrev State.lampsBlocked (s : State) : Prop :=
  s.powered = false ∨ s.pins.guardOpen = true ∨ s.tc.state = .safeStop ∨ s.di.sensorDark = true ∨ s.di.exhausted = true

/-- What the lamps rest on: the day dose of an EXHAUSTED volume stands at its budget or above (04 R85), a faulted bank is not
lit (03 R56, R65), and no day dose is above the highest dose (04 R82). -/
def State.doseSound (s : State) : Prop :=
  (s.di.exhausted = true → ∃ c, s.limits? = some c ∧ c.dayBudget ≤ s.di.dayDose)
  ∧ (∀ b, (s.lc.banks.get b).faulted = true → (s.lc.banks.get b).lit = false)
  ∧ s.di.dayDose ≤ 4294967295 ∧ ∀ e ∈ s.di.carry, e.dose ≤ 4294967295

/-- No bank is lit while something keeps the lamps off, and what that rests on holds. -/
def State.lampsSafe (s : State) : Prop :=
  (s.lampsBlocked → s.dark) ∧ s.doseSound

/-- A capture of the mounted volume has a window open: its ticket is OPEN, and CC is between the capture's admission and its
lamps-off (05 R117, R119). -/
def State.capturing (s : State) : Prop :=
  s.cc.state ≠ .idle ∧ s.cc.state ≠ .collect
  ∧ ∃ v t, s.sau.volume = some v ∧ s.openTicket? = some t ∧ t.ofMount v.mountNo = true

/-- While a bank is lit the cradle is settled, with a lit preview or a capture's window open (02 R22, 03 R56, R58); and until
the end of start-up TC is in HOMING, with no raise deferred (11 R191). -/
def State.lightSound (s : State) : Prop :=
  (∀ b, (s.lc.banks.get b).lit = true → s.settled = true ∧ (s.lc.preview.isSome = true ∨ s.capturing))
  ∧ (s.starting = true → s.tc.state = .homing ∧ s.tc.pendingOverforce = false ∧ s.tc.pendingDwell = false)

end Sys2Proof.Machine
end

