-- ==== Sys2Proof/Certificates/Slice0/Obligations.lean ====
section
/-! DEFINITION. The statements about the part, chapter by chapter. `takes` and `serves` (Safety.lean) say when a request is
answered in the event of its frame, `quiet` when an event brings nothing but its own effect and the next frame; `.kick`
is the transmitter's choice of that frame, which `TransmitterChoosesTheNextFrame` states in full, and `.answered` a reply
entering the slot before that choice. A reply's fields stand in the order the owning rule lists them (log entry 7).
`endsNow` says that a timer ends in the present millisecond; its command then carries the clock to the timer's end (log
entry 3). A clause named with a log entry is the model's choice. -/

open Sys2Proof Sys2Proof.Machine

/-! ### The whole machine -/

/-- A step takes the command at the front of the queue and runs it on the part with the queue's rest. -/
def Obligations.StepRunsTheFrontCommand : Prop :=
  ∀ (c : Instr) (rest : List Instr) (s : State),
    step { s with pending := c :: rest } = exec c { s with pending := rest }

/-- On an empty queue time passes: without supply nothing changes; the clock goes on to the instant of the timer that ends
first, the earlier in the list of two that end together, if that is not after the next whole millisecond, and that timer's
command is queued; else the clock goes on to that millisecond. From the end of start-up on the sensor's reading of each
millisecond is such a timer (R75). The model's choice: log entry 2. -/
def Obligations.EmptyQueueLetsTimePass : Prop :=
  ∀ s : State, s.pending = [] →
    (s.powered = false → step s = .next s)
    ∧ (s.starting = false →
        (if s.di.lastRead = some (s.now / 1000) then (s.now / 1000 + 1) * 1000 else s.now,
          Instr.sensorReading s.pins.sensorRaw) ∈ s.timers)
    ∧ (s.powered = true → s.clock < clockLast →
        (∀ t c before after, s.timers = before ++ (t, c) :: after → t ≤ (s.clock + 1) * 1000 →
          (∀ p ∈ before, t < p.1) → (∀ p ∈ after, t ≤ p.1) →
          step s = .next { s with now := max s.now t, pending := [c] })
        ∧ ((∀ p ∈ s.timers, (s.clock + 1) * 1000 < p.1) →
          step s = .next { s with now := max s.now ((s.clock + 1) * 1000) }))

/-- No command stops the part: each has a next state, from every state. That an event which cannot happen in a state, and one
in a part with no supply, is a next state too is the model's choice: log entries 4 and 29. -/
def Obligations.EveryCommandAnswersNext : Prop :=
  ∀ (c : Instr) (s : State), ∃ t, exec c s = .next t

/-- The ring, the carry table and the receive queue never hold more than 32 tickets, 16 entries and 2 frames, and the
remainder stays below 1000 lx·ms (R127, R94, R184, R79); the serials in the ring rise by one from the oldest ticket to the
next serial, 4,294,967,295 going to 1, and an OPEN ticket is the newest (R127, R128); the opening table of a mounted volume
has N + 1 entries (R15): every step keeps each of these. -/
def Obligations.StepsKeepTheBounds : Prop :=
  ∀ s t : State, step s = .next t →
    (s.bounded → t.bounded) ∧ (s.cc.ringSound → t.cc.ringSound) ∧ (s.sau.tableSound → t.sau.tableSound)

/-- A threshold count never exceeds 4095 and its crossed flag is set exactly where the count is at or above the threshold
(R176): every step keeps that, under every change of the thresholds. -/
def Obligations.StepsKeepTheCounters : Prop :=
  ∀ s t : State, s.countersHold → step s = .next t → t.countersHold

/-- No bank is lit without supply, with the guard open, in SAFE-STOP, under the sensor-dark block or on an EXHAUSTED volume,
and no faulted bank is lit (R50, R56, R65, R77, R86); an EXHAUSTED volume's day dose stands at its budget or above, and no
day dose is above 4,294,967,295 (R85, R82): every step keeps that. Under it every step keeps this too: while a bank is lit
the cradle is settled, and either a preview is LIT or a capture of the mounted volume has its window open (R22, R56, R58);
and until start-up has ended TC is in HOMING (R191; from the first step on: log entry 20). -/
def Obligations.StepsKeepTheLampsSafe : Prop :=
  ∀ s t : State, s.lampsSafe → step s = .next t → t.lampsSafe ∧ (s.lightSound → t.lightSound)

/-- The state after reset meets the invariants. What reset leaves: the clock at 0 and detection begun (R191), factory
settings, no volume and no tally (R21, R168), TC's counters at 0 (R34), every bank healthy and dark with the learned levels
those of the profiles (R74), DI clear with its day begun at 0 (R101), CC idle with an empty ring and the next serial 1
(R126, R128), no run (R155), the fault banks clear (R180), and LK empty (R190). That the factory settings are loaded is log
entry 8. -/
def Obligations.ResetLeavesTheColdStartState : Prop :=
  (State.reset.bounded ∧ State.reset.cc.ringSound ∧ State.reset.sau.tableSound ∧ State.reset.countersHold
    ∧ State.reset.lampsSafe ∧ State.reset.lightSound)
  ∧ (State.reset.now = 0 ∧ State.reset.start.phase = .detecting ∧ State.reset.cc.sync.state = .detecting
    ∧ State.reset.set = Settings.factory
    ∧ State.reset.sau.mountCounter = 0 ∧ State.reset.sau.volume = none ∧ State.reset.sau.tally = none
    ∧ State.reset.tc.turnsDone = 0 ∧ State.reset.tc.missRetries = 0 ∧ State.reset.tc.doubleRetries = 0
    ∧ (∀ b, (State.reset.lc.banks.get b).faulted = false ∧ (State.reset.lc.banks.get b).lit = false
        ∧ (State.reset.lc.banks.get b).level = 0 ∧ (State.reset.lc.banks.get b).kind = none)
    ∧ State.reset.lc.learned = State.reset.set.profiles.map Profile.levels ∧ State.reset.lc.lastEnd = none
    ∧ State.reset.di.remainder = 0 ∧ State.reset.di.dayDose = 0 ∧ State.reset.di.exhausted = false
    ∧ State.reset.di.sensorDark = false ∧ State.reset.di.dayStart = 0 ∧ State.reset.di.alarm = 24 * 3600000
    ∧ State.reset.di.carry = []
    ∧ State.reset.cc.state = .idle ∧ State.reset.cc.tickets = [] ∧ State.reset.cc.nextSerial = 1
    ∧ State.reset.rc.state = .idle ∧ State.reset.ps.lastLocal = none
    ∧ (∀ b, State.reset.fb.banks.get b = { record := none, count := 0, crossed := false })
    ∧ State.reset.lk.queue = [] ∧ State.reset.lk.inHand = none ∧ State.reset.lk.slot = none
    ∧ State.reset.lk.pendingSet = 0 ∧ State.reset.pending = [])

/-! ### Frames (10, 12) -/

/-- A well-formed request whose layout is known, sent as the frame of its KIND, TAG and BODY, is taken as that very request:
the receiver collects the frame, its CRC checks, and the BODY is read back field by field; FRAME_RECEIVED and the request's
own command have one next state (R181, R182, R183, R195). The layouts are chapter 12's, and of log entry 5 for the BODY of
one field that chapter 12 codes. -/
def Obligations.FramesCarryTheirRequests : Prop :=
  ∀ (i : Instr) (kind tag : Byte) (body : List Byte) (s : State),
    i.wf = true → i.body? = some body → i.kind? = some kind → i.tag? = some tag → s.lk.receiver = .hunting →
    ∃ t, exec (.frameReceived (frameBytes kind tag body)) s = .next t ∧ exec i s = .next t

/-- A frame whose CRC bytes are not those of its bytes is dropped, and BAD-CRC is reported with its KIND; a LEN of 251 or
more is reported as BAD-LENGTH; a gap of more than 20 ms inside a frame as RX-TIMEOUT with the count of its bytes. The
receiver is then HUNTING (R183). The count includes SYNC: log entry 23; the timer's clock: log entry 3. While a request is
in hand, or after a RESET, a further good frame joins the queue at the newest end where fewer than 2 wait, and is else
dropped with OVERRUN and its KIND (R184). -/
def Obligations.FramesAreDroppedAndQueued : Prop :=
  (∀ s : State, s.quiet →
      (∀ (kind tag c1 c0 : Byte) (body : List Byte), s.lk.receiver = .hunting → body.length ≤ 250 →
        [c1, c0] ≠ [(crc16 (BitVec.ofNat 8 body.length :: kind :: tag :: body)).extractLsb' 8 8,
                    (crc16 (BitVec.ofNat 8 body.length :: kind :: tag :: body)).extractLsb' 0 8] →
        exec (.frameReceived (0xC3#8 :: BitVec.ofNat 8 body.length :: kind :: tag :: (body ++ [c1, c0]))) s
          = .next (s.report .badCrc [kind.toNat]).kick)
      ∧ (∀ b : Byte, s.lk.receiver = .hunting → 250 < b.toNat →
          exec (.frameReceived [0xC3#8, b]) s = .next (s.report .badLength [b.toNat]).kick)
      ∧ (∀ (bytes : List Byte) (last : Nat), s.lk.receiver = .inFrame bytes last → s.endsNow (last + 20001) →
          exec .rxTimeout s
            = .next (State.report .rxTimeout [bytes.length]
                { s with now := max s.now (last + 20001), lk := { s.lk with receiver := .hunting } }).kick))
  ∧ (∀ (i : Instr) (kind tag : Byte) (s : State),
      s.powered = true → s.runQuiet → (s.lk.inHand.isSome = true ∨ s.lk.resetTaken = true) →
      i.kind? = some kind → i.tag? = some tag →
      exec i s
        = .next (if s.lk.queue.length < 2 then
            ({ s with lk := { s.lk with
                queue := s.lk.queue ++ [{ kind := kind, tag := tag, request := some i }] } } : State).kick
          else (s.report .overrun [kind.toNat]).kick))

/-- A KIND that names no request is answered UNKNOWN, with the reply KIND 0xFF and the request's TAG, at every time, and
nothing else changes (R185). While the part is starting, every known request but IDENTIFY, CLOCK READ and FAULT READ is
answered STARTING, and no block sees it (R185). -/
def Obligations.RequestsAreGated : Prop :=
  (∀ (tag kind : Byte) (s : State), s.takes → knownKind kind = false →
      exec (.unknownRequest tag kind) s
        = .next (State.kick { s with lk := { s.lk with
            slot := some { kind := 0xFF#8, tag := tag, result := .unknown, body := [] } } }))
  ∧ (∀ (i : Instr) (kind tag : Byte) (s : State), s.takes → s.starting = true → i.kind? = some kind →
      i.tag? = some tag → knownKind kind = true → kind ≠ 0x01#8 → kind ≠ 0x02#8 → kind ≠ 0x58#8 →
      exec i s = .next (s.answeredWith kind tag .starting))

/-- At the end of a frame the waiting reply is sent, else the pending kind earliest in the order, with its contents as they
stand and what it gathered emptied, else nothing (R188, R189); with the OK reply to the RESET taken the warm reset begins
(R187). A frame sent travels as SYNC, LEN, KIND, TAG, a BODY of up to 250 bytes and the CRC of LEN to BODY (R181, R182); a
notice has the KIND of its place from 0xE0 on and TAG 0, and a reply its request's TAG and, first in its BODY, the result
code (R185, R188). The bytes of the fields chapter 12 does not lay out are log entry 7. -/
def Obligations.TransmitterChoosesTheNextFrame : Prop :=
  (∀ f : TxFrame, f.body.length ≤ 250 ∧ ∃ c : BitVec 16,
      c = crc16 (BitVec.ofNat 8 f.body.length :: f.kind :: f.tag :: f.body)
      ∧ f.bytes = 0xC3#8 :: BitVec.ofNat 8 f.body.length :: f.kind :: f.tag
          :: (f.body ++ [c.extractLsb' 8 8, c.extractLsb' 0 8])
      ∧ match f with
        | .notice k _ => f.kind = BitVec.ofNat 8 (0xE0 + k.bit) ∧ f.tag = 0#8
        | .reply r => f.kind = r.kind ∧ f.tag = r.tag ∧ f.body.head? = some (BitVec.ofNat 8 r.result.code))
  ∧ ∀ (s : State) (f : TxFrame), s.quiet → s.lk.sending = some f →
    (s.resetReplied = false →
      (∀ r, s.lk.slot = some r →
        exec .transmitFrameEnd s
          = .next { s with lk := { s.lk with slot := none, sending := some (.reply r) } })
      ∧ (∀ k : NoticeKind, s.lk.slot = none → s.lk.pendingSet.getLsbD k.bit = true →
          (∀ k' : NoticeKind, k'.bit < k.bit → s.lk.pendingSet.getLsbD k'.bit = false) →
          exec .transmitFrameEnd s
            = .next { s with lk := { s.lk with
                sending := some (.notice k (s.contents k))
                pendingSet := s.lk.pendingSet &&& ~~~(1#12 <<< k.bit)
                gathered := s.lk.gathered.emptied k } })
      ∧ (s.lk.slot = none → s.lk.pendingSet = 0 →
          exec .transmitFrameEnd s = .next { s with lk := { s.lk with sending := none } }))
    ∧ (s.resetReplied = true →
        exec .transmitFrameEnd s
          = .next (State.warmReset { s with lk := { s.lk with sending := none } }).settle)

/-- RESET is answered OK, and from then on no request is taken (R187). NOTICE MASK replaces the mask, or is refused with
ARGUMENT where a bit names no kind (R188); the lock switch changes the lock alone (R10). -/
def Obligations.ResetMaskAndLock : Prop :=
  (∀ (tag : Byte) (s : State), s.serves →
      exec (.reset tag) s
        = .next (State.answeredWith 0x03#8 tag .ok { s with lk := { s.lk with resetTaken := true } }))
  ∧ ((∀ (tag : Byte) (mask : Nat) (s : State), s.serves →
      exec (.noticeMask tag mask) s
        = .next (if 4096 ≤ mask then s.answeredWith 0x04#8 tag .argument
          else State.answeredWith 0x04#8 tag .ok { s with set := { s.set with noticeMask := BitVec.ofNat 12 mask } }))
    ∧ ∀ (engaged : Bool) (s : State), s.quiet →
        exec (.lockSwitchChange engaged) s = .next (State.kick { s with pins := { s.pins with lockEngaged := engaged } }))

/-- IDENTIFY and CLOCK READ reply OK at any time, while starting included, and change no state (R186). -/
def Obligations.IdentifyAndClockReadAnswer : Prop :=
  ∀ (tag : Byte) (s : State), s.takes →
    exec (.identify tag) s
      = .next (s.answered 0x01#8 tag ⟨.ok,
          [.bytes [0x5A#8, 0x45#8, 0x4C#8, 0x54#8, 0x49#8, 0x4E#8, 0x41#8, 0x52#8],
           .bytes [0x32#8, 0x31#8, 0x38#8, 0x30#8], .bytes [0x43#8], .num Config.serialNumber.toNat,
           .num s.lk.rate, .flag (decide (s.start.phase ≠ .done))]⟩)
    ∧ exec (.clockRead tag) s
      = .next (s.answered 0x02#8 tag ⟨.ok,
          [.time (some (s.now / 1000)), .time (some s.di.dayStart), .num s.set.dayLength,
            .num (s.di.alarm - s.now / 1000)]⟩)

/-- LINK STATUS and SETTINGS READ reply OK with what they read and change no state; an item that is not in the table is
answered ARGUMENT (R190, R193). LINK STATUS finds itself in hand: log entry 36. SETTINGS WRITE: k and the lux per step are
refused under the lock and clamped, the day length is clamped, a pendant mode is taken, one of another value and the
read-only item are refused with ARGUMENT (R193, Table 11-3). The sync rate is refused with ARGUMENT outside 50, 60, 100 and
120 Hz, and with BUSY with a ticket OPEN or a preview LIT; else it governs the generator's next edge and the loss test from
that event, and during detection the watch restarts with its count at 0 (R113). The restore outcome is read with the time of
the last STORE, or none (R193). The number of a mode or an outcome: log entry 7; the edge a restarted watch forgets: log
entry 44. -/
def Obligations.SettingsAreReadAndWritten : Prop :=
  (∀ (tag : Byte) (s : State), s.serves →
      exec (.linkStatus tag) s
        = .next (s.answered 0x05#8 tag ⟨.ok,
            [.num s.lk.rate, .num (match s.lk.receiver with
               | .hunting => 0
               | .inFrame _ _ => 1),
             .num 0, .flag true, .num 0x05, .num s.lk.pendingSet.toNat, .num s.set.noticeMask.toNat]⟩)
      ∧ exec (.settingsRead tag none) s = .next (s.answeredWith 0x09#8 tag .argument)
      ∧ exec (.settingsRead tag (some .k)) s = .next (s.answered 0x09#8 tag ⟨.ok, [.num s.set.k]⟩)
      ∧ (∀ b, exec (.settingsRead tag (some (.luxPerStep b))) s
          = .next (s.answered 0x09#8 tag ⟨.ok, [.num (s.set.luxPerStep.get b)]⟩))
      ∧ exec (.settingsRead tag (some .syncRate)) s = .next (s.answered 0x09#8 tag ⟨.ok, [.num s.set.syncRate]⟩)
      ∧ exec (.settingsRead tag (some .dayLength)) s = .next (s.answered 0x09#8 tag ⟨.ok, [.num s.set.dayLength]⟩)
      ∧ exec (.settingsRead tag (some .pendantMode)) s
          = .next (s.answered 0x09#8 tag ⟨.ok, [.num (pendantModeOrder s.set.pendantMode)]⟩)
      ∧ exec (.settingsRead tag (some .restoreOutcome)) s
          = .next (s.answered 0x09#8 tag ⟨.ok, [.num s.start.restoreOutcome.order, .time s.ss.lastStore]⟩))
  ∧ (∀ (tag : Byte) (s : State), s.serves →
      (∀ v, exec (.settingsWrite tag (.k v)) s
        = .next (if s.pins.lockEngaged then s.answeredWith 0x08#8 tag .locked
          else State.answered 0x08#8 tag ⟨.ok, [.num (max 1 (min 1023 v)), .flag (decide (v < 1 ∨ 1023 < v))]⟩
            { s with set := { s.set with k := max 1 (min 1023 v) } }))
      ∧ (∀ b v, exec (.settingsWrite tag (.luxPerStep b v)) s
        = .next (if s.pins.lockEngaged then s.answeredWith 0x08#8 tag .locked
          else State.answered 0x08#8 tag ⟨.ok, [.num (max 1 (min 655 v)), .flag (decide (v < 1 ∨ 655 < v))]⟩
            { s with set := { s.set with luxPerStep := s.set.luxPerStep.set b (max 1 (min 655 v)) } }))
      ∧ (∀ h, exec (.settingsWrite tag (.dayLength h)) s
        = .next (State.answered 0x08#8 tag ⟨.ok, [.num (max 1 (min 48 h)), .flag (decide (h < 1 ∨ 48 < h))]⟩
            { s with set := { s.set with dayLength := max 1 (min 48 h) } }))
      ∧ (∀ hz, hz ∉ [50, 60, 100, 120] →
          exec (.settingsWrite tag (.syncRate hz)) s = .next (s.answeredWith 0x08#8 tag .argument))
      ∧ (∀ hz ∈ [50, 60, 100, 120], (s.ticketOpen = true ∨ s.lc.preview.isSome = true) →
          exec (.settingsWrite tag (.syncRate hz)) s = .next (s.answeredWith 0x08#8 tag .busy))
      ∧ (∀ hz ∈ [50, 60, 100, 120], s.ticketOpen = false → s.lc.preview = none →
          ∃ t, t = { s with
              set := { s.set with syncRate := hz }
              cc := if s.cc.sync.state = .detecting then { s.cc with sync := { s.cc.sync with
                  goodCount := 0, found := false, watchEnd := s.now + 500000, lastExt := none, gen := none } }
                else s.cc }
            ∧ exec (.settingsWrite tag (.syncRate hz)) s
                = .next (State.answered 0x08#8 tag ⟨.ok, [.num hz, .flag false]⟩ t)
            ∧ (s.cc.sync.state ≠ .detecting →
                t.edgeDue? = s.cc.sync.gen.map (fun edge => edge + (1000000 + hz / 2) / hz)
                ∧ ((s.cc.sync.state = .external ∨ s.cc.sync.state = .manualExternal) →
                    t.lossDue? = s.cc.sync.lastExt.map fun edge => edge + (2000000 + hz / 2) / hz)))
      ∧ (∀ m, exec (.settingsWrite tag (.pendantMode (some m))) s
          = .next (State.answered 0x08#8 tag ⟨.ok, [.num (pendantModeOrder m), .flag false]⟩
              { s with set := { s.set with pendantMode := m } }))
      ∧ exec (.settingsWrite tag (.pendantMode none)) s = .next (s.answeredWith 0x08#8 tag .argument)
      ∧ exec (.settingsWrite tag .restoreOutcome) s = .next (s.answeredWith 0x08#8 tag .argument)
      ∧ exec (.settingsWrite tag .other) s = .next (s.answeredWith 0x08#8 tag .argument))

/-- STORE takes a copy of the working settings and stays in hand with no reply; at completion the copy stands in the store
with a good CRC, the time becomes the last STORE time, and the OK reply carries it (R194). -/
def Obligations.StoreWritesTheWorkingSettings : Prop :=
  (∀ (tag : Byte) (s : State), s.serves →
    exec (.store tag) s
      = .next (State.kick { s with
          ss := { s.ss with writing := some (s.set, s.now) }
          lk := { s.lk with inHand := some (0x0A#8, tag) } }))
  ∧ ∀ (tag : Byte) (copy : Settings) (began : Nat) (s : State), s.quiet → s.ss.writing = some (copy, began) →
      s.lk.inHand = some (0x0A#8, tag) →
      exec .storeComplete s
        = .next (State.answered 0x0A#8 tag ⟨.ok, [.time (some (s.now / 1000))]⟩
            { s with ss := { copy := copy, crcGood := true, writing := none, lastStore := some (s.now / 1000) } })

/-! ### Start and power (11) -/

/-- COLD_START: the clock is at 0, detection begins, the line runs at the strap's rate, and the settings are the factory
ones with the restore strap clear, the stored copy where the strap is set and the CRC checks, and else the factory ones with
STORE-CRC recorded (R182, R191). A supply that fails during a write of the store leaves a copy whose CRC does not check: the
next cold start with the restore strap set loads the factory values and records STORE-CRC (R194). The numbers of the rate
strap's settings, and what a failed supply keeps: log entry 27; TC in HOMING from the first step: log entry 20. -/
def Obligations.PowerFailsAndReturns : Prop :=
  (∀ (restore : Bool) (rate : Nat) (s : State), rate < 4 →
      ∃ t, exec (.coldStart restore rate) s = .next t
        ∧ t.now = 0 ∧ t.powered = true ∧ t.start.phase = .detecting ∧ t.cc.sync.state = .detecting
        ∧ t.lk.rate = (if rate = 1 then 460800 else if rate = 2 then 921600 else 115200)
        ∧ t.sau.volume = none ∧ t.sau.tally = none ∧ t.di.carry = [] ∧ t.cc.tickets = [] ∧ t.cc.nextSerial = 1
        ∧ t.rc.state = .idle ∧ t.tc.state = .homing ∧ t.pending = s.pending
        ∧ (restore = false →
            t.set = Settings.factory ∧ t.start.restoreOutcome = .factory ∧ t.fb.banks.account.record = none)
        ∧ (restore = true → s.ss.crcGood = true → s.ss.writing = none →
            t.set = s.ss.copy ∧ t.start.restoreOutcome = .restored ∧ t.fb.banks.account.record = none
            ∧ t.lc.learned = s.ss.copy.profiles.map Profile.levels
            ∧ t.di.alarm = s.ss.copy.dayLength * 3600000)
        ∧ (restore = true → (s.ss.crcGood = false ∨ s.ss.writing.isSome = true) →
            t.set = Settings.factory ∧ t.start.restoreOutcome = .factoryCrcBad
            ∧ t.fb.banks.account.record
                = some { overflow := false, code := .storeCrc, detail := [], time := 0, mountNo := none }))
  ∧ (∀ (s : State) (rate : Nat), s.ss.writing.isSome = true →
      ∃ t, exec .powerFail s = .next t ∧ t.powered = false ∧ t.ss.crcGood = false ∧ t.pending = s.pending
        ∧ ∃ u, exec (.coldStart true rate) t = .next u ∧ u.set = Settings.factory
            ∧ u.start.restoreOutcome = .factoryCrcBad ∧ (u.fb.banks.account.record.map FaultRecord.code) = some .storeCrc)

/-- A warm reset with no arm stroke in flight: the run is ENDED ABORTED, the lamps are dark, the capture is abandoned, the
volume is dismounted with cause WARM RESET, its tally as Table 8-2 gives it, LK is empty, and the mechanism homes; with the guard open or in SAFE-STOP TC is
in SAFE-STOP with origin HOMING, and in ATTENTION with a leaf on the head it stays there (R192, R55, R169, R187). The clock,
the day, the settings, the ring's serial, the sync state and the mount counter are kept. With a stroke in flight the dismount
waits for its end, and the volume stays mounted. WARM_RESET acts in every started part, whatever RESET was taken: log entry
26. -/
def Obligations.WarmResetClosesTheAccount : Prop :=
  ∀ s : State, s.powered = true → s.starting = false →
    ∃ t, exec .warmReset s = .next t
      ∧ t.rc.state = (match s.rc.state with
          | .active | .paused _ => .ended .aborted
          | .idle => .idle
          | .ended e => .ended e)
      ∧ t.dark ∧ t.lc.preview = none ∧ t.cc.state = .idle
      ∧ t.lk.queue = [] ∧ t.lk.inHand = none ∧ t.lk.slot = none ∧ t.lk.resetTaken = false
      ∧ t.now = s.now ∧ t.set = s.set ∧ t.ss = s.ss ∧ t.di.dayStart = s.di.dayStart ∧ t.di.alarm = s.di.alarm
      ∧ t.di.remainder = s.di.remainder ∧ t.cc.nextSerial = s.cc.nextSerial ∧ t.cc.sync = s.cc.sync
      ∧ t.sau.mountCounter = s.sau.mountCounter ∧ t.lk.rate = s.lk.rate
      ∧ (s.tc.state.armStroke = true → t.sau.volume = s.sau.volume ∧ t.tc.resetStroke = true ∧ t.tc.j = s.tc.j)
      ∧ (s.tc.state.armStroke = false → t.sau.volume = none ∧ t.pins = s.pins
          ∧ (∀ v, s.sau.volume = some v → t.tc.j = 0 ∧ ∃ y, t.sau.tally = some y ∧ y.mark = v.mark ∧ y.cause = .warmReset
              ∧ y.mountNo = v.mountNo ∧ y.dayDose = s.di.dayDose
              ∧ (s.sau.openings.length = v.n + 1 → y.closes v .warmReset s))
          ∧ t.tc.state = (if s.pins.guardOpen = true ∨ s.tc.state = .safeStop then .safeStop
              else if s.tc.state = .attention ∧ s.pins.leafSensor ≠ .zero then .attention
              else if s.pins.platenUp ∧ s.pins.armPark then .unclamped else .homing)
          ∧ ((s.pins.guardOpen = true ∨ s.tc.state = .safeStop) → t.tc.origin = some .homing))

/-! ### Fault banks (09) -/

/-- A report: a masked one is dropped; else the record is written where none is valid, overwritten with overflow set by one
of strictly higher severity, and else kept with overflow set; a report of the bank's threshold kind raises the count by 1,
4095 staying 4095, and the crossed flag follows it (R171, R172, R176). -/
def Obligations.ReportsAreRankedAndCounted : Prop :=
  ∀ (code : FaultCode) (detail : List Nat) (s : State),
    ((s.set.faultMasks.get code.bank).getLsbD code.bit = false → s.report code detail = s)
    ∧ ((s.set.faultMasks.get code.bank).getLsbD code.bit = true →
        (s.report code detail).fb
          = { banks := s.fb.banks.set code.bank
                { record := some (match (s.fb.banks.get code.bank).record with
                    | none => { overflow := false, code := code, detail := detail, time := s.clock
                                mountNo := s.sau.volume.map Volume.mountNo }
                    | some old =>
                      if old.code.severity.rank < code.severity.rank then
                        { overflow := true, code := code, detail := detail, time := s.clock
                          mountNo := s.sau.volume.map Volume.mountNo }
                      else { old with overflow := true })
                  count := if code = thresholdKind code.bank then
                      min 4095 ((s.fb.banks.get code.bank).count + 1)
                    else (s.fb.banks.get code.bank).count
                  crossed := if code = thresholdKind code.bank then
                      decide (s.set.thresholds.get code.bank ≤ min 4095 ((s.fb.banks.get code.bank).count + 1))
                    else (s.fb.banks.get code.bank).crossed } }
        ∧ s.report code detail = { s with fb := (s.report code detail).fb, lk := (s.report code detail).lk })

/-- FAULT READ carries the record, the mask, the count, the threshold and the crossed flag of the bank, or of all five in
order; FAULT CLEAR empties the record alone and says whether it was valid; FAULT MASK replaces the mask, or is refused where
the set names a code of another bank. A bank that is none of the five is refused with ARGUMENT (R172, R174, R175). THRESHOLD
SET clamps T to 1 to 4095 and recomputes the crossed flag; THRESHOLD CLEAR sets the count to 0, with which crossed becomes
clear, and replies with the old count; a bank that is none of the five is refused (R177, R178). The bounds of R176 are
premises. -/
def Obligations.FaultBanksTakeTheirRequests : Prop :=
  (∀ (tag : Byte) (s : State), s.serves →
      (∀ b, exec (.faultRead tag (some (.one b))) s
        = .next (s.answered 0x58#8 tag ⟨.ok, [.bytes (faultRecordBytes (s.fb.banks.get b).record
            ++ [s.set.faultMasks.get b] ++ beBytes 2 (s.fb.banks.get b).count ++ beBytes 2 (s.set.thresholds.get b)
            ++ [BitVec.ofNat 8 (s.fb.banks.get b).crossed.toNat])]⟩))
      ∧ exec (.faultRead tag (some .all)) s
        = .next (s.answered 0x58#8 tag ⟨.ok, [.bytes ([FaultBank.turn, .lamp, .capture, .link, .account].flatMap fun b =>
            faultRecordBytes (s.fb.banks.get b).record
              ++ [s.set.faultMasks.get b] ++ beBytes 2 (s.fb.banks.get b).count ++ beBytes 2 (s.set.thresholds.get b)
              ++ [BitVec.ofNat 8 (s.fb.banks.get b).crossed.toNat])]⟩)
      ∧ exec (.faultRead tag none) s = .next (s.answeredWith 0x58#8 tag .argument)
      ∧ (∀ b, exec (.faultClear tag (some b)) s
        = .next (State.answered 0x59#8 tag ⟨.ok, [.flag (s.fb.banks.get b).record.isSome]⟩
            { s with fb := { banks := s.fb.banks.set b { (s.fb.banks.get b) with record := none } } }))
      ∧ exec (.faultClear tag none) s = .next (s.answeredWith 0x59#8 tag .argument)
      ∧ (∀ b mask, exec (.faultMask tag (some b) mask) s
        = .next (if mask < 2 ^ codeCount b then
            State.answeredWith 0x5A#8 tag .ok
              { s with set := { s.set with faultMasks := s.set.faultMasks.set b (BitVec.ofNat 8 mask) } }
          else s.answeredWith 0x5A#8 tag .argument))
      ∧ (∀ mask, exec (.faultMask tag none mask) s = .next (s.answeredWith 0x5A#8 tag .argument)))
  ∧ (∀ (tag : Byte) (s : State), s.serves → s.countersHold →
      (∀ b v, ∃ t, exec (.thresholdSet tag (some b) v) s = .next t
        ∧ t.set = { s.set with thresholds := s.set.thresholds.set b (max 1 (min 4095 v)) }
        ∧ t.fb = { banks := s.fb.banks.set b { (s.fb.banks.get b) with
            crossed := decide (max 1 (min 4095 v) ≤ (s.fb.banks.get b).count) } }
        ∧ t = { s with set := t.set, fb := t.fb, lk := t.lk }
        ∧ (s.lk.sending = none → t.lk.sending = some (.reply { kind := 0xDB#8, tag := tag, result := .ok, body :=
            [.num (max 1 (min 4095 v)), .flag (decide (v < 1 ∨ 4095 < v)), .num (s.fb.banks.get b).count,
             .flag (decide (max 1 (min 4095 v) ≤ (s.fb.banks.get b).count))] })))
      ∧ (∀ b, exec (.thresholdClear tag (some b)) s
          = .next (State.answered 0x5C#8 tag ⟨.ok, [.num (s.fb.banks.get b).count]⟩
              { s with fb := { banks := s.fb.banks.set b { (s.fb.banks.get b) with count := 0, crossed := false } } }))
      ∧ (∀ v, exec (.thresholdSet tag none v) s = .next (s.answeredWith 0x5B#8 tag .argument))
      ∧ exec (.thresholdClear tag none) s = .next (s.answeredWith 0x5C#8 tag .argument))

/-! ### Marks, classes and volumes (01, 08) -/

/-- PATTERN WRITE of more than 40 raw characters fails its layout and is answered ARGUMENT before its own tests (R185,
R195); else under the lock it is refused with LOCKED; else the entry is written, normalised, or refused with ARGUMENT:
position above 11, class above 7, a pattern over 24 normalised characters, with a character outside the alphabet or a star
before its last place, an enabled entry with an empty pattern, or another value of the enabled field (R4). PATTERN READ
replies OK with the entry at the position, refuses a position above 11 with ARGUMENT, is answered under the lock, and
changes no state (R5). -/
def Obligations.PatternsAreWrittenAndRead : Prop :=
  (∀ (tag : Byte) (f : PatternFields) (s : State), s.serves →
      exec (.patternWrite tag f) s
        = .next (if 40 < f.pattern.length then s.answeredWith 0x10#8 tag .argument
          else if s.pins.lockEngaged then s.answeredWith 0x10#8 tag .locked
          else match f.enabled with
            | none => s.answeredWith 0x10#8 tag .argument
            | some enabled =>
              if f.position ≤ 11 ∧ f.cls ≤ 7 ∧ (normalise f.pattern).length ≤ 24
                  ∧ patternChars (normalise f.pattern) = true ∧ (enabled = true → normalise f.pattern ≠ []) then
                State.answeredWith 0x10#8 tag .ok { s with set := { s.set with
                  patterns := s.set.patterns.set f.position
                    { enabled := enabled, pattern := normalise f.pattern, cls := f.cls } } }
              else s.answeredWith 0x10#8 tag .argument))
  ∧ (∀ (tag : Byte) (position : Nat) (e : PatternEntry) (s : State), s.serves →
      e = s.set.patterns.getD position { enabled := false, pattern := [], cls := 0 } →
      exec (.patternRead tag position) s
        = .next (if position ≤ 11 then
            s.answered 0x11#8 tag ⟨.ok, [.bytes ([BitVec.ofNat 8 position, BitVec.ofNat 8 e.enabled.toNat,
              BitVec.ofNat 8 e.cls, BitVec.ofNat 8 e.pattern.length] ++ e.pattern)]⟩
          else s.answeredWith 0x11#8 tag .argument))

/-- CLASSIFY refuses a mark that R1 refuses with ARGUMENT, and else replies with the normalised mark and the class and
position of the first enabled entry that matches it, class 0 and no position where none does; it changes no state (R3,
R6). -/
def Obligations.ClassifyFindsTheFirstMatch : Prop :=
  ∀ (tag : Byte) (raw : Text) (s : State), s.serves →
    (shelfMark? raw = none → exec (.classify tag raw) s = .next (s.answeredWith 0x12#8 tag .argument))
    ∧ (∀ mark i e, shelfMark? raw = some mark → s.set.patterns[i]? = some e → e.enabled = true →
        matchesPattern e.pattern mark = true →
        (∀ k e', k < i → s.set.patterns[k]? = some e' → ¬ (e'.enabled = true ∧ matchesPattern e'.pattern mark = true)) →
        exec (.classify tag raw) s = .next (s.answered 0x12#8 tag ⟨.ok, [.bytes mark, .num e.cls, .num i]⟩))
    ∧ (∀ mark, shelfMark? raw = some mark →
        (∀ e' ∈ s.set.patterns, ¬ (e'.enabled = true ∧ matchesPattern e'.pattern mark = true)) →
        exec (.classify tag raw) s = .next (s.answered 0x12#8 tag ⟨.ok, [.bytes mark, .num 0, .missing]⟩))

/-- CLASS WRITE is refused under the lock, for a class above 7, and for another value of an enumerated field; else each
number is clamped to its range and the record is written (R8). CLASS READ replies with the record of the table, or ARGUMENT
above 7, and changes no state (R9). -/
def Obligations.ClassesAreWrittenAndRead : Prop :=
  ∀ (tag : Byte) (cls : Nat) (s : State), s.serves →
    (∀ (f : ClassFields) (a : Bool) (t : Turning) (p : PlatenPolicy), f.ambient = some a → f.turning = some t →
      f.policy = some p →
      exec (.classWrite tag cls f) s
        = .next (if s.pins.lockEngaged then s.answeredWith 0x13#8 tag .locked
          else if 7 < cls then s.answeredWith 0x13#8 tag .argument
          else State.answered 0x13#8 tag ⟨.ok, [.flag (decide (
              f.dayBudget < 1 ∨ 1000000000 < f.dayBudget ∨ f.openingLimit < 1 ∨ 10000000 < f.openingLimit
              ∨ 7 < f.retryLimit ∨ 9 < f.airStart ∨ f.forceTarget < 100 ∨ 3000 < f.forceTarget
              ∨ f.dwellLimit < 5 ∨ 600 < f.dwellLimit))]⟩ { s with set := { s.set with
            classes := s.set.classes.set cls
              { dayBudget := max 1 (min 1000000000 f.dayBudget), openingLimit := max 1 (min 10000000 f.openingLimit)
                ambient := a, turning := t, retryLimit := min 7 f.retryLimit, airStart := min 9 f.airStart
                policy := p, forceTarget := max 100 (min 3000 f.forceTarget)
                dwellLimit := max 5 (min 600 f.dwellLimit) } } }))
    ∧ (∀ f : ClassFields, (f.ambient = none ∨ f.turning = none ∨ f.policy = none) →
        exec (.classWrite tag cls f) s
          = .next (s.answeredWith 0x13#8 tag (if s.pins.lockEngaged then .locked else .argument)))
    ∧ (cls ≤ 7 → exec (.classRead tag cls) s
        = .next (s.answered 0x14#8 tag ⟨.ok, [.bytes (classAt s.set.classes cls).bytes]⟩))
    ∧ (8 ≤ cls → exec (.classRead tag cls) s = .next (s.answeredWith 0x14#8 tag .argument))

/-- A MOUNT whose counts exceed its layout is answered ARGUMENT before its own tests (R185, R195); one with a volume mounted
or TC not UNCLAMPED is refused with STATE, one with a field outside its range with ARGUMENT (R11, R12), and one whose
override names another class than the matched one, under the lock, with LOCKED (R13). One that passes every test mounts the
volume: the counter rises by 1 (65,535 to 0), the class record is copied, the opening table has N + 1 entries of dose 0, j
is j0, TC's counters are 0, the day dose is the carried dose of the mark, and the carry entry is gone (R13 to R16, R34,
R95). A carried dose at the warning level makes the warning, and one at the budget makes the volume EXHAUSTED with every
bank dark and DOSE-EXHAUSTED reported, in that event (R95, R85, R87; no capture in progress). -/
def Obligations.MountTakesTheVolume : Prop :=
  ∀ (tag : Byte) (f : MountFields) (s : State), s.serves →
    ((40 < f.raw.length ∨ 32 < f.foldouts.length ∨ 16 < f.blanks.length) →
      exec (.mount tag f) s = .next (s.answeredWith 0x15#8 tag .argument))
    ∧ (f.raw.length ≤ 40 → f.foldouts.length ≤ 32 → f.blanks.length ≤ 16 →
      ((s.sau.volume.isSome = true ∨ s.tc.state ≠ .unclamped) →
        exec (.mount tag f) s = .next (s.answeredWith 0x15#8 tag .state))
      ∧ (s.sau.volume = none → s.tc.state = .unclamped →
          (shelfMark? f.raw = none ∨ f.direction = none ∨ f.n < 1 ∨ 2047 < f.n ∨ f.n < f.j0
            ∨ (∃ c, f.override = .cls c ∧ 7 < c) ∨ foldoutsOk f.n f.foldouts = false ∨ blanksOk f.n f.blanks = false) →
          exec (.mount tag f) s = .next (s.answeredWith 0x15#8 tag .argument))
      ∧ (∀ (mark : Text) (d : Direction) (matched : Nat) (position : Option Nat), s.sau.volume = none →
          s.tc.state = .unclamped → shelfMark? f.raw = some mark → f.direction = some d → 1 ≤ f.n → f.n ≤ 2047 →
          f.j0 ≤ f.n → foldoutsOk f.n f.foldouts = true → blanksOk f.n f.blanks = true →
          classify s.set.patterns mark = (matched, position) →
          (∀ c, f.override = .cls c → c ≤ 7 → c ≠ matched → s.pins.lockEngaged = true →
            exec (.mount tag f) s = .next (s.answeredWith 0x15#8 tag .locked))
          ∧ (∀ (cls : Nat) (source : ClassSource) (dose : Nat) (limits : ClassRec) (a : Sau),
              ((source = .matched ∧ cls = matched ∧ (f.override = .absent ∨ (f.override = .cls cls ∧ cls ≤ 7)))
                ∨ (source = .override ∧ cls ≠ matched ∧ f.override = .cls cls ∧ cls ≤ 7
                  ∧ s.pins.lockEngaged = false)) →
              limits = classAt s.set.classes cls →
              dose = (match s.di.carry.find? fun e => e.mark == mark with
                | some e => e.dose
                | none => 0) →
              a = { mountCounter := (s.sau.mountCounter + 1) % 65536
                    volume := some { mark := mark, n := f.n, direction := d, j0 := f.j0
                                     mountNo := (s.sau.mountCounter + 1) % 65536, cls := cls
                                     source := source, position := position
                                     limits := limits, foldouts := f.foldouts, blanks := f.blanks }
                    openings := (List.range (f.n + 1)).map fun j =>
                      { left := initialSide f.foldouts f.blanks (leftSide d f.n j)
                        right := initialSide f.foldouts f.blanks (rightSide d f.n j), dose := 0 }
                    tally := none } →
              (dose < limits.dayBudget * 7 / 8 →
                exec (.mount tag f) s
                  = .next (State.answered 0x15#8 tag
                      ⟨.ok, [.bytes (beBytes 2 ((s.sau.mountCounter + 1) % 65536) ++ beBytes 1 cls
                        ++ beBytes 1 source.code ++ beBytes 1 (position.getD 0xFF))]⟩
                      { s with
                        sau := a
                        tc := { s.tc with j := f.j0, turnsDone := 0, missRetries := 0, doubleRetries := 0 }
                        rc := { s.rc with volumeSkips := 0 }
                        di := { s.di with carry := s.di.carry.filter fun e => !(e.mark == mark)
                                          dayDose := dose, carriedIn := dose, exhausted := false, warned := false } }))
              ∧ (limits.dayBudget * 7 / 8 ≤ dose → s.cc.state = .idle →
                ∃ t, exec (.mount tag f) s = .next t ∧ t.sau = a
                  ∧ t.tc = { s.tc with j := f.j0, turnsDone := 0, missRetries := 0, doubleRetries := 0 }
                  ∧ t.di.dayDose = dose ∧ t.di.carriedIn = dose ∧ t.di.warned = true
                  ∧ t.di.exhausted = decide (limits.dayBudget ≤ dose)
                  ∧ t.di.carry = s.di.carry.filter (fun e => !(e.mark == mark))
                  ∧ (s.set.noticeMask.getLsbD 6 = true → s.lk.sending.isSome = true → t.lk.pendingSet.getLsbD 6 = true)
                  ∧ (dose < limits.dayBudget → t.fb = s.fb ∧ t.lc = s.lc)
                  ∧ (limits.dayBudget ≤ dose → t.dark ∧ t.lc.preview = none
                      ∧ t.fb = (State.report .doseExhausted [dose, limits.dayBudget] { s with sau := a }).fb)
                  ∧ t.set = s.set ∧ t.pins = s.pins ∧ t.now = s.now))))

/-- OPENING READ, VOLUME READ and TALLY READ change no state: OPENING READ refuses a count outside 1 to 16 or a first
opening above N, and else carries the records of up to COUNT openings to N and their number; TALLY READ carries the tally or
answers NONE; VOLUME READ replies OK with the lock, the mount counter and the mounted flag, and with a volume mounted its
whole record, j, and the number of sides 1 to 2N in each live state; the table has an entry for each opening (R17, R19, R20,
R168). -/
def Obligations.VolumeIsRead : Prop :=
  ∀ (tag : Byte) (s : State), s.serves →
    (∀ first count, s.sau.volume = none →
      exec (.openingRead tag first count) s = .next (s.answeredWith 0x16#8 tag .notMounted))
    ∧ (∀ first count v, s.sau.volume = some v →
        exec (.openingRead tag first count) s
          = .next (if 1 ≤ count ∧ count ≤ 16 ∧ first ≤ v.n then
              s.answered 0x16#8 tag ⟨.ok, [.bytes (
                ((List.range (min count (v.n - first + 1))).flatMap fun i =>
                  openingBytes v.direction v.n (first + i) (openingAt s.sau.openings (first + i)))
                ++ beBytes 1 (min count (v.n - first + 1)))]⟩
            else s.answeredWith 0x16#8 tag .argument))
    ∧ (s.sau.volume = none →
        exec (.volumeRead tag) s
          = .next (s.answered 0x17#8 tag ⟨.ok, [.flag s.pins.lockEngaged, .num s.sau.mountCounter, .flag false]⟩))
    ∧ (∀ v c, s.sau.volume = some v → s.sau.openings.length = v.n + 1 → c = countsOf (s.sideStates v) →
        exec (.volumeRead tag) s
          = .next (s.answered 0x17#8 tag ⟨.ok, [.flag s.pins.lockEngaged, .num s.sau.mountCounter, .flag true,
              .bytes v.mark, .num v.n, .num (match v.direction with
                | .ltr => 0
                | .rtl => 1),
              .num v.j0, .num v.mountNo, .num v.cls, .num (match v.source with
                | .matched => 0
                | .override => 1),
              (match v.position with
                | some p => .num p
                | none => .missing),
              .bytes v.limits.bytes, .nums v.foldouts, .nums (v.blanks.flatMap fun r => [r.1, r.2]), .num s.tc.j,
              .num c.pending, .num c.held, .num c.accepted, .num c.retake, .num c.blank, .num c.foldout]⟩))
    ∧ (∀ y, s.sau.tally = some y →
        exec (.tallyRead tag) s = .next (s.answered 0x1A#8 tag ⟨.ok, [.bytes y.bytes]⟩))
    ∧ (s.sau.tally = none → exec (.tallyRead tag) s = .next (s.answeredWith 0x1A#8 tag .absent))

/-- SIDE SET on one side of the mounted volume: refused with ARGUMENT for a state it may not set, and with HELD for a HELD
side that is not to be RETAKE; else that side takes the state and no other side, opening dose or block changes (R161). A
HELD side set to RETAKE is superseded: the half that covers it is flagged in the tickets of the mount that are not orphaned
(R130). The two counts of that reply: log entry 24. -/
def Obligations.SideSetChangesItsSide : Prop :=
  ∀ (tag : Byte) (side : Nat) (st : SideState) (s : State) (v : Volume), s.serves → s.sau.volume = some v →
    1 ≤ side → side ≤ 2 * v.n →
    ((st = .held ∨ st = .foldout ∨ st = .absent) →
      exec (.sideSet tag side side (some st)) s = .next (s.answeredWith 0x18#8 tag .argument))
    ∧ (s.sideState side ≠ .held → (st = .pending ∨ st = .retake ∨ st = .blank ∨ st = .accepted) →
        ∃ t, exec (.sideSet tag side side (some st)) s = .next t
          ∧ t.sau = { s.sau with openings := s.sau.openings.modify (side / 2) (withSide v.direction side st) }
          ∧ t = { s with sau := t.sau, lk := t.lk }
          ∧ (∀ k, k ≠ side → t.sideState k = s.sideState k)
          ∧ (∀ j, (openingAt t.sau.openings j).dose = (openingAt s.sau.openings j).dose))
    ∧ (s.sideState side = .held → (st = .pending ∨ st = .blank ∨ st = .accepted) →
        exec (.sideSet tag side side (some st)) s = .next (s.answeredWith 0x18#8 tag .held))
    ∧ (s.sideState side = .held →
        exec (.sideSet tag side side (some .retake)) s
          = .next (State.answered 0x18#8 tag ⟨.ok, [.num 1, .num 1]⟩ { s with
              sau := { s.sau with openings := s.sau.openings.modify (side / 2) (withSide v.direction side .retake) }
              cc := { s.cc with tickets := s.cc.tickets.map fun k =>
                if k.mountNo = v.mountNo ∧ k.orphaned = false then
                  { k with
                    left := k.left.map fun h => if h.side = side then { h with superseded := true } else h
                    right := k.right.map fun h => if h.side = side then { h with superseded := true } else h }
                else k } }))

/-- DISMOUNT without force, at rest with the platen up, no run, and no ticket of the mount in the ring: the dismount
completes in that event. The tally is that of the volume, the day dose goes to the carry table, whose oldest entry a full one
gives up with CARRY-EVICT, no volume is mounted, j is 0, and TC is UNCLAMPED (R162, R163, R165, R166, R97). With tickets of
the mount it is refused with TICKETS. From CLAMPED, or HALTED with the platen down, it is ACCEPTED and the platen is raised
first; PLATEN_UP_MADE then completes it, told DISMOUNTED (R163, R164). With force a capture in progress is abandoned: its
ticket closes, each side without a result at RESET-CUT, and is orphaned, and the tally's cause is FORCED (R124, R131,
R165). The tally's fields are those of Table 8-2: with force each HELD side counts as RETAKE and in the forced-retake count;
the gap list holds the first 32 maximal runs of PENDING and RETAKE sides in ascending order, and the gap count, the gap sides
and the truncated flag speak of all of them (R166, R167). -/
def Obligations.DismountClosesTheAccount : Prop :=
  (∀ (tag : Byte) (s : State) (v : Volume), s.serves → s.sau.volume = some v →
    s.runActive = false → s.runPaused = false → s.lc.preview = none →
    (s.tc.state = .unclamped → s.ticketsOfMount v = true →
      exec (.dismount tag (some false)) s = .next (s.answeredWith 0x19#8 tag .tickets))
    ∧ (s.tc.state = .unclamped → s.ticketsOfMount v = false → s.di.carry.length < 16 →
        ∃ t y, exec (.dismount tag (some false)) s = .next t
          ∧ t.sau = { s.sau with volume := none, openings := [], tally := some y }
          ∧ y.mark = v.mark ∧ y.mountNo = v.mountNo ∧ y.cause = .dismount ∧ y.time = s.now / 1000
          ∧ y.dayDose = s.di.dayDose ∧ y.carriedIn = s.di.carriedIn ∧ y.turnsDone = s.tc.turnsDone
          ∧ y.doseSkips = s.rc.volumeSkips ∧ (s.sau.openings.length = v.n + 1 → y.closes v .dismount s)
          ∧ t.di = { s.di with
              carry := s.di.carry ++ [{ mark := v.mark, dose := s.di.dayDose, time := s.now / 1000, cls := v.cls }]
              dayDose := 0, carriedIn := 0, exhausted := false, warned := false }
          ∧ t.tc.j = 0 ∧ t.tc.state = .unclamped ∧ t.tc.turnsDone = s.tc.turnsDone
          ∧ t.rc = { s.rc with volumeSkips := 0 }
          ∧ t.cc = s.cc ∧ t.lc = s.lc ∧ t.set = s.set ∧ t.fb = s.fb ∧ t.now = s.now ∧ t.pins = s.pins)
    ∧ (∀ e rest, s.tc.state = .unclamped → s.ticketsOfMount v = false → s.di.carry = e :: rest → rest.length = 15 →
        ∃ t, exec (.dismount tag (some false)) s = .next t ∧ t.sau.volume = none ∧ t.tc.j = 0
          ∧ t.di.carry = rest ++ [{ mark := v.mark, dose := s.di.dayDose, time := s.now / 1000, cls := v.cls }]
          ∧ t.fb = (s.report .carryEvict [e.dose]).fb ∧ t.cc = s.cc ∧ t.lc = s.lc ∧ t.set = s.set)
    ∧ ((s.tc.state = .clamped ∨ (s.tc.state = .halted ∧ s.pins.platenUp = false)) → s.ticketsOfMount v = false →
        s.tc.pendingDwell = false →
        exec (.dismount tag (some false)) s
          = .next (State.answered 0x19#8 tag ⟨.accepted, [.num v.mountNo]⟩ { s with
              tc := { s.tc with
                op := some { kind := .dismount, forward := true, remaining := 0, turned := 0, clampAfter := false
                             fromClamped := false, byRun := false }
                state := .raising, phaseStart := s.now, dwellStart := none, atForce := false, loweringDue := false
                pendingDwell := false, pendingOverforce := false, raiseGoal := some (.dismount false) } }))
    ∧ (∀ pre k, s.tc.state = .unclamped → s.cc.tickets = pre ++ [k] → k.closed = false → k.mountNo = v.mountNo →
        s.cc.state ≠ .idle → s.di.carry.length < 16 →
        ∃ t y, exec (.dismount tag (some true)) s = .next t ∧ t.cc.state = .idle ∧ t.dark
          ∧ t.cc.tickets.getLast? = some { k with
              left := k.left.map fun h => { h with result := some (h.result.getD .resetCut) }
              right := k.right.map fun h => { h with result := some (h.result.getD .resetCut) }
              closed := true, closeTime := some (s.now / 1000), orphaned := true }
          ∧ t.sau = { s.sau with volume := none, openings := [], tally := some y } ∧ y.cause = .forced
          ∧ y.mountNo = v.mountNo ∧ y.counts.held = 0 ∧ (s.sau.openings.length = v.n + 1 → y.closes v .forced s)
          ∧ t.tc.state = .unclamped ∧ t.tc.j = 0
          ∧ t.fb = s.fb ∧ t.set = s.set ∧ t.pins = s.pins))
  ∧ ∀ (forced : Bool) (s : State) (v : Volume) (o : Op), s.quiet → s.runActive = false → s.sau.volume = some v →
      s.tc.state = .raising → s.tc.raiseGoal = some (.dismount forced) → s.tc.recover = none → s.tc.op = some o →
      s.di.carry.length < 16 →
      ∃ t y, exec .platenUpMade s = .next t
        ∧ t.sau = { s.sau with volume := none, openings := [], tally := some y }
        ∧ y.cause = (if forced then .forced else .dismount) ∧ y.mark = v.mark ∧ y.mountNo = v.mountNo
        ∧ (s.sau.openings.length = v.n + 1 → y.closes v (if forced then .forced else .dismount) s)
        ∧ t.di.carry = s.di.carry ++ [{ mark := v.mark, dose := s.di.dayDose, time := s.now / 1000, cls := v.cls }]
        ∧ t.tc.state = .unclamped ∧ t.tc.j = 0 ∧ t.tc.op = none ∧ t.pins = { s.pins with platenUp := true }
        ∧ (s.set.noticeMask.getLsbD 3 = true → s.lk.sending.isSome = true → t.lk.pendingSet.getLsbD 3 = true
            ∧ (t.lk.gathered.turnEnd.map TurnEnd.result) = some .dismounted)
        ∧ t.lc = s.lc ∧ t.fb = s.fb ∧ t.set = s.set ∧ t.now = s.now

/-! ### Turning, the platen and the guard (02) -/

/-- TURN's tests in their order, and the first that fails gives the reply and changes no state; a TURN that passes every
test is accepted (R24). -/
def Obligations.TurnIsTestedInOrder : Prop :=
  ∀ (tag : Byte) (n : Int) (clampAfter : Option Bool) (s : State), s.serves →
    (s.sau.volume = none → exec (.turn tag n clampAfter) s = .next (s.answeredWith 0x20#8 tag .notMounted))
    ∧ ∀ v, s.sau.volume = some v →
        if s.tc.state ≠ .unclamped ∧ s.tc.state ≠ .clamped then
          exec (.turn tag n clampAfter) s = .next (s.answeredWith 0x20#8 tag .state)
        else if s.ticketOpen = true then exec (.turn tag n clampAfter) s = .next (s.answeredWith 0x20#8 tag .state)
        else if s.runOwnsTc = true then exec (.turn tag n clampAfter) s = .next (s.answeredWith 0x20#8 tag .state)
        else if v.limits.turning = .manualOnly then
          exec (.turn tag n clampAfter) s = .next (s.answeredWith 0x20#8 tag .cls)
        else if n = 0 ∨ n < -16 ∨ 16 < n ∨ (s.tc.j : Int) + n < 0 ∨ (v.n : Int) < (s.tc.j : Int) + n
            ∨ clampAfter = none then
          exec (.turn tag n clampAfter) s = .next (s.answeredWith 0x20#8 tag .argument)
        else
          ∃ t, exec (.turn tag n clampAfter) s = .next t
            ∧ (s.lk.sending = none →
                t.lk.sending = some (.reply { kind := 0xA0#8, tag := tag, result := .accepted, body := [] }))

/-- An accepted TURN with no preview lit fills the record. Where the first leaf is no foldout, TC leaves UNCLAMPED for the
first lift attempt, at the class air-knife start level, or CLAMPED for RAISING. Where it is one, and no recovery is in
flight, the operation ends FOLDOUT-STOP in the state TC was in (R25, R26, R33). The park switch opens as the attempt begins:
the model's choice, log entry 11. -/
def Obligations.TurnBeginsItsFirstLeaf : Prop :=
  ∀ (tag : Byte) (n : Int) (c : Bool) (s : State) (v : Volume), s.serves → s.sau.volume = some v →
    s.ticketOpen = false → s.runOwnsTc = false → s.runActive = false → s.lc.preview = none →
    v.limits.turning = .auto → n ≠ 0 → -16 ≤ n → n ≤ 16 → 0 ≤ (s.tc.j : Int) + n → (s.tc.j : Int) + n ≤ v.n →
    (s.tc.state = .unclamped → v.foldouts.contains (if 0 < n then s.tc.j + 1 else s.tc.j) = false →
      exec (.turn tag n (some c)) s
        = .next (State.answeredWith 0x20#8 tag .accepted { s with
            pins := { s.pins with armPark := false }
            tc := { s.tc with
              op := some { kind := .turn, forward := decide (0 < n), remaining := n.natAbs, turned := 0
                           clampAfter := c, fromClamped := false, byRun := false }
              state := .lifting, phaseStart := s.now, attempt := 1, air := v.limits.airStart
              knife := v.limits.airStart, vacuum := true, leafInHand := true, raiseGoal := none
              returnGoal := none } }))
    ∧ (s.tc.state = .clamped → v.foldouts.contains (if 0 < n then s.tc.j + 1 else s.tc.j) = false →
      exec (.turn tag n (some c)) s
        = .next (State.answeredWith 0x20#8 tag .accepted { s with
            tc := { s.tc with
              op := some { kind := .turn, forward := decide (0 < n), remaining := n.natAbs, turned := 0
                           clampAfter := c, fromClamped := true, byRun := false }
              state := .raising, phaseStart := s.now, dwellStart := none, atForce := false
              raiseGoal := some .lift } }))
    ∧ ((s.tc.state = .unclamped ∨ s.tc.state = .clamped) → s.tc.recover = none →
      v.foldouts.contains (if 0 < n then s.tc.j + 1 else s.tc.j) = true →
      ∃ t, exec (.turn tag n (some c)) s = .next t ∧ t.tc.state = s.tc.state ∧ t.tc.j = s.tc.j ∧ t.tc.op = none
        ∧ t.pins = s.pins ∧ t.lk.gathered.turnEnd
          = (if s.set.noticeMask.getLsbD 3 then
              some { kind := .turn, result := .foldoutStop, turned := 0, remaining := n.natAbs, j := s.tc.j
                     state := s.tc.state }
            else s.lk.gathered.turnEnd))

/-- CLAMP from UNCLAMPED and UNCLAMP from CLAMPED, with no ticket OPEN, no run ACTIVE and no preview lit, are ACCEPTED: TC
enters LOWERING, or RAISING with the dwell timer stopped, with a record of that kind (R35, R36, R40). In another state they
are refused with STATE, and CLAMP with no volume mounted with NOT-MOUNTED. The UP switch opens as the lowering begins: the
model's choice, log entry 11. -/
def Obligations.PlatenRequestsBegin : Prop :=
  ∀ (tag : Byte) (s : State), s.serves → s.runActive = false → s.lc.preview = none →
    (s.sau.volume = none → exec (.clamp tag) s = .next (s.answeredWith 0x21#8 tag .notMounted))
    ∧ (s.sau.volume.isSome = true → s.tc.state ≠ .unclamped →
        exec (.clamp tag) s = .next (s.answeredWith 0x21#8 tag .state))
    ∧ (s.sau.volume.isSome = true → s.tc.state = .unclamped → s.ticketOpen = false →
        exec (.clamp tag) s
          = .next (State.answeredWith 0x21#8 tag .accepted { s with
              pins := { s.pins with platenUp := false }
              tc := { s.tc with
                op := some { kind := .clamp, forward := true, remaining := 0, turned := 0, clampAfter := false
                             fromClamped := false, byRun := false }
                state := .lowering, phaseStart := s.now, loweringDue := false } }))
    ∧ (s.tc.state ≠ .clamped → exec (.unclamp tag) s = .next (s.answeredWith 0x22#8 tag .state))
    ∧ (s.tc.state = .clamped → s.ticketOpen = false →
        exec (.unclamp tag) s
          = .next (State.answeredWith 0x22#8 tag .accepted { s with
              tc := { s.tc with
                op := some { kind := .unclamp, forward := true, remaining := 0, turned := 0, clampAfter := false
                             fromClamped := false, byRun := false }
                state := .raising, phaseStart := s.now, dwellStart := none, atForce := false
                raiseGoal := some .unclamp } }))

/-- HALT with no run: refused with STATE in HOMING, marks a moving TC, and changes nothing at rest (R42). RESUME with no
run: refused with STATE outside HALTED; a halted turn with its platen up whose next leaf is no foldout goes on with the
first attempt on it; a halted operation whose lowering is due goes on with it (R44). The switches open as the motions begin:
the model's choice, log entry 11. -/
def Obligations.HaltAndResume : Prop :=
  ∀ (tag : Byte) (s : State), s.serves → s.rc.state = .idle →
    exec (.halt tag) s
      = .next (if s.tc.state = .homing then s.answeredWith 0x23#8 tag .state
        else if s.tc.state.moving = true then
          State.answeredWith 0x23#8 tag .ok { s with tc := { s.tc with haltMark := true } }
        else s.answeredWith 0x23#8 tag .ok)
    ∧ (s.tc.state ≠ .halted → exec (.resume tag) s = .next (s.answeredWith 0x24#8 tag .state))
    ∧ (∀ (v : Volume) (o : Op), s.tc.state = .halted → s.sau.volume = some v → s.tc.op = some o → 0 < o.remaining →
        s.pins.platenUp = true → v.foldouts.contains (if o.forward then s.tc.j + 1 else s.tc.j) = false →
        exec (.resume tag) s
          = .next (State.answeredWith 0x24#8 tag .accepted { s with
              pins := { s.pins with armPark := false }
              tc := { s.tc with
                state := .lifting, phaseStart := s.now, attempt := 1, air := v.limits.airStart
                knife := v.limits.airStart, vacuum := true, leafInHand := true, raiseGoal := none
                returnGoal := none } }))
    ∧ (∀ o : Op, s.tc.state = .halted → s.tc.op = some o → o.remaining = 0 → s.tc.loweringDue = true →
        exec (.resume tag) s
          = .next (State.answeredWith 0x24#8 tag .accepted { s with
              pins := { s.pins with platenUp := false }
              tc := { s.tc with state := .lowering, phaseStart := s.now, loweringDue := false } }))

/-- DECLARE's tests in their order, and its effect: TC sets j, stays in or enters UNCLAMPED, and the remaining count and the
lowering-due flag are dropped (R47). DECLARE-PENDING's tests in their order, and its effect: a lit preview is CUT, TC enters
SEEK and drops what it held, and j stands (R46). -/
def Obligations.DeclarePlacesTheOpening : Prop :=
  (∀ (tag : Byte) (j : Nat) (s : State), s.serves →
      (s.sau.volume = none → exec (.declare tag j) s = .next (s.answeredWith 0x26#8 tag .notMounted))
      ∧ ∀ v, s.sau.volume = some v →
          if s.rc.state = .active then exec (.declare tag j) s = .next (s.answeredWith 0x26#8 tag .state)
          else if v.n < j then exec (.declare tag j) s = .next (s.answeredWith 0x26#8 tag .argument)
          else if s.tc.state = .unclamped ∨ s.tc.state = .seek
              ∨ (s.tc.state = .halted ∧ s.pins.platenUp = true)
              ∨ (s.tc.state = .attention ∧ s.pins.armPark = true ∧ s.pins.platenUp = true) then
            ∃ t, exec (.declare tag j) s = .next t
              ∧ t.tc.j = j ∧ t.tc.state = .unclamped
              ∧ (s.tc.state ≠ .unclamped → t.tc.op = none ∧ t.tc.loweringDue = false)
              ∧ t = { s with tc := t.tc, lk := t.lk }
              ∧ (s.lk.sending = none →
                  t.lk.sending = some (.reply { kind := 0xA6#8, tag := tag, result := .ok, body := [] }))
          else exec (.declare tag j) s = .next (s.answeredWith 0x26#8 tag .state))
  ∧ (∀ (tag : Byte) (s : State), s.serves →
      if s.sau.volume = none then exec (.declarePending tag) s = .next (s.answeredWith 0x25#8 tag .notMounted)
      else if s.rc.state = .active then exec (.declarePending tag) s = .next (s.answeredWith 0x25#8 tag .state)
      else if s.tc.state ≠ .unclamped ∧ ¬ (s.tc.state = .halted ∧ s.pins.platenUp = true) then
        exec (.declarePending tag) s = .next (s.answeredWith 0x25#8 tag .state)
      else if s.ticketOpen = true then exec (.declarePending tag) s = .next (s.answeredWith 0x25#8 tag .state)
      else
        ∃ t, exec (.declarePending tag) s = .next t
          ∧ t.tc.state = .seek ∧ t.tc.j = s.tc.j ∧ t.tc.op = none ∧ t.tc.loweringDue = false
          ∧ (s.lc.preview = none → t.lc = s.lc ∧ t.di = s.di)
          ∧ (s.lc.preview.isSome = true → t.lc.preview = none ∧ t.lc.lastEnd = some .cut ∧ t.dark)
          ∧ t = { s with tc := t.tc, lc := t.lc, di := t.di, lk := t.lk }
          ∧ (s.lk.sending = none →
              t.lk.sending = some (.reply { kind := 0xA5#8, tag := tag, result := .ok, body := [] })))

/-- RECOVER is refused with STATE outside SAFE-STOP and ATTENTION, with GUARD with the guard open, and with STATE with a
leaf on the head in ATTENTION or in a SAFE-STOP of origin HOMING; else it is ACCEPTED (R51, R52). A SAFE-STOP is resolved by
its origin as Table 2-7 gives, a raise ending at once with the UP switch made: then, and from SEEK, the recovery is told
DONE in that event. From ATTENTION the vacuum goes off, the held work is dropped, and homing begins; with both switches made
TC is in SEEK and the homing told DONE (R52, R53). No run's end has marked the operation (log entry 19); a leaf released
back leaves the sensor's level 0 (log entry 12). That a return to park waits for a new ARM_PARK_MADE, also with the switch
made, and that a homing from ATTENTION is told with the kind HOMING, are the model's choices, log entries 40 and 16; so is
the leaf-in-hand flag on such a return, log entry 47. -/
def Obligations.RecoverResolvesTheStop : Prop :=
  ∀ (tag : Byte) (s : State), s.serves → s.runActive = false →
    (s.tc.state ≠ .safeStop → s.tc.state ≠ .attention →
      exec (.recover tag) s = .next (s.answeredWith 0x27#8 tag .state))
    ∧ ((s.tc.state = .safeStop ∨ s.tc.state = .attention) → s.pins.guardOpen = true →
      exec (.recover tag) s = .next (s.answeredWith 0x27#8 tag .guard))
    ∧ ((s.tc.state = .attention ∨ (s.tc.state = .safeStop ∧ s.tc.origin = some .homing)) → s.pins.guardOpen = false →
        s.pins.leafSensor ≠ .zero →
      exec (.recover tag) s = .next (s.answeredWith 0x27#8 tag .state))
    ∧ (s.tc.state = .safeStop → s.pins.guardOpen = false → s.tc.stopMark = false →
        -- a raise, or none where the UP switch is made
        (∀ o goal st due, s.tc.origin = some o →
          ((goal = .halted ∧ st = .halted ∧ due = s.tc.loweringDue ∧ (o = .unclamped ∨ o = .clamped ∨ o = .halted))
            ∨ (goal = .halted ∧ st = .halted ∧ due = true ∧ o = .lowering)
            ∨ (goal = .halted ∧ st = .halted ∧ due = s.tc.loweringDue ∧ o = .raising ∧ s.tc.faultPending = false
              ∧ ∀ b, s.tc.raiseGoal ≠ some (.dismount b))
            ∨ (goal = .attention ∧ st = .attention ∧ due = s.tc.loweringDue ∧ o = .attention)
            ∨ (goal = .attention ∧ st = .attention ∧ due = s.tc.loweringDue ∧ o = .raising ∧ s.tc.faultPending = true
              ∧ ∀ b, s.tc.raiseGoal ≠ some (.dismount b))) →
          (s.pins.platenUp = false →
            exec (.recover tag) s
              = .next (State.answeredWith 0x27#8 tag .accepted { s with tc := { s.tc with
                  state := .raising, phaseStart := s.now, dwellStart := none, atForce := false, loweringDue := due
                  recover := some goal, raiseGoal := some .recover } }))
          ∧ (s.pins.platenUp = true →
            ∃ t, exec (.recover tag) s = .next t ∧ t.tc.state = st ∧ t.tc.j = s.tc.j ∧ t.tc.origin = none
              ∧ t.tc.recover = none
              ∧ (st = .halted → t.tc.op = s.tc.op ∧ t.tc.loweringDue = due)
              ∧ t = { s with tc := t.tc, rc := t.rc, lk := t.lk }
              ∧ (s.lk.sending = none →
                  t.lk.sending = some (.reply { kind := 0xA7#8, tag := tag, result := .accepted, body := [] }))
              ∧ (s.set.noticeMask.getLsbD 3 = true → t.lk.gathered.turnEnd = some
                  { kind := .recover, result := .done, turned := (s.tc.op.map Op.turned).getD 0
                    remaining := (s.tc.op.map Op.remaining).getD 0, j := s.tc.j, state := st })))
        ∧ (s.tc.origin = some .seek →
            ∃ t, exec (.recover tag) s = .next t ∧ t.tc.state = .seek ∧ t.tc.j = s.tc.j ∧ t.tc.origin = none
              ∧ t = { s with tc := t.tc, rc := t.rc, lk := t.lk }
              ∧ (s.lk.sending = none →
                  t.lk.sending = some (.reply { kind := 0xA7#8, tag := tag, result := .accepted, body := [] }))
              ∧ (s.set.noticeMask.getLsbD 3 = true → t.lk.gathered.turnEnd = some
                  { kind := .recover, result := .done, turned := (s.tc.op.map Op.turned).getD 0
                    remaining := (s.tc.op.map Op.remaining).getD 0, j := s.tc.j, state := .seek }))
        -- the strokes of a turn
        ∧ (s.tc.leafInHand = true → s.pins.leafSensor ≠ .zero → s.tc.origin = some .lifting →
            exec (.recover tag) s
              = .next (State.answeredWith 0x27#8 tag .accepted { s with
                  pins := { s.pins with leafSensor := .zero }
                  tc := { s.tc with
                    state := .returning, phaseStart := s.now, recover := some .halted, returnGoal := some .recover
                    leafInHand := false, vacuum := false, knife := 0 } }))
        ∧ (s.tc.leafInHand = true → s.pins.leafSensor = .zero →
            (s.tc.origin = some .lifting ∨ s.tc.origin = some .carrying) →
            exec (.recover tag) s
              = .next (State.answeredWith 0x27#8 tag .accepted { s with tc := { s.tc with
                  state := .returning, phaseStart := s.now, recover := some .seek, returnGoal := some .recover
                  vacuum := false, knife := 0, loweringDue := false
                  op := s.tc.op.map fun o => { o with remaining := 0 } } }))
        ∧ (∀ st, ((st = .carrying ∧ s.tc.leafInHand = true ∧ s.pins.leafSensor ≠ .zero) ∨ st = .releasing
              ∨ st = .returning) → s.tc.origin = some st →
            exec (.recover tag) s
              = .next (State.answeredWith 0x27#8 tag .accepted { s with tc := { s.tc with
                  state := st, phaseStart := s.now, recover := some .halted, returnGoal := some .recover } }))
        ∧ (∀ b, s.tc.origin = some .raising → s.tc.raiseGoal = some (.dismount b) → s.pins.platenUp = false →
            exec (.recover tag) s
              = .next (State.answeredWith 0x27#8 tag .accepted { s with tc := { s.tc with
                  state := .raising, phaseStart := s.now, dwellStart := none, atForce := false
                  recover := some .dismounted } })))
    ∧ (((s.tc.state = .attention ∧ s.sau.volume.isSome = true)
          ∨ (s.tc.state = .safeStop ∧ s.tc.origin = some .homing)) → s.pins.guardOpen = false →
        s.pins.leafSensor = .zero →
        ∃ t, exec (.recover tag) s = .next t ∧ t.tc.j = s.tc.j ∧ t.tc.attention = none ∧ t.tc.vacuum = false
          ∧ t.tc.knife = 0 ∧ t = { s with tc := t.tc, rc := t.rc, lk := t.lk }
          ∧ (s.lk.sending = none →
              t.lk.sending = some (.reply { kind := 0xA7#8, tag := tag, result := .accepted, body := [] }))
          ∧ (s.pins.platenUp = false → t.tc.state = .homing ∧ t.tc.homePhase = some .platen ∧ t.tc.phaseStart = s.now)
          ∧ (s.pins.platenUp = true → s.pins.armPark = false →
              t.tc.state = .homing ∧ t.tc.homePhase = some .arm ∧ t.tc.phaseStart = s.now)
          ∧ (s.tc.state = .attention → t.tc.op = none)
          ∧ (s.tc.state = .attention → s.pins.platenUp = true → s.pins.armPark = true →
              t.tc.state = .seek ∧ (s.set.noticeMask.getLsbD 3 = true → t.lk.gathered.turnEnd = some
                { kind := .homing, result := .done, turned := 0, remaining := 0, j := s.tc.j, state := .seek })))

/-- A report on an unmarked lift attempt: one leaf begins the carry; a miss or a double within the class retry limit counts
one retry, raises the air-knife level by 1 up to 9, and begins the next attempt (R27, R28, R34); a double is reported as
DOUBLE-DETECTED first. Above the limit the leaf is exhausted: MISS-EXHAUSTED or DOUBLE-EXHAUSTED is reported with the leaf,
the attempts and the air-knife level, and the arm returns; at park TC enters ATTENTION with the leaf-in-hand flag as it
stands, and the turn ends FAULT (R29). The park switch opens as an attempt begins (log entry 11), the sensor's level becomes
0 with a release (log entry 12), and outside LIFTING and ATTENTION a report changes the level alone (log entry 4): the
model's choices. -/
def Obligations.LeafReportsDecideTheAttempt : Prop :=
  ∀ s : State, s.quiet →
    (s.tc.state = .lifting → s.tc.haltMark = false →
      exec (.leafSensorReport .one) s
        = .next (State.kick { s with
            pins := { s.pins with leafSensor := .one }
            tc := { s.tc with state := .carrying, phaseStart := s.now, knife := 0 } }))
    ∧ (∀ v, s.tc.state = .lifting → s.tc.haltMark = false → s.sau.volume = some v →
        s.tc.attempt ≤ v.limits.retryLimit →
        exec (.leafSensorReport .zero) s
          = .next (State.kick { s with
              pins := { s.pins with leafSensor := .zero, armPark := false }
              tc := { s.tc with
                missRetries := min 65535 (s.tc.missRetries + 1), attempt := s.tc.attempt + 1
                air := min 9 (s.tc.air + 1), knife := min 9 (s.tc.air + 1), phaseStart := s.now, vacuum := true
                leafInHand := true, raiseGoal := none, returnGoal := none } })
        ∧ exec (.leafSensorReport .many) s
          = .next (State.kick (State.report .doubleDetected [s.tc.nextLeaf, s.tc.attempt] { s with
              pins := { s.pins with leafSensor := .zero, armPark := false }
              tc := { s.tc with
                doubleRetries := min 65535 (s.tc.doubleRetries + 1), attempt := s.tc.attempt + 1
                air := min 9 (s.tc.air + 1), knife := min 9 (s.tc.air + 1), phaseStart := s.now, vacuum := true
                leafInHand := true, raiseGoal := none, returnGoal := none } })))
    ∧ (∀ (v : Volume) (o : Op) (r : LeafReport) (code : FaultCode) (first : State), s.tc.state = .lifting →
        s.tc.haltMark = false → s.sau.volume = some v → s.tc.op = some o → o.kind = .turn → s.tc.attention = none →
        v.limits.retryLimit < s.tc.attempt →
        ((r = .zero ∧ code = .missExhausted ∧ first = s)
          ∨ (r = .many ∧ code = .doubleExhausted ∧ first = s.report .doubleDetected [s.tc.nextLeaf, s.tc.attempt])) →
        ∃ t, exec (.leafSensorReport r) s = .next t
          ∧ t.tc = { s.tc with
              state := .returning, phaseStart := s.now, vacuum := false, knife := 0, returnGoal := some .exhausted
              attention := some { code := code, sign := some o.forward, remaining := o.remaining } }
          ∧ t.fb = (first.report code [s.tc.nextLeaf, s.tc.attempt, s.tc.air]).fb
          ∧ t.pins = { s.pins with leafSensor := .zero }
          ∧ t = { s with pins := t.pins, tc := t.tc, fb := t.fb, lk := t.lk })
    ∧ (∀ o : Op, s.tc.state = .returning → s.tc.returnGoal = some .exhausted → s.tc.resetStroke = false →
        s.tc.recover = none → s.tc.op = some o → s.runActive = false →
        ∃ t, exec .armParkMade s = .next t ∧ t.tc.state = .attention ∧ t.tc.op = none ∧ t.tc.j = s.tc.j
          ∧ t.tc.leafInHand = s.tc.leafInHand ∧ t.tc.attention = s.tc.attention
          ∧ t.pins = { s.pins with armPark := true } ∧ t.sau = s.sau ∧ t.lc = s.lc ∧ t.di = s.di ∧ t.fb = s.fb
          ∧ (s.set.noticeMask.getLsbD 3 = true → s.lk.sending.isSome = true → t.lk.gathered.turnEnd = some
              { kind := o.kind, result := .fault, turned := o.turned, remaining := o.remaining, j := s.tc.j
                state := .attention }))
    ∧ (∀ r, s.tc.state ≠ .lifting → s.tc.state ≠ .attention →
        exec (.leafSensorReport r) s = .next (State.kick { s with pins := { s.pins with leafSensor := r } }))

/-- END_OF_SWEEP in CARRYING: j changes by the sign of the turn, the remaining count falls and the leaves turned rise by 1,
the turns-completed counter rises, the leaf-in-hand flag is cleared, and TC enters RELEASING (R30). RELEASE_HEAD_UP in
RELEASING: the vacuum is off and TC enters RETURNING (R31). The leaf sensor's level becomes 0 with the release, and in
another state neither event changes anything: the model's choices, log entries 12 and 4. -/
def Obligations.CarriesAndReleasesEnd : Prop :=
  ∀ s : State, s.quiet →
    (∀ o, s.tc.state = .carrying → s.tc.op = some o →
      exec .endOfSweep s
        = .next (State.kick { s with tc := { s.tc with
            state := .releasing, phaseStart := s.now
            j := if o.forward then s.tc.j + 1 else s.tc.j - 1
            leafInHand := false
            op := some { o with remaining := o.remaining - 1, turned := o.turned + 1 }
            turnsDone := min 65535 (s.tc.turnsDone + 1) } }))
    ∧ (s.tc.state ≠ .carrying → exec .endOfSweep s = .next s.kick)
    ∧ (s.tc.state = .releasing → s.tc.recover = none →
        exec .releaseHeadUp s
          = .next (State.kick { s with
              pins := { s.pins with leafSensor := .zero }
              tc := { s.tc with state := .returning, phaseStart := s.now, vacuum := false, knife := 0
                                returnGoal := some .turn } }))
    ∧ (s.tc.state ≠ .releasing → exec .releaseHeadUp s = .next s.kick)

/-- ARM_PARK_MADE at the end of an unmarked turn's return: with leaves remaining and no foldout next, the first attempt on
the next leaf begins at the class start level; with none remaining TC enters LOWERING where clamp-after is set, or the turn
started from CLAMPED under a CLAMP policy, and else the turn ends DONE in UNCLAMPED (R31, R32, R33). The switches open as
the next motion begins: the model's choice, log entry 11. In HOMING the switch ends the arm's phase, and the homing with it:
TC is in UNCLAMPED, or in SEEK after RECOVER in ATTENTION with a volume mounted, and j stands; at cold start start-up ends
with START, and else a TURN notice tells it (R53, R191; the kind told: log entry 16; the selector's state in START: log entry
58). In the platen's phase the switch alone changes. -/
def Obligations.ReturnsEndAtPark : Prop :=
  (∀ (s : State) (o : Op) (v : Volume), s.quiet → s.runActive = false → s.tc.state = .returning →
    s.tc.resetStroke = false → s.tc.recover = none → s.tc.returnGoal = some .turn → s.tc.stopMark = false →
    s.tc.haltMark = false → s.tc.op = some o → s.sau.volume = some v →
    (0 < o.remaining → v.foldouts.contains (if o.forward then s.tc.j + 1 else s.tc.j) = false →
      exec .armParkMade s
        = .next (State.kick { s with tc := { s.tc with
            state := .lifting, phaseStart := s.now, attempt := 1, air := v.limits.airStart
            knife := v.limits.airStart, vacuum := true, leafInHand := true, raiseGoal := none
            returnGoal := none }
                                     pins := { s.pins with armPark := false } }))
    ∧ (o.remaining = 0 → (o.clampAfter = true ∨ (o.fromClamped = true ∧ v.limits.policy = .clamp)) →
        exec .armParkMade s
          = .next (State.kick { s with
              pins := { s.pins with armPark := true, platenUp := false }
              tc := { s.tc with state := .lowering, phaseStart := s.now, loweringDue := false } }))
    ∧ (o.remaining = 0 → o.clampAfter = false → (o.fromClamped = false ∨ v.limits.policy = .free) →
        ∃ t, exec .armParkMade s = .next t ∧ t.tc.state = .unclamped ∧ t.tc.j = s.tc.j ∧ t.tc.op = none
          ∧ t.pins = { s.pins with armPark := true } ∧ t.sau = s.sau ∧ t.lc = s.lc ∧ t.di = s.di ∧ t.fb = s.fb
          ∧ (s.set.noticeMask.getLsbD 3 = true → s.lk.sending.isSome = true →
              t.lk.gathered.turnEnd = some
                { kind := o.kind, result := .done, turned := o.turned, remaining := 0, j := s.tc.j
                  state := .unclamped })))
  ∧ ∀ s : State, s.quiet → s.runActive = false → s.tc.state = .homing →
      (s.tc.homePhase ≠ some .arm →
        exec .armParkMade s = .next (State.kick { s with pins := { s.pins with armPark := true } }))
      ∧ (s.tc.homePhase = some .arm →
          ∃ t, exec .armParkMade s = .next t ∧ homed s.tc.homeCause s t
            ∧ t = { s with
                pins := { s.pins with armPark := true }, tc := t.tc, start := t.start, rc := t.rc, lk := t.lk })

/-- PLATEN_UP_MADE ends the raise of an UNCLAMP in UNCLAMPED, and begins the first leaf of a turn taken from CLAMPED (R25,
R36). FORCE_READING: in LOWERING a reading at the lowering threshold or above, and not above the overforce limit, ends a
CLAMP in CLAMPED and starts the dwell timer (R37, R40); one below the threshold changes the reading alone. A force reading
above the overforce limit, the lower of 3/2 of the target and 3600, is reported with the reading and the target; from
CLAMPED with no ticket OPEN and no preview lit TC raises the platen toward ATTENTION (R38). The park switch opens as the
attempt begins, and the overforce test goes before that of the lowering threshold: the model's choices, log entries 11 and
14. In HOMING the UP switch ends the platen's phase: the arm's begins, or with the park switch made the homing ends, told by
START and the end of start-up at cold start, and else by a TURN notice (R53, R191; log entries 16 and 58). -/
def Obligations.PlatenMovesEnd : Prop :=
  (∀ (s : State) (v : Volume), s.quiet → s.runActive = false → s.sau.volume = some v → s.tc.stopMark = false →
      s.tc.haltMark = false → s.tc.recover = none →
      (s.tc.state = .raising → s.tc.raiseGoal = some .unclamp →
        ∃ t, exec .platenUpMade s = .next t ∧ t.tc.state = .unclamped ∧ t.tc.op = none ∧ t.tc.j = s.tc.j
          ∧ t.pins = { s.pins with platenUp := true } ∧ t.sau = s.sau ∧ t.lc = s.lc ∧ t.di = s.di ∧ t.fb = s.fb)
      ∧ (s.tc.state = .raising → s.tc.raiseGoal = some .lift →
          exec .platenUpMade s
            = .next (State.kick { s with
                pins := { s.pins with platenUp := true, armPark := false }
                tc := { s.tc with
                  atForce := false, state := .lifting, phaseStart := s.now, attempt := 1
                  air := v.limits.airStart, knife := v.limits.airStart, vacuum := true, leafInHand := true
                  raiseGoal := none, returnGoal := none } }))
      ∧ (∀ x, s.tc.state = .lowering → v.limits.forceTarget - v.limits.forceTarget / 20 ≤ x →
          x ≤ min (3 * v.limits.forceTarget / 2) 3600 →
          ∃ t, exec (.forceReading x) s = .next t ∧ t.tc.state = .clamped ∧ t.tc.atForce = true ∧ t.tc.force = x
            ∧ t.tc.dwellStart = some (s.now / 1000) ∧ t.tc.op = none ∧ t.tc.j = s.tc.j
            ∧ t.pins = s.pins ∧ t.sau = s.sau ∧ t.lc = s.lc ∧ t.di = s.di ∧ t.fb = s.fb)
      ∧ (∀ x, x < v.limits.forceTarget - v.limits.forceTarget / 20 → x ≤ min (3 * v.limits.forceTarget / 2) 3600 →
          exec (.forceReading x) s = .next (State.kick { s with tc := { s.tc with force := x } })))
  ∧ (∀ (s : State) (v : Volume) (x : Nat), s.quiet → s.sau.volume = some v → s.ticketOpen = false →
      s.lc.preview = none → s.tc.state = .clamped → s.pins.platenUp = false → s.tc.attention = none → s.tc.op = none →
      min (3 * v.limits.forceTarget / 2) 3600 < x →
      ∃ t, exec (.forceReading x) s = .next t
        ∧ t.fb = (s.report .platenOverforce [x, v.limits.forceTarget]).fb
        ∧ t.tc.state = .raising ∧ t.tc.raiseGoal = some .fault ∧ t.tc.dwellStart = none
        ∧ t.tc.attention = some { code := .platenOverforce, sign := none, remaining := 0 }
        ∧ t.tc.j = s.tc.j ∧ t.tc.force = x ∧ t.pins = s.pins ∧ t.sau = s.sau ∧ t.lc = s.lc ∧ t.di = s.di)
  ∧ (∀ s : State, s.quiet → s.runActive = false → s.tc.state = .homing →
      (s.tc.homePhase ≠ some .platen →
        exec .platenUpMade s = .next (State.kick { s with
          pins := { s.pins with platenUp := true }, tc := { s.tc with atForce := false } }))
      ∧ (s.tc.homePhase = some .platen → s.pins.armPark = false →
          exec .platenUpMade s = .next (State.kick { s with
            pins := { s.pins with platenUp := true }
            tc := { s.tc with atForce := false, homePhase := some .arm, phaseStart := s.now } }))
      ∧ (s.tc.homePhase = some .platen → s.pins.armPark = true →
          ∃ t, exec .platenUpMade s = .next t ∧ homed s.tc.homeCause s t
            ∧ t = { s with
                pins := { s.pins with platenUp := true }, tc := t.tc, start := t.start, rc := t.rc, lk := t.lk }))

/-- GUARD_OPEN after start-up, outside SAFE-STOP and with no stroke of a warm reset: every bank is dark, TC is in SAFE-STOP
with the state it left as its origin and the air knife off, GUARD-OPEN is reported, and an ACTIVE run is PAUSED with GUARD
(R50, R153). A capture in progress is cut: each side without a result takes GUARD-CUT, and in SETTLE or WAIT-EDGE the ticket
closes in that event; in EXPOSE it stays OPEN (R121). GUARD_CLOSE after start-up changes the pin alone. In SAFE-STOP a guard
opening changes the pin alone. While the part is starting GUARD_OPEN is reported and notified, every bank is dark, and a
homing under way stops: the sequence waits for the guard, and counts that wait. GUARD_CLOSE in the guard wait begins homing
from its beginning; with both switches made start-up ends (R50, R53, R191; TC stays in HOMING: log entry 20; the selector's
state in START: log entry 58). -/
def Obligations.GuardStopsThePart : Prop :=
  (∀ s : State, s.quiet → s.starting = false → s.pins.guardOpen = false → s.tc.state ≠ .safeStop →
    s.tc.resetStroke = false → s.tc.recover = none →
    ∃ t, exec .guardOpen s = .next t
      ∧ t.dark ∧ t.lc.preview = none
      ∧ t.tc.state = .safeStop ∧ t.tc.origin = some s.tc.state ∧ t.tc.knife = 0 ∧ t.tc.j = s.tc.j
      ∧ t.tc.op = s.tc.op ∧ t.tc.dwellStart = none
      ∧ t.pins = { s.pins with guardOpen := true }
      ∧ (s.rc.state = .active → t.rc.state = .paused .guard)
      ∧ t.fb = (s.report .guardOpen [s.tc.state.code]).fb
      ∧ t.sau = s.sau ∧ t.set = s.set ∧ t.now = s.now
      ∧ (∀ pre k, s.cc.tickets = pre ++ [k] → k.closed = false → (s.cc.state = .settle ∨ s.cc.state = .waitEdge) →
          t.cc.state = .idle ∧ t.cc.tickets.getLast? = some { k with
            left := k.left.map fun h => { h with result := some (h.result.getD .guardCut) }
            right := k.right.map fun h => { h with result := some (h.result.getD .guardCut) }
            closed := true, closeTime := some (s.now / 1000) })
      ∧ (∀ pre k, s.cc.tickets = pre ++ [k] → k.closed = false → s.cc.state = .expose →
          t.cc.state = .expose ∧ t.cc.tickets.getLast? = some { k with
            left := k.left.map fun h => { h with result := some (h.result.getD .guardCut) }
            right := k.right.map fun h => { h with result := some (h.result.getD .guardCut) } }))
  ∧ (∀ s : State, s.quiet → s.starting = false →
      exec .guardClose s = .next (State.kick { s with pins := { s.pins with guardOpen := false } })
      ∧ (s.tc.state = .safeStop →
          exec .guardOpen s = .next (State.kick { s with pins := { s.pins with guardOpen := true } })))
  -- while the part is starting
  ∧ ∀ s : State, s.quiet → s.starting = true →
      (s.pins.guardOpen = false → s.tc.state = .homing →
        ∃ t, exec .guardOpen s = .next t ∧ t.dark ∧ t.fb = (s.report .guardOpen [s.tc.state.code]).fb
          ∧ (s.set.noticeMask.getLsbD 0 = true → s.lk.sending.isSome = true → t.lk.pendingSet.getLsbD 0 = true)
          ∧ t.start = (if s.start.phase = .homing then
              { s.start with phase := .guardWait, guardWaits := s.start.guardWaits + 1 } else s.start)
          ∧ t.tc = (if s.start.phase = .homing then { s.tc with homePhase := none } else s.tc)
          ∧ t = { s with
              pins := { s.pins with guardOpen := true }, tc := t.tc, lc := t.lc, di := t.di, fb := t.fb
              start := t.start, lk := t.lk })
      ∧ (s.pins.guardOpen = true → s.start.phase = .guardWait →
          ∃ t, exec .guardClose s = .next t ∧ coldHoming s t
            ∧ t = { s with pins := { s.pins with guardOpen := false }, tc := t.tc, start := t.start, lk := t.lk })
      ∧ ((s.pins.guardOpen = false ∨ s.start.phase ≠ .guardWait) →
          exec .guardClose s = .next (State.kick { s with pins := { s.pins with guardOpen := false } }))

/-- STROKE_TIMEOUT of a phase of an arm stroke or of RAISING: the fault is reported with phase, j, direction, attempt,
air-knife level and force, the operation ends FAULT, and TC is in ATTENTION at the instant of the limit; one of LOWERING
ends the operation FAULT and raises the platen toward ATTENTION (R39, R48; the notice's state RAISING: log entry 15).
HOME_FAIL: HOME-FAIL is reported with the phase, and TC is in ATTENTION; after a warm reset or a RECOVER a TURN notice tells
the homing's end FAULT, and at cold start start-up ends, with START naming the phase (R53, R191; the kind told: log entry 16;
the selector's state in START: log entry 58). DWELL_EXPIRY in CLAMPED at the class limit: with a ticket OPEN the raise waits
for its close; else, with no preview lit, TC raises the platen as an UNCLAMP and the DWELL notice is made pending; in HALTED
TC raises it and keeps its record (R41). The timers' clock: log entry 3. -/
def Obligations.MotionAndDwellLimits : Prop :=
  (∀ (s : State) (o : Op) (limit due : Nat) (told : TcState), s.quiet → s.runActive = false → s.tc.op = some o →
      s.tc.resetStroke = false → s.tc.attention = none → due = s.tc.phaseStart + limit * 1000 → s.endsNow due →
      ((told = .attention ∧ (s.tc.state, limit) ∈ [(.lifting, 2000), (.carrying, 3000), (.releasing, 1500),
          (.returning, 2000), (.raising, 1500)])
        ∨ (told = .raising ∧ s.tc.state = .lowering ∧ limit = 2000)) →
      ∃ t, exec .strokeTimeout s = .next t
        ∧ t.now = max s.now due
        ∧ t.tc.state = told ∧ t.tc.op = none ∧ t.tc.j = s.tc.j ∧ t.tc.leafInHand = s.tc.leafInHand
        ∧ t.tc.vacuum = s.tc.vacuum
        ∧ (told = .attention → t.tc.knife = 0)
        ∧ (told = .raising → t.tc.raiseGoal = some .fault ∧ t.tc.phaseStart = t.now)
        ∧ t.tc.attention = some { code := .strokeTimeout, sign := if o.kind = .turn then some o.forward else none
                                  remaining := o.remaining }
        ∧ t.fb = (State.report .strokeTimeout
            [s.tc.state.code, s.tc.j, if o.kind = .turn then (if o.forward then 0 else 1) else 2, s.tc.attempt, s.tc.air,
             s.tc.force] { s with now := max s.now due }).fb
        ∧ (s.set.noticeMask.getLsbD 3 = true → s.lk.sending.isSome = true → t.lk.gathered.turnEnd = some
            { kind := if s.tc.recover.isSome then .recover else o.kind, result := .fault, turned := o.turned
              remaining := o.remaining, j := s.tc.j, state := told })
        ∧ t.pins = s.pins ∧ t.sau = s.sau ∧ t.lc = s.lc ∧ t.di = s.di ∧ t.set = s.set)
  ∧ (∀ (s : State) (part : HomePart) (due : Nat), s.quiet → s.runActive = false → s.tc.state = .homing →
      s.tc.homePhase = some part → due = s.tc.phaseStart + 3000000 → s.endsNow due →
      ∃ t, exec .homeFail s = .next t
        ∧ t.now = max s.now due
        ∧ t.tc.state = .attention ∧ t.tc.op = none ∧ t.tc.j = s.tc.j
        ∧ t.tc.attention = some { code := .homeFail, sign := none, remaining := 0 }
        ∧ t.fb = (State.report .homeFail [match part with
              | .platen => 0
              | .arm => 1] { s with now := max s.now due }).fb
        ∧ homingTold (.failed part) .fault s t
        ∧ t.pins = s.pins ∧ t.sau = s.sau ∧ t.lc = s.lc ∧ t.di = s.di ∧ t.set = s.set)
  ∧ (∀ (s : State) (v : Volume) (began due : Nat), s.quiet → s.sau.volume = some v → s.tc.dwellStart = some began →
      due = (began + v.limits.dwellLimit * 1000) * 1000 → s.endsNow due →
      (s.tc.state = .clamped → s.tc.pendingDwell = false → s.ticketOpen = true →
        exec .dwellExpiry s
          = .next (State.kick { s with now := max s.now due, tc := { s.tc with pendingDwell := true } }))
      ∧ (s.tc.state = .clamped → s.tc.pendingDwell = false → s.ticketOpen = false → s.lc.preview = none →
          ∃ t, exec .dwellExpiry s = .next t
            ∧ t.now = max s.now due
            ∧ t.tc.state = .raising ∧ t.tc.raiseGoal = some .unclamp ∧ t.tc.dwellStart = none
            ∧ (t.tc.op.map Op.kind) = some .unclamp ∧ t.tc.j = s.tc.j
            ∧ (s.set.noticeMask.getLsbD 10 = true → s.lk.sending.isSome = true → t.lk.pendingSet.getLsbD 10 = true)
            ∧ t = { s with now := t.now, tc := t.tc, lk := t.lk })
      ∧ (s.tc.state = .halted →
          ∃ t, exec .dwellExpiry s = .next t
            ∧ t.now = max s.now due
            ∧ t.tc.state = .raising ∧ t.tc.raiseGoal = some .backToHalted ∧ t.tc.dwellStart = none
            ∧ t.tc.op = s.tc.op ∧ t.tc.j = s.tc.j
            ∧ (s.set.noticeMask.getLsbD 10 = true → s.lk.sending.isSome = true → t.lk.pendingSet.getLsbD 10 = true)
            ∧ t = { s with now := t.now, tc := t.tc, lk := t.lk }))

/-! ### Illumination (03) -/

/-- PREVIEW: its first tests in order, and its effect where every test passes: the enabled healthy banks of the profile are
lit at its levels (FIXED) or at its learned levels, at least 1 (HELD-LUX), the window is a PREVIEW, and the preview is LIT
to its end time (R56, R59, R68, R69). PREVIEW OFF ends a LIT preview with OFF, and answers NONE with none lit (R71). -/
def Obligations.PreviewsLightAndEnd : Prop :=
  (∀ (tag : Byte) (profile duration : Nat) (s : State), s.serves →
      (s.sau.volume = none → exec (.preview tag profile duration) s = .next (s.answeredWith 0x30#8 tag .notMounted))
      ∧ (s.sau.volume.isSome = true → 3 < profile →
          exec (.preview tag profile duration) s = .next (s.answeredWith 0x30#8 tag .argument))
      ∧ (s.sau.volume.isSome = true → profile ≤ 3 → (s.runActive = true ∨ s.settled = false) →
          exec (.preview tag profile duration) s = .next (s.answeredWith 0x30#8 tag .state))
      ∧ (s.sau.volume.isSome = true → profile ≤ 3 → s.runActive = false → s.settled = true →
          (s.ticketOpen = true ∨ s.lc.preview.isSome = true) →
          exec (.preview tag profile duration) s = .next (s.answeredWith 0x30#8 tag .busy))
      ∧ (∀ p, p = profileAt s.set.profiles profile → s.sau.volume.isSome = true → profile ≤ 3 → s.runActive = false →
          s.settled = true → s.ticketOpen = false → s.lc.preview = none → s.cc.sync.state.admits = true →
          s.anyUsable p = true → s.di.sensorDark = false →
          s.doseRefusal p (max 1 (min 30 duration) * 1000) = none →
          ∃ t, exec (.preview tag profile duration) s = .next t
            ∧ (∀ b, (t.lc.banks.get b).level
                = (if p.enabled.get b = true ∧ (s.lc.banks.get b).faulted = false then
                    (match p.mode with
                     | .fixed => p.levels.get b
                     | .heldLux => max 1 ((learnedAt s.lc.learned profile).get b))
                  else 0)
                ∧ (t.lc.banks.get b).lit = decide (1 ≤ (t.lc.banks.get b).level))
            ∧ (t.lc.window.map Window.kind) = some .preview
            ∧ t.lc.preview = some { profile := profile, start := s.now / 1000
                                    finish := s.now / 1000 + max 1 (min 30 duration) * 1000 }
            ∧ t = { s with lc := t.lc, lk := t.lk }
            ∧ (s.lk.sending = none → t.lk.sending = some (.reply { kind := 0xB0#8, tag := tag, result := .ok, body :=
                [.num (max 1 (min 30 duration)), .flag (decide (duration < 1 ∨ 30 < duration))] }))))
  ∧ (∀ (tag : Byte) (s : State), s.serves →
      (s.lc.preview = none → exec (.previewOff tag) s = .next (s.answeredWith 0x31#8 tag .absent))
      ∧ (s.lc.preview.isSome = true →
          ∃ learned, ((s.lc.window.map Window.kind) ≠ some .capture → learned = s.lc.learned)
            ∧ exec (.previewOff tag) s
              = .next (State.answeredWith 0x31#8 tag .ok { s with
                  lc := { s.lc with
                    banks := s.lc.banks.map fun b => { b with lit := false, level := 0 }
                    window := none, preview := none, lastEnd := some .off, learned := learned }
                  di := if s.anyLit then { s.di with satCount := 0, darkCount := 0 } else s.di })))

/-- When the elapsed clock reaches a LIT preview's end time, the preview ends EXPIRED: every bank goes dark, the window
state becomes NONE, regulation stops, the preview state becomes OFF with last end EXPIRED, and no notice is sent (R70). -/
def Obligations.PreviewExpires : Prop :=
  ∀ (s : State) (p : Preview), s.quiet → s.lc.preview = some p → p.finish ≤ s.now / 1000 →
    ∃ learned, ((s.lc.window.map Window.kind) ≠ some .capture → learned = s.lc.learned)
      ∧ exec .previewExpiry s
        = .next (State.kick { s with
            lc := { s.lc with
              banks := s.lc.banks.map fun b => { b with lit := false, level := 0 }
              window := none, preview := none, lastEnd := some .expired, learned := learned }
            di := if s.anyLit then { s.di with satCount := 0, darkCount := 0 } else s.di })

/-- PROFILE LEVEL: refused with ARGUMENT for a profile above 3 or another value of bank or action; else the new level, UP,
DOWN or SET clamped to 0 to 99, is written into the profile and is that bank's learned level (R64). -/
def Obligations.ProfileLevelStepsOneBank : Prop :=
  ∀ (tag : Byte) (profile : Nat) (s : State), s.serves →
    (∀ bank action, (3 < profile ∨ bank = none ∨ action = none) →
      exec (.profileLevel tag profile bank action) s = .next (s.answeredWith 0x32#8 tag .argument))
    ∧ (∀ (b : LampBank) (a : LevelAction) (p : Profile) (l : PerBank Nat) (level : Nat) (clamped : Bool),
        profile ≤ 3 → p = profileAt s.set.profiles profile → l = learnedAt s.lc.learned profile →
        (level, clamped) = (match a with
          | .up => (min 99 (p.levels.get b + 1), decide (99 ≤ p.levels.get b))
          | .down => (p.levels.get b - 1, decide (p.levels.get b = 0))
          | .set v => (min 99 v, decide (99 < v))) →
        exec (.profileLevel tag profile (some b) (some a)) s
          = .next (State.answered 0x32#8 tag ⟨.ok, [.num level, .flag clamped]⟩ { s with
              set := { s.set with
                profiles := s.set.profiles.set profile { p with levels := p.levels.set b level } }
              lc := { s.lc with learned := s.lc.learned.set profile (l.set b level) } }))

/-- BANK_CURRENT_FAULT on a lit bank in the on-share of its frame, another bank staying lit: that bank is dark and faulted
with the kind, the fault is reported with the bank, the others keep their records, and the ticket of a capture window is
marked LAMP-DEGRADED (R65, R66). On the last lit bank of a preview it ends the preview with DARK (R66, R72). A report outside
the on-share of a frame, or of a dark bank, changes nothing. LAMP CLEAR returns a bank to service, or lifts the sensor-dark
block, and says whether there was something to clear; another target is refused with ARGUMENT (R67). -/
def Obligations.BanksFaultAndAreCleared : Prop :=
  (∀ (b : LampBank) (r : CurrentReport) (s : State) (code : FaultCode) (detail : Nat) (rec : BankRec), s.quiet →
    code = (match r with
      | .low => .bankOpen
      | .high => .bankShort) →
    detail = (match b with
      | .la => 0
      | .lb => 1
      | .ra => 2
      | .rb => 3) →
    rec = { (s.lc.banks.get b) with lit := false, level := 0, faulted := true, kind := some code } →
    (s.bankOn b = false → exec (.bankCurrentFault b r) s = .next s.kick)
    ∧ (∀ b', s.bankOn b = true → b' ≠ b → (s.lc.banks.get b').lit = true →
        ∃ t, exec (.bankCurrentFault b r) s = .next t
          ∧ t.lc = { s.lc with banks := s.lc.banks.set b rec }
          ∧ t.fb = (s.report code [detail]).fb
          ∧ t.cc = { s.cc with tickets :=
              if s.captureWindow = true then
                s.cc.tickets.map fun k => if k.closed then k else { k with lampDegraded := true }
              else s.cc.tickets }
          ∧ t.di = s.di ∧ t.tc = s.tc ∧ t.sau = s.sau ∧ t.set = s.set ∧ t.pins = s.pins)
    ∧ (∀ p, s.bankOn b = true → (∀ b', b' ≠ b → (s.lc.banks.get b').lit = false) → s.lc.preview = some p →
        (s.lc.window.map Window.kind) = some .preview →
        ∃ t, exec (.bankCurrentFault b r) s = .next t
          ∧ t.dark ∧ (t.lc.banks.get b).faulted = true ∧ (t.lc.banks.get b).kind = some code
          ∧ t.lc.window = none ∧ t.lc.preview = none ∧ t.lc.lastEnd = some .dark ∧ t.lc.learned = s.lc.learned
          ∧ t.fb = (s.report code [detail]).fb
          ∧ t.di = { s.di with satCount := 0, darkCount := 0 }
          ∧ t.cc = s.cc ∧ t.tc = s.tc ∧ t.sau = s.sau ∧ t.set = s.set ∧ t.pins = s.pins))
  ∧ ∀ (tag : Byte) (s : State), s.serves →
      (∀ b, exec (.lampClear tag (some (.bank b))) s
        = .next (State.answered 0x33#8 tag ⟨.ok, [.flag (s.lc.banks.get b).faulted]⟩ { s with
            lc := { s.lc with banks := s.lc.banks.set b { (s.lc.banks.get b) with faulted := false, kind := none } } }))
      ∧ exec (.lampClear tag (some .sensor)) s
        = .next (State.answered 0x33#8 tag ⟨.ok, [.flag s.di.sensorDark]⟩
            { s with di := { s.di with sensorDark := false } })
      ∧ exec (.lampClear tag none) s = .next (s.answeredWith 0x33#8 tag .argument)

/-- A comparison in a HELD-LUX window that is not held: with E below the band of the target every lit bank rises by 1 to 99
at most, above it every lit bank falls by 1 to 1 at least, within it no level changes; dark banks are not stepped, and the
next comparison is one interval on (R61). The band is the target, give or take max(1, floor(E_t / 32)). The frame in progress
keeps its on-share: a new level takes effect at the next frame (R57). The timer's clock: log entry 3. -/
def Obligations.RegulationStepsLitBanks : Prop :=
  ∀ (s : State) (w : Window) (due : Nat), s.quiet → s.lc.window = some w → w.nextCompare = some due → w.held = false →
    s.anyLit = true → s.endsNow due →
    ∃ t, exec .regulationComparison s = .next t
      ∧ t.now = max s.now due
      ∧ t.lc.window = some { w with nextCompare := some (due + w.interval * 1000) }
      ∧ (∀ b, (t.lc.banks.get b).lit = (s.lc.banks.get b).lit
          ∧ (t.lc.banks.get b).faulted = (s.lc.banks.get b).faulted
          ∧ (t.lc.banks.get b).level
            = (if (s.lc.banks.get b).lit = false then (s.lc.banks.get b).level
              else if s.di.lux < w.target - max 1 (w.target / 32) then min 99 ((s.lc.banks.get b).level + 1)
              else if w.target + max 1 (w.target / 32) < s.di.lux then max 1 ((s.lc.banks.get b).level - 1)
              else (s.lc.banks.get b).level)
          ∧ ((s.lc.banks.get b).lit = true → s.lc.frameEdge.getD 0 ≤ t.now →
              t.frameLevel (t.lc.banks.get b) = State.frameLevel (s.lc.banks.get b) { s with now := t.now }))
      ∧ t.lc.learned = s.lc.learned ∧ t = { s with now := t.now, lc := t.lc, lk := t.lk }

/-! ### Light dose (04) -/

/-- SENSOR_READING of a millisecond not yet read, after start-up: E is floor(raw × k / 64). With no bank lit nothing else
changes (R75). With a bank lit, a volume mounted, and readings that are neither 4095 nor 0, the sum of remainder and E is
split into units and remainder, and the units are added to the day dose, to the dose of the current opening and, in a
capture window, to that of the OPEN ticket, while the day dose stays below its warning level (R79, R80). Ten consecutive lit
readings of 4095 make SENSOR-SATURATED; fifty of 0 make SENSOR-DARK: the sensor-dark block stands, every bank is dark, a lit
preview is CUT, and the fault is reported (R76, R77). A capture in progress is cut: each side without a result takes
SENSOR-CUT, and in SETTLE or WAIT-EDGE the ticket closes in that event; in EXPOSE it stays OPEN (R121). Each command brings
the reading that completes the count (log entry 21); the reading of 4095 is taken on a volume whose day dose stays below its
warning level. -/
def Obligations.SensorReadingsAreTaken : Prop :=
  (∀ (s : State) (raw : Nat), s.quiet → s.starting = false → s.di.lastRead ≠ some (s.now / 1000) →
      (s.anyLit = false →
        exec (.sensorReading raw) s
          = .next (State.kick { s with
              pins := { s.pins with sensorRaw := raw }
              di := { s.di with raw := raw, lux := raw * s.set.k / 64, lastRead := some (s.now / 1000) } }))
      ∧ (∀ (v : Volume) (u : Nat), s.anyLit = true → raw ≠ 0 → raw ≠ 4095 →
          s.sau.volume = some v → u = (s.di.remainder + raw * s.set.k / 64) / 1000 →
          (u = 0 ∨ min 4294967295 (s.di.dayDose + u) < v.limits.dayBudget * 7 / 8) →
          ∃ t, exec (.sensorReading raw) s = .next t
            ∧ t.di = { s.di with
                raw := raw, lux := raw * s.set.k / 64, lastRead := some (s.now / 1000), satCount := 0, darkCount := 0
                remainder := (s.di.remainder + raw * s.set.k / 64) % 1000
                dayDose := if u = 0 then s.di.dayDose else min 4294967295 (s.di.dayDose + u) }
            ∧ t.sau = { s.sau with openings := if u = 0 then s.sau.openings
                else s.sau.openings.modify s.tc.j fun o => { o with dose := min 4294967295 (o.dose + u) } }
            ∧ t.cc = { s.cc with tickets := if u = 0 ∨ s.captureWindow = false then s.cc.tickets
                else s.cc.tickets.map fun k => if k.closed then k else { k with dose := min 4294967295 (k.dose + u) } }
            ∧ t = { s with pins := { s.pins with sensorRaw := raw }, di := t.di, sau := t.sau, cc := t.cc, lk := t.lk }))
  ∧ (∀ s : State, s.quiet → s.starting = false → s.di.lastRead ≠ some (s.now / 1000) → s.anyLit = true →
      (∀ v, s.di.satCount = 9 → s.sau.volume = some v →
        s.di.dayDose + (s.di.remainder + 4095 * s.set.k / 64) / 1000 < v.limits.dayBudget * 7 / 8 →
        ∃ t, exec .sensorSaturated s = .next t ∧ t.di.satCount = 10
          ∧ t.fb = (s.report .sensorSaturated []).fb ∧ t.lc = s.lc ∧ t.tc = s.tc ∧ t.set = s.set
          ∧ t.pins = { s.pins with sensorRaw := 4095 })
      ∧ (s.di.darkCount = 49 → s.di.remainder < 1000 → s.runActive = false → s.tc.pendingOverforce = false →
          s.tc.pendingDwell = false →
          ∃ t, exec .sensorDark s = .next t ∧ t.di.sensorDark = true ∧ t.dark ∧ t.lc.preview = none
            ∧ t.lc.lastEnd = (if s.lc.preview.isSome then some .cut else s.lc.lastEnd)
            ∧ t.fb = (s.report .sensorDark []).fb ∧ t.di.dayDose = s.di.dayDose ∧ t.tc = s.tc ∧ t.set = s.set
            ∧ t.sau = s.sau ∧ t.pins = { s.pins with sensorRaw := 0 } ∧ t.now = s.now
            ∧ (s.cc.state = .idle → t.cc = s.cc ∧ t.di.satCount = 0 ∧ t.di.darkCount = 0)
            ∧ (∀ pre k k', s.lc.preview = none → s.cc.tickets = pre ++ [k] → k.closed = false →
                k' = { k with
                  left := k.left.map fun h => { h with result := some (h.result.getD .sensorCut) }
                  right := k.right.map fun h => { h with result := some (h.result.getD .sensorCut) } } →
                ((s.cc.state = .settle ∨ s.cc.state = .waitEdge) → t.cc.state = .idle ∧ t.cc.tickets.getLast?
                    = some { k' with closed := true, closeTime := some (s.now / 1000) })
                ∧ (s.cc.state = .expose → t.cc.state = .expose ∧ t.cc.tickets.getLast? = some k'))))

/-- AMBIENT_ACCRUAL in a whole second not yet charged whose reading has been made (log entry 22), with no bank lit: a volume
whose class asks for it is charged the latest E in lx·s on its day dose and its current opening, while the day dose stays
below its warning level; a volume whose class does not ask for it, and a part with none mounted, are not charged (R81). A
SENSOR_READING in such a millisecond charges that second first, and is then the reading of the next one (log entry 22). A
credit, of room light or of a lit sample, that takes the day dose of a volume to its warning level sets its warning flag and
makes the DOSE notice pending with WARNING (R87). One that takes it to its budget makes the volume EXHAUSTED in that event:
every bank is dark, a lit preview is CUT, and DOSE-EXHAUSTED is reported with the dose and the budget (R85). A lit sample's
units go to the OPEN ticket before the lamps go out; then each side without a result takes DOSE-CUT, and in SETTLE or
WAIT-EDGE the ticket closes in that event; in EXPOSE it stays OPEN (R80, R121). -/
def Obligations.AmbientLightIsCharged : Prop :=
  (∀ s : State, s.quiet → s.di.lastRead = some (s.now / 1000) → (s.now / 1000) % 1000 = 0 →
      s.di.lastAmbient ≠ some (s.now / 1000 / 1000) → s.anyLit = false →
      ((s.sau.volume = none ∨ ∃ v, s.sau.volume = some v ∧ v.limits.ambient = false) →
        exec .ambientAccrual s
          = .next (State.kick { s with di := { s.di with lastAmbient := some (s.now / 1000 / 1000) } }))
      ∧ (∀ v, s.sau.volume = some v → v.limits.ambient = true → s.di.lux ≠ 0 →
          min 4294967295 (s.di.dayDose + s.di.lux) < v.limits.dayBudget * 7 / 8 →
          ∃ t, exec .ambientAccrual s = .next t
            ∧ t.di = { s.di with lastAmbient := some (s.now / 1000 / 1000), dayDose := min 4294967295 (s.di.dayDose + s.di.lux) }
            ∧ t.sau = { s.sau with openings :=
                s.sau.openings.modify s.tc.j fun o => { o with dose := min 4294967295 (o.dose + s.di.lux) } }
            ∧ t = { s with di := t.di, sau := t.sau, lk := t.lk })
      ∧ (∀ v raw, s.starting = false → s.sau.volume = some v → v.limits.ambient = true → s.di.lux ≠ 0 →
          min 4294967295 (s.di.dayDose + s.di.lux) < v.limits.dayBudget * 7 / 8 →
          ∃ t, exec (.sensorReading raw) s = .next t
            ∧ t.now = (s.now / 1000 + 1) * 1000
            ∧ t.di = { s.di with
                lastAmbient := some (s.now / 1000 / 1000), dayDose := min 4294967295 (s.di.dayDose + s.di.lux)
                raw := raw, lux := raw * s.set.k / 64, lastRead := some (s.now / 1000 + 1) }
            ∧ t.sau = { s.sau with openings :=
                s.sau.openings.modify s.tc.j fun o => { o with dose := min 4294967295 (o.dose + s.di.lux) } }
            ∧ t = { s with
                now := t.now, pins := { s.pins with sensorRaw := raw }, di := t.di, sau := t.sau, lk := t.lk }))
  ∧ (∀ (s : State) (v : Volume) (i : Instr) (u dose : Nat), s.quiet → s.sau.volume = some v → s.starting = false →
      ((i = .ambientAccrual ∧ u = s.di.lux ∧ s.di.lastRead = some (s.now / 1000) ∧ (s.now / 1000) % 1000 = 0
          ∧ s.di.lastAmbient ≠ some (s.now / 1000 / 1000) ∧ s.anyLit = false ∧ v.limits.ambient = true)
        ∨ ∃ raw, i = .sensorReading raw ∧ raw ≠ 0 ∧ raw ≠ 4095 ∧ u = (s.di.remainder + raw * s.set.k / 64) / 1000
          ∧ s.anyLit = true ∧ s.di.lastRead ≠ some (s.now / 1000)) →
      u ≠ 0 → dose = min 4294967295 (s.di.dayDose + u) →
      (v.limits.dayBudget * 7 / 8 ≤ dose → dose < v.limits.dayBudget → s.di.warned = false →
        ∃ t, exec i s = .next t ∧ t.di.dayDose = dose ∧ t.di.warned = true ∧ t.di.exhausted = s.di.exhausted
          ∧ t.lc = s.lc ∧ t.fb = s.fb ∧ t.tc = s.tc ∧ t.set = s.set
          ∧ t.sau = { s.sau with openings :=
              s.sau.openings.modify s.tc.j fun o => { o with dose := min 4294967295 (o.dose + u) } }
          ∧ (s.set.noticeMask.getLsbD 6 = true → s.lk.sending.isSome = true →
              t.lk.pendingSet.getLsbD 6 = true ∧ .warning ∈ t.lk.gathered.dose))
      ∧ (v.limits.dayBudget ≤ dose → s.di.exhausted = false → s.runActive = false → s.tc.pendingOverforce = false →
          s.tc.pendingDwell = false →
          ∃ t, exec i s = .next t ∧ t.di.exhausted = true ∧ t.di.warned = true ∧ t.dark ∧ t.di.dayDose = dose
            ∧ t.lc.preview = none ∧ t.lc.lastEnd = (if s.lc.preview.isSome then some .cut else s.lc.lastEnd)
            ∧ t.fb = (s.report .doseExhausted [dose, v.limits.dayBudget]).fb
            ∧ t.tc = s.tc ∧ t.set = s.set ∧ t.now = s.now
            ∧ t.sau = { s.sau with openings :=
                s.sau.openings.modify s.tc.j fun o => { o with dose := min 4294967295 (o.dose + u) } }
            ∧ (s.set.noticeMask.getLsbD 6 = true → s.lk.sending.isSome = true →
                t.lk.pendingSet.getLsbD 6 = true ∧ .exhausted ∈ t.lk.gathered.dose)
            ∧ (s.cc.state = .idle → s.captureWindow = false → t.cc = s.cc)
            ∧ (∀ raw pre k k', i = .sensorReading raw → s.lc.preview = none → s.captureWindow = true →
                s.cc.tickets = pre ++ [k] → k.closed = false →
                k' = { k with
                  dose := min 4294967295 (k.dose + u)
                  left := k.left.map fun h => { h with result := some (h.result.getD .doseCut) }
                  right := k.right.map fun h => { h with result := some (h.result.getD .doseCut) } } →
                ((s.cc.state = .settle ∨ s.cc.state = .waitEdge) → t.cc.state = .idle ∧ t.cc.tickets.getLast?
                    = some { k' with closed := true, closeTime := some (s.now / 1000) })
                ∧ (s.cc.state = .expose → t.cc.state = .expose ∧ t.cc.tickets.getLast? = some k'))))

/-- ROLLOVER with the elapsed clock at the alarm: the next day starts at the alarm's time and lasts the working day length,
the carry table is emptied, and with a volume mounted the day dose, the carried-in dose and every opening dose become 0 and
EXHAUSTED and the warning flag are lifted; the remainder and the sensor-dark block are kept, and a DOSE notice with ROLLOVER
is made pending (R90, R93). DAY MARK is refused under the lock, and else starts such a day now, with the length clamped to 1
to 48 h: OK with the day start, the length, the alarm and the clamped flag (R91). -/
def Obligations.RolloversStartANewDay : Prop :=
  (∀ s : State, s.quiet → s.di.alarm ≤ s.now / 1000 →
    ∃ t, exec .rollover s = .next t
      ∧ t.now = s.now ∧ t.di.dayStart = s.di.alarm
      ∧ t.di.alarm = s.di.alarm + s.set.dayLength * 3600000 ∧ t.di.carry = []
      ∧ (s.sau.volume.isSome = true → t.di.dayDose = 0 ∧ t.di.carriedIn = 0 ∧ t.di.exhausted = false
          ∧ t.di.warned = false ∧ t.sau = { s.sau with openings := s.sau.openings.map fun o => { o with dose := 0 } })
      ∧ (s.sau.volume = none → t.sau = s.sau)
      ∧ t.di.remainder = s.di.remainder ∧ t.di.sensorDark = s.di.sensorDark
      ∧ t.lc = s.lc ∧ t.tc = s.tc ∧ t.cc = s.cc ∧ t.set = s.set ∧ t.fb = s.fb
      ∧ (s.set.noticeMask.getLsbD 6 = true → s.lk.sending.isSome = true →
          t.lk.pendingSet.getLsbD 6 = true ∧ .rollover ∈ t.lk.gathered.dose))
  ∧ ∀ (tag : Byte) (length hours : Nat) (s : State), s.serves → hours = max 1 (min 48 length) →
      if s.pins.lockEngaged = true then
        exec (.dayMark tag length) s = .next (s.answeredWith 0x39#8 tag .locked)
      else
        ∃ t, exec (.dayMark tag length) s = .next t
          ∧ t.set = { s.set with dayLength := hours }
          ∧ t.di.dayStart = s.now / 1000
          ∧ t.di.alarm = s.now / 1000 + hours * 3600000 ∧ t.di.carry = []
          ∧ (s.sau.volume.isSome = true → t.di.dayDose = 0 ∧ t.di.carriedIn = 0 ∧ t.di.exhausted = false
              ∧ t.di.warned = false ∧ t.sau = { s.sau with openings := s.sau.openings.map fun o => { o with dose := 0 } })
          ∧ (s.sau.volume = none → t.sau = s.sau)
          ∧ t.di.remainder = s.di.remainder ∧ t.di.sensorDark = s.di.sensorDark
          ∧ t.lc = s.lc ∧ t.tc = s.tc ∧ t.cc = s.cc ∧ t.fb = s.fb ∧ t.now = s.now
          ∧ (s.set.noticeMask.getLsbD 6 = true → s.lk.sending.isSome = true →
              t.lk.pendingSet.getLsbD 6 = true ∧ .rollover ∈ t.lk.gathered.dose)
          ∧ (s.lk.sending = none → t.lk.sending = some (.reply { kind := 0xB9#8, tag := tag, result := .ok, body :=
              [.time (some (s.now / 1000)), .num hours, .time (some (s.now / 1000 + hours * 3600000)),
               .flag (decide (length < 1 ∨ 48 < length))] }))

/-- CARRY READ: ARGUMENT for an index above 15, NONE with the number of entries for an index at or above it, else OK with
the entry and the number; it changes no state and is answered under the lock (R98). -/
def Obligations.CarryReadReturnsAnEntry : Prop :=
  ∀ (tag : Byte) (index : Nat) (s : State), s.serves →
    (15 < index → exec (.carryRead tag index) s = .next (s.answeredWith 0x3A#8 tag .argument))
    ∧ (index ≤ 15 → s.di.carry.length ≤ index →
        exec (.carryRead tag index) s = .next (s.answered 0x3A#8 tag ⟨.absent, [.num s.di.carry.length]⟩))
    ∧ (∀ e, index ≤ 15 → s.di.carry[index]? = some e →
        exec (.carryRead tag index) s
          = .next (s.answered 0x3A#8 tag
              ⟨.ok, [.bytes e.mark, .num e.dose, .time (some e.time), .num e.cls, .num s.di.carry.length]⟩))

/-- CARRY DROP: LOCKED under the lock, ARGUMENT for a mark R1 refuses, NONE where no entry holds the normalised mark, and
else OK with the removed entry's dose, the entries of other marks keeping their order (R99). -/
def Obligations.CarryDropRemovesAnEntry : Prop :=
  ∀ (tag : Byte) (raw : Text) (s : State), s.serves →
    if s.pins.lockEngaged = true then exec (.carryDrop tag raw) s = .next (s.answeredWith 0x3B#8 tag .locked)
    else
      (shelfMark? raw = none → exec (.carryDrop tag raw) s = .next (s.answeredWith 0x3B#8 tag .argument))
      ∧ (∀ mark, shelfMark? raw = some mark → (∀ e ∈ s.di.carry, e.mark ≠ mark) →
          exec (.carryDrop tag raw) s = .next (s.answeredWith 0x3B#8 tag .absent))
      ∧ (∀ mark e, shelfMark? raw = some mark → (s.di.carry.find? fun e => e.mark == mark) = some e →
          exec (.carryDrop tag raw) s
            = .next (State.answered 0x3B#8 tag ⟨.ok, [.num e.dose]⟩
                { s with di := { s.di with carry := s.di.carry.filter fun e => !(e.mark == mark) } }))

/-! ### Capture and synchronisation (05) -/

/-- PROFILE WRITE: ARGUMENT for an index above 3, an exposure outside 1 to 2000, an enable set with another bit, or another
value of an enumerated field; else the clamped profile is written and its learned levels become its levels (R103). PROFILE
READ: OK with the profile at the index, ARGUMENT above 3, changing no state (R104). -/
def Obligations.ProfilesAreWrittenAndRead : Prop :=
  ∀ (tag : Byte) (index : Nat) (s : State), s.serves →
    (∀ f : ProfileFields, (3 < index ∨ f.exposure < 1 ∨ 2000 < f.exposure ∨ 15 < f.enable ∨ f.mode = none
        ∨ f.hold = none ∨ f.selection = none) →
      exec (.profileWrite tag index f) s = .next (s.answeredWith 0x40#8 tag .argument))
    ∧ (∀ (f : ProfileFields) (m : LampMode) (h : Bool) (r : SideSelection), index ≤ 3 → 1 ≤ f.exposure →
        f.exposure ≤ 2000 → f.enable ≤ 15 → f.mode = some m → f.hold = some h → f.selection = some r →
        exec (.profileWrite tag index f) s
          = .next (State.answered 0x40#8 tag ⟨.ok, [.flag (decide (
              99 < f.levelLa ∨ 99 < f.levelLb ∨ 99 < f.levelRa ∨ 99 < f.levelRb ∨ f.target < 1 ∨ 65456 < f.target
              ∨ f.interval < 1 ∨ 1000 < f.interval ∨ f.settle < 5 ∨ 200 < f.settle))]⟩ { s with
              set := { s.set with
                profiles := s.set.profiles.set index
                  { mode := m
                    enabled := ⟨f.enable.testBit 0, f.enable.testBit 1, f.enable.testBit 2, f.enable.testBit 3⟩
                    levels := ⟨min 99 f.levelLa, min 99 f.levelLb, min 99 f.levelRa, min 99 f.levelRb⟩
                    target := max 1 (min 65456 f.target), interval := max 1 (min 1000 f.interval), hold := h
                    settle := max 5 (min 200 f.settle), exposure := f.exposure, selection := r } }
              lc := { s.lc with
                learned := s.lc.learned.set index
                  ⟨min 99 f.levelLa, min 99 f.levelLb, min 99 f.levelRa, min 99 f.levelRb⟩ } }))
    ∧ (index ≤ 3 → exec (.profileRead tag index) s
        = .next (s.answered 0x41#8 tag ⟨.ok, [.bytes (profileAt s.set.profiles index).bytes]⟩))
    ∧ (4 ≤ index → exec (.profileRead tag index) s = .next (s.answeredWith 0x41#8 tag .argument))

/-- CAPTURE from the host. The selection rule is the override, else the profile's: AUTO takes the sides of the opening that
are PENDING or RETAKE, LEFT, RIGHT and BOTH those they name, each if it exists; the tests of Table 5-6 follow in order, and
the first that fails gives the reply (R116). RING-FULL is also reported, with the serial of the oldest ticket. Where every
test passes, the reply is ACCEPTED with the serial and the sides, a LIT preview ends CUT, a ticket opens with that serial
over the sides, each side is HELD, the next serial follows, CC is in SETTLE, and a capture window is lit: every enabled
healthy bank at the profile's level (FIXED) or its learned level, at least 1 (HELD-LUX) (R56, R59, R117, R128, R129). -/
def Obligations.CaptureOpensATicket : Prop :=
  ∀ (tag : Byte) (profile : Nat) (sides : SidesOverride) (s : State), s.serves →
    (s.sau.volume = none → exec (.capture tag profile sides) s = .next (s.answeredWith 0x42#8 tag .notMounted))
    ∧ (s.sau.volume.isSome = true → (3 < profile ∨ sides = .named none) →
        exec (.capture tag profile sides) s = .next (s.answeredWith 0x42#8 tag .argument))
    ∧ ∀ (v : Volume) (p : Profile) (rule : SideSelection) (l r left right : Nat), s.sau.volume = some v → profile ≤ 3 →
        p = profileAt s.set.profiles profile →
        (sides = .named (some rule) ∨ (sides = .absent ∧ rule = p.selection)) →
        l = leftSide v.direction v.n s.tc.j → r = rightSide v.direction v.n s.tc.j →
        left = (match rule with
          | .auto => if s.sideState l = .pending ∨ s.sideState l = .retake then l else 0
          | .left | .both => l
          | .right => 0) →
        right = (match rule with
          | .auto => if s.sideState r = .pending ∨ s.sideState r = .retake then r else 0
          | .right | .both => r
          | .left => 0) →
        if s.runActive = true ∨ s.settled = false ∨ (s.tc.state ≠ .clamped ∧ v.limits.policy ≠ .free) then
          exec (.capture tag profile sides) s = .next (s.answeredWith 0x42#8 tag .state)
        else if s.ticketOpen = true then exec (.capture tag profile sides) s = .next (s.answeredWith 0x42#8 tag .busy)
        else if s.cc.sync.state = .detecting ∨ s.cc.sync.state = .manualExternalLost then
          exec (.capture tag profile sides) s = .next (s.answeredWith 0x42#8 tag .noSync)
        else if (left ≠ 0 ∧ s.pins.readyA = false) ∨ (right ≠ 0 ∧ s.pins.readyB = false) then
          exec (.capture tag profile sides) s = .next (s.answeredWith 0x42#8 tag .camera)
        else if (PerBank.any fun b => p.enabled.get b && !(s.lc.banks.get b).faulted) = false then
          exec (.capture tag profile sides) s = .next (s.answeredWith 0x42#8 tag .lamp)
        else if s.di.sensorDark = true then
          exec (.capture tag profile sides) s = .next (s.answeredWith 0x42#8 tag .sensor)
        else if left = 0 ∧ right = 0 then
          exec (.capture tag profile sides) s = .next (s.answeredWith 0x42#8 tag .nothing)
        else if (left ≠ 0 ∧ s.sideState left = .held) ∨ (right ≠ 0 ∧ s.sideState right = .held) then
          exec (.capture tag profile sides) s = .next (s.answeredWith 0x42#8 tag .held)
        else if 32 ≤ s.cc.tickets.length then
          ∃ t, exec (.capture tag profile sides) s = .next t
            ∧ t.fb = (s.report .ringFull [((s.cc.tickets.head?).map Ticket.serial).getD 0]).fb
            ∧ t = { s with fb := t.fb, lk := t.lk }
            ∧ (s.lk.sending = none → t.lk.sending = some (.reply
                { kind := 0xC2#8, tag := tag, result := .ringFull, body := [] }))
        else
          (∀ x, s.doseRefusal p (p.settle + p.exposure + syncPeriodMs s.set.syncRate) = some x →
            exec (.capture tag profile sides) s = .next (s.answeredWith 0x42#8 tag x))
          ∧ (s.doseRefusal p (p.settle + p.exposure + syncPeriodMs s.set.syncRate) = none → s.captureWindow = false →
            ∃ t, exec (.capture tag profile sides) s = .next t ∧ ∃ (k : Ticket) (mid : List Opening),
              t.cc.tickets = s.cc.tickets ++ [k]
              ∧ k.serial = s.cc.nextSerial ∧ k.closed = false ∧ k.mountNo = v.mountNo ∧ k.opening = s.tc.j
              ∧ k.left = (if left = 0 then none else some { side := left, result := none, superseded := false })
              ∧ k.right = (if right = 0 then none else some { side := right, result := none, superseded := false })
              ∧ k.profile = profile ∧ k.mode = p.mode ∧ k.settle = p.settle ∧ k.exposure = p.exposure
              ∧ k.openTime = s.now / 1000 ∧ k.dose = 0
              ∧ (k.lampDegraded = true ↔ ∃ b, p.enabled.get b = true ∧ (s.lc.banks.get b).faulted = true)
              ∧ t.cc.nextSerial = (if s.cc.nextSerial = 4294967295 then 1 else s.cc.nextSerial + 1)
              ∧ t.cc.state = .settle ∧ t.cc.openedAt = s.now
              ∧ mid = (if left = 0 then s.sau.openings
                  else s.sau.openings.modify (left / 2) (withSide v.direction left .held))
              ∧ t.sau = { s.sau with openings :=
                  if right = 0 then mid else mid.modify (right / 2) (withSide v.direction right .held) }
              ∧ (t.lc.window.map Window.kind) = some .capture
              ∧ (∀ b, (t.lc.banks.get b).level
                  = (if p.enabled.get b = true ∧ (s.lc.banks.get b).faulted = false then
                      (match p.mode with
                       | .fixed => p.levels.get b
                       | .heldLux => max 1 ((learnedAt s.lc.learned profile).get b))
                    else 0)
                  ∧ (t.lc.banks.get b).lit = decide (1 ≤ (t.lc.banks.get b).level)
                  ∧ (t.lc.banks.get b).faulted = (s.lc.banks.get b).faulted)
              ∧ t.lc.learned = s.lc.learned
              ∧ t.lc.preview = none ∧ t.lc.lastEnd = (if s.lc.preview.isSome then some .cut else s.lc.lastEnd)
              ∧ t.di = (if s.lc.preview.isSome = true ∧ s.anyLit = true then { s.di with satCount := 0, darkCount := 0 }
                  else s.di)
              ∧ t.tc = s.tc ∧ t.fb = s.fb ∧ t.set = s.set ∧ t.pins = s.pins ∧ t.now = s.now
              ∧ (s.lk.sending = none → t.lk.sending = some (.reply { kind := 0xC2#8, tag := tag, result := .accepted, body :=
                  [.num s.cc.nextSerial, .num left, .num right] })))

/-- SYNC DETECT: its tests in order, and detection begun (R106, R107). SYNC SELECT: ARGUMENT for another source, BUSY with a
ticket OPEN or a preview LIT. INTERNAL puts the selector into MANUAL-INTERNAL. EXTERNAL from EXTERNAL or MANUAL-EXTERNAL puts
it into MANUAL-EXTERNAL, and from any other state into MANUAL-EXTERNAL-LOST with its count at 0. In MANUAL-INTERNAL and
MANUAL-EXTERNAL-LOST a generator that runs keeps running, and another one starts with its first edge in that event, which
starts frame 1; CC is idle there (R57, R109). Detection forgets the last external edge: the model's choice, log entry 44; so
does SYNC SELECT INTERNAL: the model's choice, log entry 59. -/
def Obligations.SyncRequestsMoveTheSelector : Prop :=
  ∀ (tag : Byte) (s : State), s.serves →
    (if s.cc.sync.state = .manualExternal ∨ s.cc.sync.state = .manualExternalLost
        ∨ s.cc.sync.state = .manualInternal ∨ s.cc.sync.state = .detecting then
      exec (.syncDetect tag) s = .next (s.answeredWith 0x44#8 tag .state)
    else if s.ticketOpen = true ∨ s.lc.preview.isSome = true then
      exec (.syncDetect tag) s = .next (s.answeredWith 0x44#8 tag .busy)
    else
      exec (.syncDetect tag) s
        = .next (State.answeredWith 0x44#8 tag .accepted { s with cc := { s.cc with sync := { s.cc.sync with
            state := .detecting, goodCount := 0, found := false, watchEnd := s.now + 500000, lastExt := none
            gen := none } } }))
    ∧ exec (.syncSelect tag none) s = .next (s.answeredWith 0x45#8 tag .argument)
    ∧ (∀ src, (s.ticketOpen = true ∨ s.lc.preview.isSome = true) →
        exec (.syncSelect tag (some src)) s = .next (s.answeredWith 0x45#8 tag .busy))
    ∧ (∀ g, s.ticketOpen = false → s.lc.preview = none → s.cc.sync.gen = some g →
        exec (.syncSelect tag (some .internal)) s
          = .next (State.answeredWith 0x45#8 tag .ok { s with cc := { s.cc with sync := { s.cc.sync with
              state := .manualInternal, lastExt := none } } }))
    ∧ (s.ticketOpen = false → s.lc.preview = none →
        (s.cc.sync.state = .external ∨ s.cc.sync.state = .manualExternal) →
        exec (.syncSelect tag (some .external)) s
          = .next (State.answeredWith 0x45#8 tag .ok { s with cc := { s.cc with sync := { s.cc.sync with
              state := .manualExternal } } }))
    ∧ (∀ g, s.ticketOpen = false → s.lc.preview = none → s.cc.sync.state ≠ .external →
        s.cc.sync.state ≠ .manualExternal → s.cc.sync.gen = some g →
        exec (.syncSelect tag (some .external)) s
          = .next (State.answeredWith 0x45#8 tag .ok { s with cc := { s.cc with sync := { s.cc.sync with
              state := .manualExternalLost, goodCount := 0 } } }))
    ∧ (∀ src y, s.ticketOpen = false → s.lc.preview = none → s.cc.sync.gen = none → s.cc.state = .idle →
        ((src = .internal ∧ y = { s.cc.sync with state := .manualInternal, lastExt := none })
          ∨ (src = .external ∧ s.cc.sync.state ≠ .external ∧ s.cc.sync.state ≠ .manualExternal
            ∧ y = { s.cc.sync with state := .manualExternalLost, goodCount := 0 })) →
        exec (.syncSelect tag (some src)) s
          = .next (State.answeredWith 0x45#8 tag .ok { s with
              cc := { s.cc with sync := { y with gen := some s.now, delivered := some s.now } }
              lc := { s.lc with
                frameEdge := some s.now, banks := s.lc.banks.map fun b => { b with prevLevel := b.level } } }))

/-- An external edge in EXTERNAL or MANUAL-EXTERNAL is measured and delivered: the period it ends is the last measured
period, and frame 1 starts, at the banks' present levels (R57, R105). In INTERNAL and MANUAL-INTERNAL it is ignored, and in
DETECTING measured alone. In MANUAL-EXTERNAL-LOST the tenth good edge in a row brings MANUAL-EXTERNAL back: the generator
stops, and the edge is delivered (R110). The generator's edge falls one nominal period after the last (R105). Here CC is
idle. SYNC_LOSS, two nominal periods after the last edge: the selector is in INTERNAL, or MANUAL-EXTERNAL-LOST, the
generator's first edge is delivered then, SYNC-LOST is reported with the last period, the SYNC notice is made pending with
its lost flag, and the OPEN ticket is flagged SYNC-SWITCHED; a capture that waits for its edge is triggered by that one
(R108, R110, R111, R118). SYNC_WATCH_END: EXTERNAL where a source was found, else INTERNAL with the generator started (R106);
in cold start the part then waits for an open guard, and counts that wait, or homes, and with both switches made start-up
ends (R53, R191; the selector's state in START: log entry 58). The timers' clock is log entry 3, the edge's µs log entry 31,
the 2% log entry 43, the watch's first edge log entry 44, and the count in EXTERNAL log entry 45. -/
def Obligations.SyncEdgesAndLosses : Prop :=
  (∀ (s : State) (after at' : Nat), s.quiet → s.cc.state = .idle → at' = s.now + after → s.endsNow at' →
      (∀ last, (s.cc.sync.state = .external ∨ s.cc.sync.state = .manualExternal) → s.cc.sync.lastExt = some last →
        ∃ t, exec (.externalSyncEdge after) s = .next t
          ∧ t.now = at' ∧ t.cc.sync.lastExt = some at' ∧ t.cc.sync.lastPeriod = some (at' - last)
          ∧ t.cc.sync.delivered = some at' ∧ t.cc.sync.state = s.cc.sync.state
          ∧ t.lc = { s.lc with frameEdge := some at', banks := s.lc.banks.map fun b => { b with prevLevel := b.level } }
          ∧ t.cc.tickets = s.cc.tickets ∧ t.tc = s.tc ∧ t.di = s.di ∧ t.fb = s.fb ∧ t.set = s.set)
      ∧ ((s.cc.sync.state = .internal ∨ s.cc.sync.state = .manualInternal) →
          exec (.externalSyncEdge after) s = .next (State.kick { s with now := at' }))
      ∧ (∀ last, s.cc.sync.state = .detecting → s.cc.sync.lastExt = some last →
          98000000 ≤ (at' - last) * s.set.syncRate * 100 → (at' - last) * s.set.syncRate * 100 ≤ 102000000 →
          exec (.externalSyncEdge after) s = .next (State.kick { s with now := at', cc := { s.cc with sync := { s.cc.sync with
            lastExt := some at', lastPeriod := some (at' - last), goodCount := s.cc.sync.goodCount + 1
            found := s.cc.sync.found || decide (10 ≤ s.cc.sync.goodCount + 1) } } }))
      ∧ (∀ last, s.cc.sync.state = .manualExternalLost → s.cc.sync.lastExt = some last →
          98000000 ≤ (at' - last) * s.set.syncRate * 100 → (at' - last) * s.set.syncRate * 100 ≤ 102000000 →
          s.cc.sync.goodCount = 9 →
          ∃ t, exec (.externalSyncEdge after) s = .next t
            ∧ t.cc.sync.state = .manualExternal ∧ t.cc.sync.gen = none ∧ t.cc.sync.delivered = some at'
            ∧ t.lc.frameEdge = some at' ∧ t.now = at' ∧ t.fb = s.fb ∧ t.tc = s.tc ∧ t.di = s.di ∧ t.set = s.set
            ∧ (s.set.noticeMask.getLsbD 9 = true → s.lk.sending.isSome = true → t.lk.pendingSet.getLsbD 9 = true)))
  ∧ (∀ (s : State) (g due : Nat), s.quiet → s.cc.state = .idle → s.cc.sync.gen = some g →
      due = g + (1000000 + s.set.syncRate / 2) / s.set.syncRate → s.endsNow due →
      ∃ t, exec .internalSyncEdge s = .next t
        ∧ t.now = max s.now due
        ∧ t.cc.sync = { s.cc.sync with gen := some t.now, delivered := some t.now }
        ∧ t.lc = { s.lc with frameEdge := some t.now, banks := s.lc.banks.map fun b => { b with prevLevel := b.level } }
        ∧ t.cc.tickets = s.cc.tickets ∧ t.tc = s.tc ∧ t.di = s.di ∧ t.fb = s.fb ∧ t.set = s.set)
  ∧ (∀ (s : State) (last due : Nat), s.quiet → (s.cc.sync.state = .external ∨ s.cc.sync.state = .manualExternal) →
      s.cc.sync.lastExt = some last → due = last + (2000000 + s.set.syncRate / 2) / s.set.syncRate → s.endsNow due →
      ((s.cc.state = .idle ∨ s.cc.state = .expose ∨ s.cc.state = .collect) →
        ∃ t, exec .syncLoss s = .next t
          ∧ t.now = max s.now due
          ∧ t.cc.sync.state = (if s.cc.sync.state = .external then .internal else .manualExternalLost)
          ∧ t.cc.sync.gen = some t.now ∧ t.cc.sync.delivered = some t.now ∧ t.cc.state = s.cc.state
          ∧ t.fb = (State.report .syncLost [s.cc.sync.lastPeriod.getD 0] { s with now := t.now }).fb
          ∧ t.cc.tickets = s.cc.tickets.map (fun k => if k.closed then k else { k with syncSwitched := true })
          ∧ t.lc = { s.lc with frameEdge := some t.now, banks := s.lc.banks.map fun b => { b with prevLevel := b.level } }
          ∧ (s.set.noticeMask.getLsbD 9 = true → s.lk.sending.isSome = true →
              t.lk.pendingSet.getLsbD 9 = true ∧ t.lk.gathered.syncLost = true)
          ∧ t.tc = s.tc ∧ t.di = s.di ∧ t.sau = s.sau ∧ t.set = s.set)
      ∧ (∀ k, s.cc.state = .waitEdge → s.openTicket? = some k → k.mode = .fixed →
          ∃ t, exec .syncLoss s = .next t ∧ ∃ k', t.openTicket? = some k'
            ∧ t.cc.state = .expose ∧ t.cc.triggeredAt = some t.now ∧ t.now = max s.now due
            ∧ k'.syncSwitched = true ∧ k'.source = some .internal ∧ k'.serial = k.serial
            ∧ k'.left = k.left ∧ k'.right = k.right
            ∧ t.fb = (State.report .syncLost [s.cc.sync.lastPeriod.getD 0] { s with now := t.now }).fb
            ∧ t.tc = s.tc ∧ t.di = s.di ∧ t.sau = s.sau ∧ t.set = s.set))
  ∧ (∀ s : State, s.quiet → s.cc.sync.state = .detecting → s.starting = false → s.cc.state = .idle →
      s.endsNow s.cc.sync.watchEnd →
      ∃ t, exec .syncWatchEnd s = .next t
        ∧ t.now = max s.now s.cc.sync.watchEnd
        ∧ t.cc.sync.state = (if s.cc.sync.found then .external else .internal)
        ∧ (s.cc.sync.found = false → t.cc.sync.gen = some t.now ∧ t.cc.sync.delivered = some t.now)
        ∧ (s.set.noticeMask.getLsbD 9 = true → s.lk.sending.isSome = true → t.lk.pendingSet.getLsbD 9 = true)
        ∧ t.tc = s.tc ∧ t.di = s.di ∧ t.sau = s.sau ∧ t.set = s.set ∧ t.fb = s.fb)
  ∧ (∀ s : State, s.quiet → s.cc.sync.state = .detecting → s.start.phase = .detecting → s.cc.state = .idle →
      s.endsNow s.cc.sync.watchEnd →
      ∃ t, exec .syncWatchEnd s = .next t
        ∧ t.now = max s.now s.cc.sync.watchEnd
        ∧ t.cc.sync.state = (if s.cc.sync.found then .external else .internal)
        ∧ (s.cc.sync.found = false → t.cc.sync.gen = some t.now ∧ t.cc.sync.delivered = some t.now)
        ∧ (s.set.noticeMask.getLsbD 9 = true → s.lk.sending.isSome = true → t.lk.pendingSet.getLsbD 9 = true)
        ∧ (s.pins.guardOpen = true → t.tc = s.tc
            ∧ t.start = { s.start with phase := .guardWait, guardWaits := s.start.guardWaits + 1 })
        ∧ (s.pins.guardOpen = false → coldHoming s t)
        ∧ t = { s with now := t.now, tc := t.tc, lc := t.lc, cc := t.cc, start := t.start, lk := t.lk })

/-- SETTLE_END: at the end of the ticket's settle time CC waits for an edge (R118); an edge then triggers the cameras of the
covered sides, with E and the source written into the ticket (R118, R63). Here the capture is FIXED, and the edge is the
internal generator's. The exposure: CAMERA_EXPOSING, EXPOSURE_ELAPSED and EXPOSING_TIMEOUT follow the cameras, and the lamps
go dark in the event in which the exposure has elapsed and every triggered camera is done (R119). Here camera A alone is
triggered, and no frame is stored yet. The READY level that CAMERA_EXPOSING brings is the model's choice, log entry 10, and
the timers' clock log entry 3. -/
def Obligations.SettleTriggerAndLampsOff : Prop :=
  (∀ (s : State) (k : Ticket), s.quiet → s.openTicket? = some k →
      (s.cc.state = .settle → s.cc.sync.delivered ≠ some (max s.now (s.cc.openedAt + k.settle * 1000)) →
        s.endsNow (s.cc.openedAt + k.settle * 1000) →
        exec .settleEnd s
          = .next (State.kick { s with
              now := max s.now (s.cc.openedAt + k.settle * 1000), cc := { s.cc with state := .waitEdge } }))
      ∧ (∀ g, s.cc.state = .waitEdge → k.mode = .fixed → s.cc.sync.gen = some g →
          s.endsNow (g + (1000000 + s.set.syncRate / 2) / s.set.syncRate) →
          ∃ t, exec .internalSyncEdge s = .next t ∧ ∃ k', t.openTicket? = some k'
            ∧ t.cc.state = .expose ∧ t.cc.triggeredAt = some t.now
            ∧ t.cc.camA.triggered = (k.left.isSome || s.cc.camA.triggered)
            ∧ t.cc.camB.triggered = (k.right.isSome || s.cc.camB.triggered)
            ∧ k'.startLux = some s.di.lux ∧ k'.source = some .internal ∧ k'.serial = k.serial
            ∧ k'.left = k.left ∧ k'.right = k.right
            ∧ t.tc = s.tc ∧ t.di = s.di ∧ t.sau = s.sau ∧ t.fb = s.fb ∧ t.set = s.set))
  ∧ (∀ (s : State) (k : Ticket) (t0 : Nat), s.quiet → s.openTicket? = some k → k.left.isSome = true →
      (k.left.map Half.result) = some none → s.cc.state = .expose → s.cc.triggeredAt = some t0 →
      s.cc.camA.triggered = true → s.cc.camA.done = false → s.cc.camA.stored = false → s.cc.camB.triggered = false →
      s.cc.limitPassed = false →
      (∀ ready, s.cc.elapsed = true → s.cc.camA.raised = true →
        ∃ t, exec (.cameraExposing .a false ready) s = .next t ∧ t.cc.state = .collect ∧ t.dark ∧ t.lc.window = none
          ∧ t.cc.lampsOffAt = some s.now ∧ t.cc.tickets = s.cc.tickets ∧ t.tc = s.tc ∧ t.sau = s.sau ∧ t.fb = s.fb
          ∧ t.pins = { s.pins with readyA := ready, exposingA := false })
      ∧ (s.cc.elapsed = false → s.endsNow (t0 + k.exposure * 1000) →
          exec .exposureElapsed s
            = .next (State.kick { s with now := max s.now (t0 + k.exposure * 1000), cc := { s.cc with elapsed := true } }))
      ∧ (s.cc.elapsed = true → s.endsNow (t0 + (k.exposure + if s.cc.camA.raised then 500 else 5) * 1000) →
          ∃ t, exec (.exposingTimeout .a) s = .next t
            ∧ t.now = max s.now (t0 + (k.exposure + if s.cc.camA.raised then 500 else 5) * 1000)
            ∧ t.cc.state = .collect ∧ t.dark ∧ t.lc.window = none ∧ t.cc.tickets = s.cc.tickets ∧ t.tc = s.tc
            ∧ t.sau = s.sau ∧ t.fb = s.fb ∧ t.pins = s.pins))

/-- CAMERA_STORED of camera A in COLLECT, the one triggered camera: its side with no result takes STORED, and the ticket
closes: CC is IDLE, the close time is set and the CAPTURE notice made pending (R120, R122). FRAME_LIMIT with no frame
stored: FRAME-TIMEOUT is reported with the camera and the serial, the side takes NO-FRAME, and the ticket closes. No raise
waits for the close, and no run counts it. The READY level that CAMERA_STORED brings is the model's choice, log entry 10,
and the timer's clock log entry 3. -/
def Obligations.FramesCloseTheTicket : Prop :=
  ∀ (s : State) (pre : List Ticket) (k : Ticket) (h : Half) (t0 : Nat), s.quiet → s.cc.tickets = pre ++ [k] →
    k.closed = false → k.left = some h → h.result = none → k.right = none →
    s.cc.state = .collect → s.cc.triggeredAt = some t0 → s.cc.camA.triggered = true → s.cc.camA.stored = false →
    s.cc.camB.triggered = false → s.cc.limitPassed = false → s.tc.pendingDwell = false →
    s.tc.pendingOverforce = false → s.runActive = false → s.rc.ticket = none →
    (∀ ready, ∃ t, exec (.cameraStored .a ready) s = .next t
      ∧ t.cc.tickets.getLast? = some { k with left := some { h with result := some .stored }, closed := true
                                              closeTime := some (s.now / 1000) }
      ∧ ((∀ x ∈ pre, x.closed = true) → t.cc.tickets.dropLast = pre)
      ∧ t.cc.state = .idle ∧ t.cc.camA.lastStored = some s.now
      ∧ (s.set.noticeMask.getLsbD 4 = true → s.lk.sending.isSome = true → t.lk.pendingSet.getLsbD 4 = true)
      ∧ t.tc = s.tc ∧ t.sau = s.sau ∧ t.fb = s.fb ∧ t.pins = { s.pins with readyA := ready } ∧ t.now = s.now)
    ∧ (s.endsNow (t0 + (k.exposure + 500) * 1000) → ∃ t, exec .frameLimit s = .next t
      ∧ t.now = max s.now (t0 + (k.exposure + 500) * 1000)
      ∧ t.cc.tickets.getLast? = some { k with left := some { h with result := some .noFrame }, closed := true
                                              closeTime := some (t.now / 1000) }
      ∧ ((∀ x ∈ pre, x.closed = true) → t.cc.tickets.dropLast = pre)
      ∧ t.cc.state = .idle
      ∧ t.fb = (State.report .frameTimeout [0, k.serial] { s with now := t.now }).fb
      ∧ t.tc = s.tc ∧ t.sau = s.sau ∧ t.pins = s.pins)

/-! ### Tickets (06) -/

/-- TICKET READ: ARGUMENT for serial 0; NONE for a serial the ring does not hold, and for NEXT-UNREAD with no CLOSED unread
ticket; a ticket OPEN, or read before, is read with no change; a CLOSED unread ticket of a ring of one is read and its read
flag set, which ends a backlog that held (R132, R133, R139). The record shows the flag as it stood: log entry 35. -/
def Obligations.TicketsAreRead : Prop :=
  ∀ (tag : Byte) (s : State), s.serves →
    exec (.ticketRead tag (.serial 0)) s = .next (s.answeredWith 0x48#8 tag .argument)
    ∧ (∀ n, n ≠ 0 → (∀ k ∈ s.cc.tickets, k.serial ≠ n) →
        exec (.ticketRead tag (.serial n)) s = .next (s.answeredWith 0x48#8 tag .absent))
    ∧ ((∀ k ∈ s.cc.tickets, k.closed = false ∨ k.read = true) →
        exec (.ticketRead tag .nextUnread) s = .next (s.answeredWith 0x48#8 tag .absent))
    ∧ (∀ k ∈ s.cc.tickets, k.serial ≠ 0 → (∀ x ∈ s.cc.tickets, x.serial = k.serial → x = k) →
        (k.closed = false ∨ k.read = true) →
        exec (.ticketRead tag (.serial k.serial)) s
          = .next (s.answered 0x48#8 tag ⟨.ok, [.bytes k.bytes, .flag k.read]⟩))
    ∧ (∀ k, s.cc.tickets = [k] → k.closed = true → k.read = false →
        ∃ t, exec (.ticketRead tag .nextUnread) s = .next t
          ∧ t.cc = { s.cc with tickets := [{ k with read := true }], backlog := t.cc.backlog }
          ∧ (1 ≤ s.set.backlogThreshold → t.cc.backlog = false)
          ∧ t = { s with cc := t.cc, lk := t.lk }
          ∧ (s.lk.sending = none → t.lk.sending = some (.reply { kind := 0xC8#8, tag := tag, result := .ok, body :=
              [.bytes k.bytes, .flag false] })))

/-- TICKET RELEASE is refused with ARGUMENT, with no state changed, if the count is 0 or above 32, or if either verdict is
other than ACCEPT or REJECT; else it is taken, with OK, OPEN or NONE (R134). Releasing the oldest ticket, CLOSED, of the
mounted volume and covering a left half that is not superseded: the position is freed, and the side becomes ACCEPTED where
its result is STORED and the verdict ACCEPT, else RETAKE (R135, R136, Table 6-3). With no ticket in the ring the answer is
NONE, and with the oldest OPEN it is OPEN. -/
def Obligations.ReleasesApplyTheVerdicts : Prop :=
  (∀ (tag : Byte) (count : Nat) (left right : Option Verdict) (s : State), s.serves →
      if count = 0 ∨ 32 < count ∨ left = none ∨ right = none then
        exec (.ticketRelease tag count left right) s = .next (s.answeredWith 0x49#8 tag .argument)
      else s.rc.state ≠ .paused .tickets →
        ∃ t r, exec (.ticketRelease tag count left right) s = .next t
          ∧ (s.lk.sending = none → t.lk.sending = some (.reply r))
          ∧ r.kind = 0xC9#8 ∧ r.tag = tag ∧ (r.result = .ok ∨ r.result = .opened ∨ r.result = .absent))
  ∧ (∀ (tag : Byte) (l r : Verdict) (s : State), s.serves → s.rc.state = .idle →
      (s.cc.tickets = [] → exec (.ticketRelease tag 1 (some l) (some r)) s = .next (s.answeredWith 0x49#8 tag .absent))
      ∧ (∀ k rest, s.cc.tickets = k :: rest → k.closed = false →
          exec (.ticketRelease tag 1 (some l) (some r)) s = .next (s.answeredWith 0x49#8 tag .opened))
      ∧ (∀ k rest h v, s.cc.tickets = k :: rest → k.closed = true → s.sau.volume = some v → k.mountNo = v.mountNo →
          k.orphaned = false → k.left = some h → k.right = none → h.superseded = false →
          ∃ t, exec (.ticketRelease tag 1 (some l) (some r)) s = .next t
            ∧ t.cc.tickets = rest ∧ t.cc.oldest = (s.cc.oldest + 1) % 32
            ∧ t.sau = { s.sau with openings := s.sau.openings.modify (h.side / 2) (withSide v.direction h.side
                (if h.result = some .stored ∧ l = .accept then .accepted else .retake)) }
            ∧ t = { s with cc := t.cc, sau := t.sau, lk := t.lk }
            ∧ (s.lk.sending = none → t.lk.sending = some (.reply { kind := 0xC9#8, tag := tag, result := .ok, body :=
                [.num 1, .num k.serial, .num k.serial, .flag false] }))))

/-- BACKLOG SET clamps the threshold to 1 to 32 and the timeout to 1 to 600 s and replies OK with the values in force
(R138). BACKLOG_AGE, with the elapsed clock at the instant: the oldest CLOSED unread ticket reaches the timeout, the
condition holds, and the BACKLOG notice is made pending (R139, R140). -/
def Obligations.BacklogIsSetAndAges : Prop :=
  (∀ (tag : Byte) (threshold timeout : Nat) (s : State), s.serves →
    ∃ t, exec (.backlogSet tag threshold timeout) s = .next t
      ∧ t.set = { s.set with backlogThreshold := max 1 (min 32 threshold), backlogTimeout := max 1 (min 600 timeout) }
      ∧ t.cc = { s.cc with backlog := t.cc.backlog }
      ∧ t = { s with set := t.set, cc := t.cc, lk := t.lk }
      ∧ (s.lk.sending = none → t.lk.sending = some (.reply { kind := 0xCA#8, tag := tag, result := .ok, body :=
          [.num (max 1 (min 32 threshold)), .num (max 1 (min 600 timeout)),
           .flag (decide (threshold < 1 ∨ 32 < threshold ∨ timeout < 1 ∨ 600 < timeout))] })))
  ∧ ∀ (s : State) (k : Ticket) (rest : List Ticket) (closed : Nat), s.quiet → s.cc.backlog = false →
      s.cc.tickets = k :: rest → k.closed = true → k.read = false → k.closeTime = some closed →
      closed + s.set.backlogTimeout * 1000 ≤ s.now / 1000 →
      ∃ t, exec .backlogAge s = .next t
        ∧ t.cc = { s.cc with backlog := true }
        ∧ (s.set.noticeMask.getLsbD 7 = true → s.lk.sending.isSome = true → t.lk.pendingSet.getLsbD 7 = true)
        ∧ t = { s with cc := t.cc, lk := t.lk }

/-! ### Runs and the pendant (07) -/

/-- RUN START's tests in order, and the run record filled; an opening that needs no capture is the step's end: the last one
ends the run COMPLETE, with MANUAL-ONLY the run pauses with MANUAL-TURN, after UNCLAMP from CLAMPED, and else RC sends TURN;
a PENDING side under policy CLAMP in UNCLAMPED makes RC send CLAMP (R144, R145, R147), and a platen that fits makes it send
CAPTURE, whose outcome acts as Table 7-3 gives (R146; the tests are those of CaptureOpensATicket). RUN END ends an ACTIVE or
PAUSED run ABORTED, and is refused with STATE with no run; an operation of the run in motion is marked and ends STOPPED at
rest, one in HALTED ends STOPPED in that event, and TC is else left as it is (R154, R45). The end of an operation RC sent:
UNCLAMP DONE pauses with MANUAL-TURN, FAULT with TURN-FAULT, TURN FOLDOUT-STOP with FOLDOUT, HALTED with HALT; TURN or CLAMP
DONE goes on to the step, to a capture or to the run's end; after a HALT the run pauses with HALT (R148, R149). The close of the
run's ticket is counted, and goes on to the step's end, to the pause HALT asked for, or to nothing in a PAUSED run; in an
ENDED one it is not counted (R146, R149, R153, R154). A WAITING run goes on once TC is settled, and pauses with TURN-FAULT
where the raise faults (R148). HALT in a PAUSED TICKETS run makes its reason HALT, and in an ACTIVE one is noted (R149). A
TICKET RELEASE that frees a ticket resumes a run PAUSED with TICKETS, ends it OUT-OF-RANGE, or leaves it with TC not settled
(R150). RESUME is tested by range, manual turn and TC, and else begins the step at j (R151). The switches open as motions
begin: log entry 11; the timers' clock: log entry 3; when RC may send, and what a WAITING run waits for: log entry 19. -/
def Obligations.RunsStartAndEnd : Prop :=
  (∀ (tag : Byte) (last profile : Nat) (mode : Option RunMode) (s : State), s.serves →
    ((s.sau.volume = none ∨ s.runActive = true ∨ s.runPaused = true ∨ s.settled = false) →
      exec (.runStart tag last profile mode) s = .next (s.answeredWith 0x50#8 tag .state))
    ∧ (∀ v, s.sau.volume = some v → s.runActive = false → s.runPaused = false → s.settled = true →
        if s.ticketOpen = true then exec (.runStart tag last profile mode) s = .next (s.answeredWith 0x50#8 tag .busy)
        else if last < s.tc.j ∨ v.n < last ∨ 3 < profile ∨ mode = none then
          exec (.runStart tag last profile mode) s = .next (s.answeredWith 0x50#8 tag .argument)
        else
          (last = s.tc.j → (openingAt s.sau.openings s.tc.j).left = .accepted →
            (openingAt s.sau.openings s.tc.j).right = .blank →
            ∃ t, exec (.runStart tag last profile mode) s = .next t
              ∧ t.rc.state = .ended .complete ∧ t.rc.first = some s.tc.j ∧ t.rc.last = some last
              ∧ t.rc.profile = some profile ∧ t.rc.mode = mode ∧ t.rc.captured = 0 ∧ t.rc.doseSkipped = 0
              ∧ t = { s with rc := t.rc, lk := t.lk }
              ∧ (s.lk.sending = none →
                  t.lk.sending = some (.reply { kind := 0xD0#8, tag := tag, result := .accepted, body := [] })))
          ∧ ((openingAt s.sau.openings s.tc.j).left = .pending → s.tc.state = .unclamped →
              v.limits.policy = .clamp → s.lc.preview = none →
            ∃ t, exec (.runStart tag last profile mode) s = .next t
              ∧ t.rc.state = .active ∧ t.rc.phase = .clamping ∧ t.rc.haltRequested = false
              ∧ t.rc.pauseOpening = none ∧ t.rc.first = some s.tc.j ∧ t.rc.last = some last
              ∧ t.rc.profile = some profile ∧ t.rc.mode = mode ∧ t.rc.captured = 0 ∧ t.rc.doseSkipped = 0
              ∧ t.tc = { s.tc with
                  op := some { kind := .clamp, forward := true, remaining := 0, turned := 0, clampAfter := false
                               fromClamped := false, byRun := true }
                  state := .lowering, phaseStart := s.now, loweringDue := false }
              ∧ t.pins = { s.pins with platenUp := false }
              ∧ t = { s with tc := t.tc, pins := t.pins, rc := t.rc, lk := t.lk }
              ∧ (s.lk.sending = none →
                  t.lk.sending = some (.reply { kind := 0xD0#8, tag := tag, result := .accepted, body := [] }))))
    ∧ ((s.rc.state = .idle ∨ ∃ e, s.rc.state = .ended e) →
        exec (.runEnd tag) s = .next (s.answeredWith 0x51#8 tag .state))
    ∧ (s.runPaused = true → s.tc.op = none →
        ∃ t, exec (.runEnd tag) s = .next t ∧ t.rc.state = .ended .aborted ∧ t.rc.pauseOpening = none
          ∧ t = { s with rc := t.rc, lk := t.lk }
          ∧ (s.lk.sending = none →
              t.lk.sending = some (.reply { kind := 0xD1#8, tag := tag, result := .ok, body := [] }))))
  ∧ (∀ (tag : Byte) (last profile : Nat) (mode : RunMode) (s : State) (v : Volume), s.serves → s.sau.volume = some v →
      s.runActive = false → s.runPaused = false → s.settled = true → s.ticketOpen = false → s.tc.j ≤ last → last ≤ v.n →
      profile ≤ 3 →
      -- RC's CAPTURE
      (∀ rule : SideSelection, (openingAt s.sau.openings s.tc.j).left = .pending →
        (s.tc.state = .clamped ∨ v.limits.policy = .free) → rule = (profileAt s.set.profiles profile).selection →
        (s.captureRefusal profile (some rule) (s.select rule) false = none →
          ∃ t, exec (.runStart tag last profile (some mode)) s = .next t
            ∧ t.rc.state = .active ∧ t.rc.phase = .capturing ∧ t.rc.ticket = some s.cc.nextSerial ∧ t.cc.state = .settle
            ∧ t.cc.tickets.length = s.cc.tickets.length + 1 ∧ t.tc = s.tc ∧ t.pins = s.pins ∧ t.fb = s.fb)
        ∧ (∀ (r : Result) (st : RunState), s.captureRefusal profile (some rule) (s.select rule) false = some r →
            ((r, st) ∈ [(.doseVolume, .ended .exhausted), (.ringFull, .paused .tickets), (.held, .paused .tickets),
                (.noSync, .paused .sync), (.camera, .paused .camera), (.lamp, .paused .lamp), (.sensor, .paused .lamp)]
              ∨ (last = s.tc.j ∧ (r, st) ∈ [(.nothing, .ended .complete), (.doseOpening, .ended .complete)])) →
            ∃ t, exec (.runStart tag last profile (some mode)) s = .next t
              ∧ t.rc.state = st ∧ t.rc.phase = .none ∧ t.rc.captured = 0
              ∧ t.rc.doseSkipped = (if r = .doseOpening then 1 else 0)
              ∧ t.rc.volumeSkips = (if r = .doseOpening then min 65535 (s.rc.volumeSkips + 1) else s.rc.volumeSkips)
              ∧ t.cc = s.cc ∧ t.tc = s.tc ∧ t.sau = s.sau ∧ t.lc = s.lc ∧ t.pins = s.pins))
      -- the step's end
      ∧ ((openingAt s.sau.openings s.tc.j).left = .accepted → (openingAt s.sau.openings s.tc.j).right = .blank →
          s.tc.j < last → s.lc.preview = none →
          (v.limits.turning = .manualOnly → s.tc.state = .unclamped →
            ∃ t, exec (.runStart tag last profile (some mode)) s = .next t
              ∧ t.rc.state = .paused .manualTurn ∧ t.rc.pauseOpening = some s.tc.j ∧ t = { s with rc := t.rc, lk := t.lk })
          ∧ (v.limits.turning = .manualOnly → s.tc.state = .clamped →
              ∃ t, exec (.runStart tag last profile (some mode)) s = .next t
                ∧ t.rc.state = .active ∧ t.rc.phase = .unclamping ∧ t.tc.state = .raising
                ∧ t.tc.raiseGoal = some .unclamp ∧ (t.tc.op.map fun o => (o.kind, o.byRun)) = some (.unclamp, true)
                ∧ t = { s with tc := t.tc, rc := t.rc, lk := t.lk })
          ∧ (v.limits.turning = .auto → s.tc.state = .unclamped → v.foldouts.contains (s.tc.j + 1) = false →
              ∃ t, exec (.runStart tag last profile (some mode)) s = .next t
                ∧ t.rc.state = .active ∧ t.rc.phase = .turning ∧ t.tc.state = .lifting ∧ t.tc.attempt = 1
                ∧ t.tc.op = some { kind := .turn, forward := true, remaining := 1, turned := 0
                                   clampAfter := decide (v.limits.policy = .clamp), fromClamped := false, byRun := true }
                ∧ t = { s with tc := t.tc, pins := { s.pins with armPark := false }, rc := t.rc, lk := t.lk })))
  -- the end of an operation RC sent
  ∧ (∀ (s : State) (o : Op), s.quiet → s.runActive = true → s.tc.op = some o → o.byRun = true → s.tc.recover = none →
      s.tc.stopMark = false →
      (o.kind = .unclamp → s.tc.state = .raising → s.tc.raiseGoal = some .unclamp →
        ∃ t, exec .platenUpMade s = .next t ∧ t.tc.state = .unclamped ∧ t.tc.op = none
          ∧ t.rc.state = .paused (if s.rc.haltRequested then .halt else .manualTurn) ∧ t.rc.phase = .none
          ∧ t.rc.pauseOpening = (if s.rc.haltRequested then none else some s.tc.j) ∧ t.rc.haltRequested = false)
      ∧ (∀ limit, s.tc.resetStroke = false → s.endsNow (s.tc.phaseStart + limit * 1000) →
          (s.tc.state, limit) ∈ [(.lifting, 2000), (.carrying, 3000), (.releasing, 1500), (.returning, 2000),
            (.raising, 1500)] →
          ∃ t, exec .strokeTimeout s = .next t ∧ t.tc.state = .attention ∧ t.tc.op = none
            ∧ t.rc.state = .paused .turnFault ∧ t.rc.phase = .none ∧ t.rc.haltRequested = false)
      ∧ (o.kind = .turn → s.tc.state = .returning → s.tc.returnGoal = some .turn → s.tc.resetStroke = false →
          (0 < o.remaining → s.tc.haltMark = true →
            ∃ t, exec .armParkMade s = .next t ∧ t.tc.state = .halted ∧ (t.tc.op.map Op.remaining) = some o.remaining
              ∧ t.rc.state = .paused .halt)
          ∧ (0 < o.remaining → s.tc.haltMark = false → s.isFoldout s.tc.nextLeaf = true →
              ∃ t, exec .armParkMade s = .next t ∧ t.tc.state = .unclamped ∧ t.rc.state = .paused .foldout)
          ∧ (o.remaining = 0 → o.clampAfter = false → o.fromClamped = false →
              (s.rc.haltRequested = true →
                ∃ t, exec .armParkMade s = .next t ∧ t.tc.state = .unclamped ∧ t.rc.state = .paused .halt)
              ∧ (s.rc.haltRequested = false → s.rc.last = some s.tc.j →
                  (openingAt s.sau.openings s.tc.j).left = .accepted → (openingAt s.sau.openings s.tc.j).right = .blank →
                  ∃ t, exec .armParkMade s = .next t ∧ t.tc.state = .unclamped ∧ t.rc.state = .ended .complete)
              ∧ (∀ (v : Volume) (profile : Nat) (rule : SideSelection), s.rc.haltRequested = false →
                  s.sau.volume = some v → s.rc.profile = some profile → v.limits.policy = .free →
                  s.pins.guardOpen = false → s.ticketOpen = false →
                  (openingAt s.sau.openings s.tc.j).left = .pending →
                  rule = (profileAt s.set.profiles profile).selection →
                  State.captureRefusal profile (some rule) (s.select rule) false { s with
                    tc := { s.tc with state := .unclamped }, pins := { s.pins with armPark := true } } = none →
                  ∃ t, exec .armParkMade s = .next t ∧ t.tc.state = .unclamped ∧ t.rc.state = .active
                    ∧ t.rc.phase = .capturing ∧ t.rc.ticket = some s.cc.nextSerial ∧ t.cc.state = .settle)))
      ∧ (∀ (v : Volume) (x : Nat), o.kind = .clamp → s.tc.state = .lowering → s.sau.volume = some v →
          v.limits.forceTarget - v.limits.forceTarget / 20 ≤ x → x ≤ min (3 * v.limits.forceTarget / 2) 3600 →
          (s.rc.haltRequested = true →
            ∃ t, exec (.forceReading x) s = .next t ∧ t.rc.state = .paused .halt
              ∧ t.tc.state = (if s.tc.haltMark then .halted else .clamped))
          ∧ (s.rc.haltRequested = false → s.tc.haltMark = false → s.rc.last = some s.tc.j →
              (openingAt s.sau.openings s.tc.j).left = .accepted → (openingAt s.sau.openings s.tc.j).right = .blank →
              ∃ t, exec (.forceReading x) s = .next t ∧ t.tc.state = .clamped ∧ t.rc.state = .ended .complete)))
  -- the close of the run's ticket
  ∧ (∀ (s : State) (pre : List Ticket) (k : Ticket) (h : Half) (ready : Bool), s.quiet → s.cc.tickets = pre ++ [k] →
      k.closed = false → k.left = some h → h.result = none → k.right = none → s.cc.state = .collect →
      s.cc.camA.triggered = true → s.cc.camB.triggered = false → s.tc.pendingDwell = false →
      s.tc.pendingOverforce = false → s.rc.ticket = some k.serial →
      (∀ st, ((s.runPaused = true ∧ st = s.rc.state) ∨ (s.runActive = true ∧ s.rc.haltRequested = true ∧ st = .paused .halt)
          ∨ (s.runActive = true ∧ s.rc.haltRequested = false ∧ s.rc.last = some s.tc.j ∧ st = .ended .complete)) →
        ∃ t, exec (.cameraStored .a ready) s = .next t ∧ t.cc.state = .idle ∧ t.rc.state = st
          ∧ t.rc.captured = min 65535 (s.rc.captured + 1) ∧ t.rc.ticket = none)
      ∧ (s.runActive = false → s.runPaused = false →
          ∃ t, exec (.cameraStored .a ready) s = .next t ∧ t.cc.state = .idle ∧ t.rc.state = s.rc.state
            ∧ t.rc.captured = s.rc.captured ∧ t.rc.ticket = none))
  -- a WAITING run
  ∧ (∀ (s : State) (o : Op), s.powered = true → s.lk.queue = [] → s.rc.heardEnd = none → s.rc.heardClose = none →
      s.runActive = true → s.rc.phase = .waiting → s.tc.op = some o → o.byRun = false → o.kind = .unclamp →
      s.tc.state = .raising → s.tc.raiseGoal = some .unclamp → s.tc.recover = none → s.tc.stopMark = false →
      (s.rc.due = some .stepEnd → s.rc.last = some s.tc.j → s.pins.armPark = true → s.pins.guardOpen = false →
        s.ticketOpen = false →
        ∃ t, exec .platenUpMade s = .next t ∧ t.tc.state = .unclamped ∧ t.rc.state = .ended .complete)
      ∧ (s.tc.resetStroke = false → s.endsNow (s.tc.phaseStart + 1500000) →
          ∃ t, exec .strokeTimeout s = .next t ∧ t.tc.state = .attention ∧ t.rc.state = .paused .turnFault))
  -- HALT, TICKET RELEASE and RESUME
  ∧ (∀ (tag : Byte) (s : State), s.serves →
      (s.runActive = true → (s.tc.state = .unclamped ∨ s.tc.state = .clamped) →
        exec (.halt tag) s
          = .next (State.answeredWith 0x23#8 tag .ok { s with rc := { s.rc with haltRequested := true } }))
      ∧ (s.rc.state = .paused .tickets → (s.tc.state = .unclamped ∨ s.tc.state = .clamped) →
          ∃ t, exec (.halt tag) s = .next t ∧ t.rc.state = .paused .halt ∧ t = { s with rc := t.rc, lk := t.lk })
      ∧ (∀ (l r : Verdict) (k : Ticket) (rest : List Ticket) (a b : Nat), s.rc.state = .paused .tickets →
          s.rc.first = some a → s.rc.last = some b → s.cc.tickets = k :: rest → k.closed = true → k.orphaned = true →
          ((s.tc.j < a ∨ b < s.tc.j) →
            ∃ t, exec (.ticketRelease tag 1 (some l) (some r)) s = .next t ∧ t.cc.tickets = rest
              ∧ t.rc.state = .ended .outOfRange)
          ∧ (a ≤ s.tc.j → s.tc.j ≤ b → s.settled = false →
              ∃ t, exec (.ticketRelease tag 1 (some l) (some r)) s = .next t ∧ t.cc.tickets = rest ∧ t.rc = s.rc)
          ∧ (a ≤ s.tc.j → s.tc.j = b → s.settled = true → (openingAt s.sau.openings s.tc.j).left = .accepted →
              (openingAt s.sau.openings s.tc.j).right = .blank →
              ∃ t, exec (.ticketRelease tag 1 (some l) (some r)) s = .next t ∧ t.cc.tickets = rest
                ∧ t.rc.state = .ended .complete))
      ∧ (∀ (reason : PauseReason) (a b : Nat), s.rc.state = .paused reason → s.rc.first = some a → s.rc.last = some b →
          ((s.tc.j < a ∨ b < s.tc.j) →
            ∃ t, exec (.resume tag) s = .next t ∧ t.rc.state = .ended .outOfRange ∧ t = { s with rc := t.rc, lk := t.lk })
          ∧ (a ≤ s.tc.j → s.tc.j ≤ b →
              (reason = .manualTurn → s.rc.pauseOpening = some s.tc.j →
                exec (.resume tag) s = .next (s.answeredWith 0x24#8 tag .state))
              ∧ (s.tc.state ≠ .halted → s.settled = false →
                  exec (.resume tag) s = .next (s.answeredWith 0x24#8 tag .state))
              ∧ (s.settled = true → s.tc.j = b → ¬ (reason = .manualTurn ∧ s.rc.pauseOpening = some s.tc.j) →
                  (openingAt s.sau.openings s.tc.j).left = .accepted → (openingAt s.sau.openings s.tc.j).right = .blank →
                  ∃ t, exec (.resume tag) s = .next t ∧ t.rc.state = .ended .complete
                    ∧ t = { s with rc := t.rc, lk := t.lk }
                    ∧ (s.lk.sending = none → t.lk.sending = some (.reply
                        { kind := 0xA4#8, tag := tag, result := .accepted, body := [] })))
              ∧ (∀ o, s.tc.state = .halted → s.tc.op = some o → o.byRun = true → o.kind = .turn → 0 < o.remaining →
                  reason ≠ .manualTurn → s.isFoldout s.tc.nextLeaf = false → s.platenDown = false →
                  ∃ t, exec (.resume tag) s = .next t ∧ t.tc.state = .lifting ∧ t.rc.state = .active
                    ∧ t.rc.phase = .turning ∧ t.rc.haltRequested = false ∧ t.rc.pauseOpening = none))))
  -- RUN END, and what TC then finishes
  ∧ (∀ (tag : Byte) (s : State), s.serves → (s.runActive = true ∨ s.runPaused = true) →
      ∃ t, exec (.runEnd tag) s = .next t ∧ t.rc.state = .ended .aborted ∧ t.rc.phase = .none
        ∧ t.rc.haltRequested = false ∧ t.rc.pauseOpening = none
        ∧ t = { s with tc := t.tc, rc := t.rc, lk := t.lk }
        ∧ (s.lk.sending = none →
            t.lk.sending = some (.reply { kind := 0xD1#8, tag := tag, result := .ok, body := [] }))
        ∧ (∀ o, s.tc.op = some o → o.byRun = true →
            s.tc.state ∈ [.lifting, .carrying, .releasing, .returning, .lowering, .raising] →
            t.tc = { s.tc with stopMark := true })
        ∧ (∀ o, s.tc.op = some o → o.byRun = true → s.tc.state = .halted → s.tc.recover = none →
            opStopped o (if s.platenDown then .clamped else .unclamped) s t ∧ t.tc.loweringDue = false)
        ∧ ((s.tc.state ∈ [.homing, .unclamped, .clamped, .seek, .attention, .safeStop]
            ∨ ∀ o, s.tc.op = some o → o.byRun = false) → t.tc = s.tc))
  ∧ (∀ (s : State) (o : Op) (v : Volume), s.quiet → s.runActive = false → s.tc.op = some o → s.tc.stopMark = true →
      s.tc.recover = none → s.sau.volume = some v →
      (s.tc.state = .returning → s.tc.returnGoal = some .turn → s.tc.resetStroke = false →
        ∃ t, exec .armParkMade s = .next t ∧ opStopped o .unclamped s t)
      ∧ (∀ goal, s.tc.state = .raising → s.tc.raiseGoal = some goal → goal ∈ [.unclamp, .lift, .foldoutStop] →
          ∃ t, exec .platenUpMade s = .next t ∧ opStopped o .unclamped s t)
      ∧ (∀ x, s.tc.state = .lowering → v.limits.forceTarget - v.limits.forceTarget / 20 ≤ x →
          x ≤ min (3 * v.limits.forceTarget / 2) 3600 →
          ∃ t, exec (.forceReading x) s = .next t ∧ opStopped o .clamped s t))

/-- PENDANT MODE sets the mode, and another value is refused with ARGUMENT (R157). A reading that differs from the stable
level becomes the candidate, and one equal to it drops the candidate; a candidate press held for 20 ms becomes stable and
acts (R156). HALT acts as the HALT request in every mode: it marks the operation TC moves, is noted by an ACTIVE run, gives
a run PAUSED with TICKETS its own reason, and is refused in HOMING (R42, R149, R157). Of the other keys none acts in FORWARD
or OFF; a press joins the PENDANT notice but in OFF (R157, R159). In LOCAL every press is recorded, with its request and
result or with none. PEDAL is ignored while the run is ACTIVE or PAUSED with TURN-FAULT or GUARD, or where no run holds an
unsettled cradle; else it is RESUME in a PAUSED run, and CAPTURE with profile 0 in none. CONFIRM leaves SEEK, and ATTENTION
with both switches made, j following a leaf in hand; with MANUAL-TURN it advances j; elsewhere it is ignored (R49, R152).
RETAKE sets the HELD and ACCEPTED sides of the current opening to RETAKE and flags the halves of the HELD ones, and is
ignored in SEEK and with nothing mounted (R130). LAMP ends a lit preview, and else asks for PREVIEW with profile 0 for 10 s;
MARK acts on nothing (R158). The instant of the press: log entry 3; what CONFIRM and RETAKE record: log entry 25. -/
def Obligations.PendantKeysAreDebounced : Prop :=
  (∀ (tag : Byte) (s : State), s.serves →
    exec (.pendantMode tag none) s = .next (s.answeredWith 0x53#8 tag .argument)
    ∧ ∀ m, exec (.pendantMode tag (some m)) s
        = .next (State.answeredWith 0x53#8 tag .ok { s with set := { s.set with pendantMode := m } }))
  ∧ (∀ (k : Key) (level : Bool) (i : KeyInput) (s : State), s.quiet → s.ps.inputs.get k = i →
      exec (.pendantInputChange k level) s
        = .next (State.kick { s with
            pins := { s.pins with keys := s.pins.keys.set k level }
            ps := { s.ps with
              inputs := s.ps.inputs.set k
                { stable := i.stable
                  candidate := if level = i.stable then none else i.candidate.or (some (level, s.now)) } } }))
  ∧ ∀ (k : Key) (since : Nat) (s p : State), s.quiet → s.starting = false →
      (s.ps.inputs.get k).candidate = some (true, since) → s.endsNow (since + 20000) → p = s.debounced k since →
      -- FORWARD and OFF
      (s.set.pendantMode ≠ .localMode → k ≠ .halt → ∃ t, exec (.keyPress k) s = .next t ∧ pressLeaves k p t)
      -- HALT, in every mode
      ∧ (k = .halt →
          (s.tc.state = .homing → s.runActive = false → s.runPaused = false →
            ∃ t, exec (.keyPress k) s = .next t ∧ pressLeaves k (p.recorded k (some .halt) (some .state)) t)
          ∧ (s.tc.state ∈ [.lifting, .carrying, .releasing, .returning, .raising, .lowering] → s.runActive = false →
              s.runPaused = false →
              ∃ t, exec (.keyPress k) s = .next t
                ∧ pressLeaves k (State.recorded k (some .halt) (some .ok) { p with tc := { s.tc with haltMark := true } }) t)
          ∧ ((s.tc.state = .unclamped ∨ s.tc.state = .clamped) →
              (s.runActive = true →
                ∃ t, exec (.keyPress k) s = .next t
                  ∧ pressLeaves k (State.recorded k (some .halt) (some .ok)
                      { p with rc := { s.rc with haltRequested := true } }) t)
              ∧ (s.rc.state = .paused .tickets →
                  ∃ t l, exec (.keyPress k) s = .next t
                    ∧ pressLeaves k (State.recorded k (some .halt) (some .ok)
                        { p with rc := { s.rc with state := .paused .halt }, lk := l }) t)))
      -- the other keys in LOCAL
      ∧ (s.set.pendantMode = .localMode →
          (k = .mark → ∃ t, exec (.keyPress k) s = .next t ∧ pressLeaves k (p.recorded k none none) t)
          ∧ (k = .pedal →
              ((s.runActive = true ∨ s.rc.state = .paused .turnFault ∨ s.rc.state = .paused .guard
                  ∨ (s.runPaused = false ∧ s.settled = false)) →
                ∃ t, exec (.keyPress k) s = .next t ∧ pressLeaves k (p.recorded k none none) t)
              ∧ (∀ (reason : PauseReason) (a b : Nat), s.rc.state = .paused reason → reason ≠ .turnFault → reason ≠ .guard →
                  s.rc.first = some a → s.rc.last = some b →
                  ((s.tc.j < a ∨ b < s.tc.j) →
                    ∃ t l, exec (.keyPress k) s = .next t
                      ∧ pressLeaves k (State.recorded k (some .resume) (some .ok) { p with
                          rc := { s.rc with
                            state := .ended .outOfRange, phase := .none, due := none, haltRequested := false
                            pauseOpening := none }
                          lk := l }) t)
                  ∧ (a ≤ s.tc.j → s.tc.j ≤ b → reason = .manualTurn → s.rc.pauseOpening = some s.tc.j →
                      ∃ t, exec (.keyPress k) s = .next t ∧ pressLeaves k (p.recorded k (some .resume) (some .state)) t))
              ∧ (∀ rule, s.runActive = false → s.runPaused = false → s.settled = true →
                  rule = (profileAt s.set.profiles 0).selection →
                  (∀ r, s.captureRefusal 0 (some rule) (s.select rule) true = some r → r ≠ .ringFull →
                    ∃ t, exec (.keyPress k) s = .next t ∧ pressLeaves k (p.recorded k (some .capture) (some r)) t)
                  ∧ (s.captureRefusal 0 (some rule) (s.select rule) true = none →
                      ∃ t, exec (.keyPress k) s = .next t ∧ t.cc.state = .settle
                        ∧ t.cc.tickets.length = s.cc.tickets.length + 1 ∧ t.tc = s.tc ∧ t.rc = s.rc ∧ t.fb = s.fb
                        ∧ t.ps = (p.recorded k (some .capture) (some .accepted)).ps)))
          ∧ (k = .confirm →
              (s.tc.state = .seek → ∃ t, exec (.keyPress k) s = .next t ∧ t.tc.state = .unclamped ∧ t.tc.j = s.tc.j
                ∧ t.tc.op = none ∧ pressLeaves k (State.recorded k (some .confirm) (some .ok) { p with tc := t.tc }) t)
              ∧ (∀ a, s.tc.state = .attention → s.tc.attention = some a → s.pins.armPark = true → s.pins.platenUp = true →
                  ∃ t, exec (.keyPress k) s = .next t ∧ t.tc.state = .unclamped ∧ t.tc.attention = none ∧ t.tc.op = none
                    ∧ t.tc.leafInHand = false
                    ∧ t.tc.j = (if s.tc.leafInHand = true ∧ s.sau.volume.isSome = true then
                        (match a.sign with
                         | some true => s.tc.j + 1
                         | some false => s.tc.j - 1
                         | none => s.tc.j)
                      else s.tc.j)
                    ∧ pressLeaves k (State.recorded k (some .confirm) (some .ok) { p with tc := t.tc }) t)
              ∧ (∀ v, s.sau.volume = some v → s.tc.state = .unclamped → s.rc.state = .paused .manualTurn →
                  ∃ t, exec (.keyPress k) s = .next t
                    ∧ pressLeaves k (State.recorded k (some .confirm) (some .ok) { p with
                        tc := { s.tc with j := if s.tc.j < v.n then s.tc.j + 1 else s.tc.j } }) t)
              ∧ (((s.tc.state = .attention ∧ (s.pins.armPark = false ∨ s.pins.platenUp = false))
                    ∨ (s.tc.state ∉ [.seek, .attention] ∧ ¬ (s.tc.state = .unclamped ∧ s.rc.state = .paused .manualTurn))) →
                  ∃ t, exec (.keyPress k) s = .next t ∧ pressLeaves k (p.recorded k none none) t))
          ∧ (k = .retake →
              ((s.sau.volume = none ∨ s.tc.state = .seek) →
                ∃ t, exec (.keyPress k) s = .next t ∧ pressLeaves k (p.recorded k none none) t)
              ∧ (∀ v, s.sau.volume = some v → s.tc.state ≠ .seek →
                  ∃ t, exec (.keyPress k) s = .next t
                    ∧ pressLeaves k (State.recorded k (some .retake) (some .ok) { p with
                        sau := { s.sau with openings := s.sau.openings.modify s.tc.j fun o =>
                          { o with
                            left := if s.leftNow = 0 then o.left else retaken o.left
                            right := if s.rightNow = 0 then o.right else retaken o.right } }
                        cc := { s.cc with tickets := s.cc.tickets.map fun c =>
                          if c.mountNo = v.mountNo ∧ c.orphaned = false then
                            { c with
                              left := c.left.map fun h => if s.halfRetaken h then { h with superseded := true } else h
                              right := c.right.map fun h => if s.halfRetaken h then { h with superseded := true } else h }
                          else c } }) t))
          ∧ (k = .lamp →
              (s.lc.preview.isSome = true →
                ∃ t, exec (.keyPress k) s = .next t ∧ t.lc.preview = none ∧ t.lc.lastEnd = some .off ∧ t.dark
                  ∧ pressLeaves k (State.recorded k (some .previewOff) (some .ok) { p with lc := t.lc, di := t.di }) t)
              ∧ (∀ r, s.lc.preview = none → s.previewRefusal 0 10 = some r →
                  ∃ t, exec (.keyPress k) s = .next t ∧ pressLeaves k (p.recorded k (some .preview) (some r)) t)
              ∧ (s.sau.volume.isSome = true → s.lc.preview = none → s.runActive = true → s.previewRefusal 0 10 = some .state)
              ∧ (s.previewRefusal 0 10 = none →
                  ∃ t, exec (.keyPress k) s = .next t
                    ∧ t.lc.preview = some { profile := 0, start := p.now / 1000, finish := p.now / 1000 + 10000 }
                    ∧ pressLeaves k (State.recorded k (some .preview) (some .ok) { p with lc := t.lc }) t)))

/-! ### Status requests -/

/-- TURN, LAMP, DOSE, CAPTURE, SYNC, RING, RUN and PENDANT STATUS reply OK at any time after start-up and change no state
(R54, R73, R100, R125, R112, R141, R155, R160). The numbers of states that chapter 12 does not code: log entry 7. -/
def Obligations.StatusRequestsChangeNothing : Prop :=
  ∀ (tag : Byte) (s : State), s.serves →
    (∃ b, exec (.turnStatus tag) s
      = .next (s.answered 0x28#8 tag ⟨.ok, [.num s.tc.state.code, .num s.tc.j, .flag s.sau.volume.isSome] ++ b⟩))
    ∧ (∃ b, exec (.lampStatus tag) s = .next (s.answered 0x34#8 tag ⟨.ok, b⟩))
    ∧ (∃ b, exec (.doseStatus tag) s = .next (s.answered 0x38#8 tag ⟨.ok, .flag s.sau.volume.isSome :: b⟩))
    ∧ (∃ b, exec (.captureStatus tag) s = .next (s.answered 0x43#8 tag ⟨.ok, .num s.cc.state.order :: b⟩))
    ∧ (∃ b, exec (.syncStatus tag) s = .next (s.answered 0x46#8 tag ⟨.ok, .num s.cc.sync.state.order :: b⟩))
    ∧ (∃ b, exec (.ringStatus tag) s
      = .next (s.answered 0x4B#8 tag ⟨.ok, [.num s.cc.oldest, .num s.cc.tickets.length] ++ b⟩))
    ∧ (∃ b, exec (.runStatus tag) s = .next (s.answered 0x52#8 tag ⟨.ok, s.rc.state.items ++ b⟩))
    ∧ (∃ b, exec (.pendantStatus tag) s = .next (s.answered 0x54#8 tag ⟨.ok, b⟩))
end

