-- ==== Sys2Proof/Laws/State.lean ====
section
/-! SUPPORT. One lemma per field for the updates of State that name no field of their own. -/

set_option Elab.async false

namespace Sys2Proof.Machine

/-- Two states that agree in every field are one. -/
theorem State.ext_fields {s t : State} (h1 : s.now = t.now) (h2 : s.powered = t.powered) (h3 : s.start = t.start)
    (h4 : s.pins = t.pins) (h5 : s.set = t.set) (h6 : s.sau = t.sau) (h7 : s.tc = t.tc) (h8 : s.lc = t.lc)
    (h9 : s.di = t.di) (h10 : s.cc = t.cc) (h11 : s.rc = t.rc) (h12 : s.ps = t.ps) (h13 : s.fb = t.fb)
    (h14 : s.lk = t.lk) (h15 : s.ss = t.ss) (h16 : s.pending = t.pending) : s = t := by
  cases s
  cases t
  simp only at *
  subst_vars
  rfl

variable (s : State)

/-! ### Containers -/

@[simp] theorem PerBank.get_set_same {α : Type} (p : PerBank α) (b : LampBank) (v : α) : (p.set b v).get b = v := by
  cases b <;> rfl

theorem PerBank.get_set {α : Type} (p : PerBank α) (b c : LampBank) (v : α) :
    (p.set b v).get c = if c = b then v else p.get c := by
  cases b <;> cases c <;> rfl

@[simp] theorem PerBank.get_of {α : Type} (f : LampBank → α) (b : LampBank) : (PerBank.of f).get b = f b := by
  cases b <;> rfl

@[simp] theorem PerBank.get_map {α β : Type} (f : α → β) (p : PerBank α) (b : LampBank) :
    (p.map f).get b = f (p.get b) := by
  cases b <;> rfl

/-- A bank meets `f` exactly where `any` says so. -/
theorem PerBank.any_eq_true (f : LampBank → Bool) : PerBank.any f = true ↔ ∃ b, f b = true := by
  constructor
  · intro h
    simp only [PerBank.any, Bool.or_eq_true] at h
    rcases h with ((h | h) | h) | h
    · exact ⟨_, h⟩
    · exact ⟨_, h⟩
    · exact ⟨_, h⟩
    · exact ⟨_, h⟩
  · rintro ⟨b, h⟩
    cases b <;> simp [PerBank.any, h]

@[simp] theorem PerKey.get_set_same {α : Type} (p : PerKey α) (k : Key) (v : α) : (p.set k v).get k = v := by
  cases k <;> rfl

theorem PerKey.get_set {α : Type} (p : PerKey α) (k c : Key) (v : α) :
    (p.set k v).get c = if c = k then v else p.get c := by
  cases k <;> cases c <;> rfl

@[simp] theorem PerFaultBank.get_set_same {α : Type} (p : PerFaultBank α) (b : FaultBank) (v : α) :
    (p.set b v).get b = v := by
  cases b <;> rfl

theorem PerFaultBank.get_set {α : Type} (p : PerFaultBank α) (b c : FaultBank) (v : α) :
    (p.set b v).get c = if c = b then v else p.get c := by
  cases b <;> cases c <;> rfl

/-! ### withTc -/

section withTc
variable (f : Tc → Tc)
@[simp] theorem withTc_tc : (s.withTc f).tc = f s.tc := rfl
@[simp] theorem withTc_now : (s.withTc f).now = s.now := rfl
@[simp] theorem withTc_powered : (s.withTc f).powered = s.powered := rfl
@[simp] theorem withTc_start : (s.withTc f).start = s.start := rfl
@[simp] theorem withTc_pins : (s.withTc f).pins = s.pins := rfl
@[simp] theorem withTc_set : (s.withTc f).set = s.set := rfl
@[simp] theorem withTc_sau : (s.withTc f).sau = s.sau := rfl
@[simp] theorem withTc_lc : (s.withTc f).lc = s.lc := rfl
@[simp] theorem withTc_di : (s.withTc f).di = s.di := rfl
@[simp] theorem withTc_cc : (s.withTc f).cc = s.cc := rfl
@[simp] theorem withTc_rc : (s.withTc f).rc = s.rc := rfl
@[simp] theorem withTc_ps : (s.withTc f).ps = s.ps := rfl
@[simp] theorem withTc_fb : (s.withTc f).fb = s.fb := rfl
@[simp] theorem withTc_lk : (s.withTc f).lk = s.lk := rfl
@[simp] theorem withTc_ss : (s.withTc f).ss = s.ss := rfl
@[simp] theorem withTc_pending : (s.withTc f).pending = s.pending := rfl
end withTc

/-! ### withRc -/

section withRc
variable (f : Rc → Rc)
@[simp] theorem withRc_rc : (s.withRc f).rc = f s.rc := rfl
@[simp] theorem withRc_now : (s.withRc f).now = s.now := rfl
@[simp] theorem withRc_powered : (s.withRc f).powered = s.powered := rfl
@[simp] theorem withRc_start : (s.withRc f).start = s.start := rfl
@[simp] theorem withRc_pins : (s.withRc f).pins = s.pins := rfl
@[simp] theorem withRc_set : (s.withRc f).set = s.set := rfl
@[simp] theorem withRc_sau : (s.withRc f).sau = s.sau := rfl
@[simp] theorem withRc_tc : (s.withRc f).tc = s.tc := rfl
@[simp] theorem withRc_lc : (s.withRc f).lc = s.lc := rfl
@[simp] theorem withRc_di : (s.withRc f).di = s.di := rfl
@[simp] theorem withRc_cc : (s.withRc f).cc = s.cc := rfl
@[simp] theorem withRc_ps : (s.withRc f).ps = s.ps := rfl
@[simp] theorem withRc_fb : (s.withRc f).fb = s.fb := rfl
@[simp] theorem withRc_lk : (s.withRc f).lk = s.lk := rfl
@[simp] theorem withRc_ss : (s.withRc f).ss = s.ss := rfl
@[simp] theorem withRc_pending : (s.withRc f).pending = s.pending := rfl
end withRc

/-! ### withLk -/

section withLk
variable (f : Lk → Lk)
@[simp] theorem withLk_lk : (s.withLk f).lk = f s.lk := rfl
@[simp] theorem withLk_now : (s.withLk f).now = s.now := rfl
@[simp] theorem withLk_powered : (s.withLk f).powered = s.powered := rfl
@[simp] theorem withLk_start : (s.withLk f).start = s.start := rfl
@[simp] theorem withLk_pins : (s.withLk f).pins = s.pins := rfl
@[simp] theorem withLk_set : (s.withLk f).set = s.set := rfl
@[simp] theorem withLk_sau : (s.withLk f).sau = s.sau := rfl
@[simp] theorem withLk_tc : (s.withLk f).tc = s.tc := rfl
@[simp] theorem withLk_lc : (s.withLk f).lc = s.lc := rfl
@[simp] theorem withLk_di : (s.withLk f).di = s.di := rfl
@[simp] theorem withLk_cc : (s.withLk f).cc = s.cc := rfl
@[simp] theorem withLk_rc : (s.withLk f).rc = s.rc := rfl
@[simp] theorem withLk_ps : (s.withLk f).ps = s.ps := rfl
@[simp] theorem withLk_fb : (s.withLk f).fb = s.fb := rfl
@[simp] theorem withLk_ss : (s.withLk f).ss = s.ss := rfl
@[simp] theorem withLk_pending : (s.withLk f).pending = s.pending := rfl
end withLk

/-! ### goTo -/

section goTo
variable (t : Nat)
@[simp] theorem goTo_now : (s.goTo t).now = max s.now t := rfl
@[simp] theorem goTo_powered : (s.goTo t).powered = s.powered := rfl
@[simp] theorem goTo_start : (s.goTo t).start = s.start := rfl
@[simp] theorem goTo_pins : (s.goTo t).pins = s.pins := rfl
@[simp] theorem goTo_set : (s.goTo t).set = s.set := rfl
@[simp] theorem goTo_sau : (s.goTo t).sau = s.sau := rfl
@[simp] theorem goTo_tc : (s.goTo t).tc = s.tc := rfl
@[simp] theorem goTo_lc : (s.goTo t).lc = s.lc := rfl
@[simp] theorem goTo_di : (s.goTo t).di = s.di := rfl
@[simp] theorem goTo_cc : (s.goTo t).cc = s.cc := rfl
@[simp] theorem goTo_rc : (s.goTo t).rc = s.rc := rfl
@[simp] theorem goTo_ps : (s.goTo t).ps = s.ps := rfl
@[simp] theorem goTo_fb : (s.goTo t).fb = s.fb := rfl
@[simp] theorem goTo_lk : (s.goTo t).lk = s.lk := rfl
@[simp] theorem goTo_ss : (s.goTo t).ss = s.ss := rfl
@[simp] theorem goTo_pending : (s.goTo t).pending = s.pending := rfl
end goTo

/-! ### withSync, onOpenTicket, setFaultBank, setInput, recordLocal -/

@[simp] theorem withSync_sync (f : Sync → Sync) : (s.withSync f).cc.sync = f s.cc.sync := rfl
@[simp] theorem withSync_tickets (f : Sync → Sync) : (s.withSync f).cc.tickets = s.cc.tickets := rfl
@[simp] theorem withSync_state (f : Sync → Sync) : (s.withSync f).cc.state = s.cc.state := rfl
@[simp] theorem withSync_lk (f : Sync → Sync) : (s.withSync f).lk = s.lk := rfl
@[simp] theorem withSync_rc (f : Sync → Sync) : (s.withSync f).rc = s.rc := rfl
@[simp] theorem withSync_lc (f : Sync → Sync) : (s.withSync f).lc = s.lc := rfl
@[simp] theorem withSync_di (f : Sync → Sync) : (s.withSync f).di = s.di := rfl
@[simp] theorem withSync_now (f : Sync → Sync) : (s.withSync f).now = s.now := rfl
@[simp] theorem onOpenTicket_tickets (f : Ticket → Ticket) :
    (s.onOpenTicket f).cc.tickets = mapOpen f s.cc.tickets := rfl
@[simp] theorem onOpenTicket_now (f : Ticket → Ticket) : (s.onOpenTicket f).now = s.now := rfl
@[simp] theorem onOpenTicket_powered (f : Ticket → Ticket) : (s.onOpenTicket f).powered = s.powered := rfl
@[simp] theorem onOpenTicket_start (f : Ticket → Ticket) : (s.onOpenTicket f).start = s.start := rfl
@[simp] theorem onOpenTicket_pins (f : Ticket → Ticket) : (s.onOpenTicket f).pins = s.pins := rfl
@[simp] theorem onOpenTicket_set (f : Ticket → Ticket) : (s.onOpenTicket f).set = s.set := rfl
@[simp] theorem onOpenTicket_sau (f : Ticket → Ticket) : (s.onOpenTicket f).sau = s.sau := rfl
@[simp] theorem onOpenTicket_tc (f : Ticket → Ticket) : (s.onOpenTicket f).tc = s.tc := rfl
@[simp] theorem onOpenTicket_ps (f : Ticket → Ticket) : (s.onOpenTicket f).ps = s.ps := rfl
@[simp] theorem onOpenTicket_fb (f : Ticket → Ticket) : (s.onOpenTicket f).fb = s.fb := rfl
@[simp] theorem onOpenTicket_ss (f : Ticket → Ticket) : (s.onOpenTicket f).ss = s.ss := rfl
@[simp] theorem onOpenTicket_pending (f : Ticket → Ticket) : (s.onOpenTicket f).pending = s.pending := rfl
@[simp] theorem onOpenTicket_lk (f : Ticket → Ticket) : (s.onOpenTicket f).lk = s.lk := rfl
@[simp] theorem onOpenTicket_rc (f : Ticket → Ticket) : (s.onOpenTicket f).rc = s.rc := rfl
@[simp] theorem onOpenTicket_lc (f : Ticket → Ticket) : (s.onOpenTicket f).lc = s.lc := rfl
@[simp] theorem onOpenTicket_di (f : Ticket → Ticket) : (s.onOpenTicket f).di = s.di := rfl
@[simp] theorem setFaultBank_banks (b : FaultBank) (f : FaultBankState) :
    (s.setFaultBank b f).fb.banks = s.fb.banks.set b f := rfl
@[simp] theorem setFaultBank_lk (b : FaultBank) (f : FaultBankState) : (s.setFaultBank b f).lk = s.lk := rfl
@[simp] theorem setFaultBank_set (b : FaultBank) (f : FaultBankState) : (s.setFaultBank b f).set = s.set := rfl
@[simp] theorem setInput_inputs (k : Key) (v : KeyInput) : (s.setInput k v).ps.inputs = s.ps.inputs.set k v := rfl
@[simp] theorem setInput_lk (k : Key) (v : KeyInput) : (s.setInput k v).lk = s.lk := rfl
@[simp] theorem setInput_rc (k : Key) (v : KeyInput) : (s.setInput k v).rc = s.rc := rfl
@[simp] theorem recordLocal_lastLocal (k : Key) (r : Option (LocalRequest × Result)) :
    (s.recordLocal k r).ps.lastLocal
      = some { key := k, request := r.map Prod.fst, result := r.map Prod.snd, time := s.clock } := rfl
@[simp] theorem recordLocal_lk (k : Key) (r : Option (LocalRequest × Result)) : (s.recordLocal k r).lk = s.lk := rfl

/-! ### setSensor -/

section setSensor
variable (raw : Nat)
@[simp] theorem setSensor_pins : (s.setSensor raw).pins = { s.pins with sensorRaw := raw } := rfl
@[simp] theorem setSensor_now : (s.setSensor raw).now = s.now := rfl
@[simp] theorem setSensor_powered : (s.setSensor raw).powered = s.powered := rfl
@[simp] theorem setSensor_start : (s.setSensor raw).start = s.start := rfl
@[simp] theorem setSensor_set : (s.setSensor raw).set = s.set := rfl
@[simp] theorem setSensor_sau : (s.setSensor raw).sau = s.sau := rfl
@[simp] theorem setSensor_tc : (s.setSensor raw).tc = s.tc := rfl
@[simp] theorem setSensor_lc : (s.setSensor raw).lc = s.lc := rfl
@[simp] theorem setSensor_di : (s.setSensor raw).di = s.di := rfl
@[simp] theorem setSensor_cc : (s.setSensor raw).cc = s.cc := rfl
@[simp] theorem setSensor_rc : (s.setSensor raw).rc = s.rc := rfl
@[simp] theorem setSensor_ps : (s.setSensor raw).ps = s.ps := rfl
@[simp] theorem setSensor_fb : (s.setSensor raw).fb = s.fb := rfl
@[simp] theorem setSensor_lk : (s.setSensor raw).lk = s.lk := rfl
@[simp] theorem setSensor_ss : (s.setSensor raw).ss = s.ss := rfl
@[simp] theorem setSensor_pending : (s.setSensor raw).pending = s.pending := rfl
end setSensor

end Sys2Proof.Machine
end

