-- ==== Sys2Proof/Laws/Link.lean ====
section
/-! SUPPORT. What LK's shared operations do: the transmitter's choice, the taking of a request, and what an event brings
with it. -/

set_option Elab.async false

namespace Sys2Proof.Machine

variable {s : State}

/-! ### The transmitter (R189) -/

theorem kick_busy (h : s.lk.sending.isSome = true) : s.kick = s := by
  simp [State.kick, h]

theorem kick_reply (h : s.lk.sending = none) {r : Reply} (hr : s.lk.slot = some r) :
    s.kick = s.withLk fun l => { l with slot := none, sending := some (.reply r) } := by
  simp [State.kick, h, hr]

theorem kick_notice (h : s.lk.sending = none) (hr : s.lk.slot = none) {k : NoticeKind} (hk : s.earliest? = some k) :
    s.kick = s.sendNotice k := by
  simp [State.kick, h, hr, hk]

theorem kick_idle (hr : s.lk.slot = none) (hk : s.earliest? = none) : s.kick = s := by
  simp [State.kick, hr, hk]

/-- Everything `kick` can do: begin the waiting reply, begin the earliest pending notice, or nothing. -/
theorem kick_cases (s : State) :
    s.kick = s
    ∨ (∃ r, s.lk.sending = none ∧ s.lk.slot = some r
        ∧ s.kick = s.withLk fun l => { l with slot := none, sending := some (.reply r) })
    ∨ (∃ k, s.lk.sending = none ∧ s.lk.slot = none ∧ s.earliest? = some k ∧ s.kick = s.sendNotice k) := by
  unfold State.kick
  split
  · exact .inl rfl
  · rename_i h
    have h0 : s.lk.sending = none := by simpa using h
    split
    · rename_i r hr
      exact .inr (.inl ⟨r, h0, hr, rfl⟩)
    · rename_i hr
      split
      · rename_i k hk
        exact .inr (.inr ⟨k, h0, hr, hk, rfl⟩)
      · exact .inl rfl

/-- The transmitter changes LK's part alone. -/
theorem kick_frame (s : State) : sameOutsideLink s s.kick := by
  rcases kick_cases s with h | ⟨r, -, -, h⟩ | ⟨k, -, -, -, h⟩
  · rw [h]
    rfl
  · rw [h]
    rfl
  · rw [h]
    rfl

section fields
variable (s : State)
@[simp] theorem kick_now : s.kick.now = s.now := by
  rw [kick_frame s]
@[simp] theorem kick_powered : s.kick.powered = s.powered := by
  rw [kick_frame s]
@[simp] theorem kick_start : s.kick.start = s.start := by
  rw [kick_frame s]
@[simp] theorem kick_pins : s.kick.pins = s.pins := by
  rw [kick_frame s]
@[simp] theorem kick_set : s.kick.set = s.set := by
  rw [kick_frame s]
@[simp] theorem kick_sau : s.kick.sau = s.sau := by
  rw [kick_frame s]
@[simp] theorem kick_tc : s.kick.tc = s.tc := by
  rw [kick_frame s]
@[simp] theorem kick_lc : s.kick.lc = s.lc := by
  rw [kick_frame s]
@[simp] theorem kick_di : s.kick.di = s.di := by
  rw [kick_frame s]
@[simp] theorem kick_cc : s.kick.cc = s.cc := by
  rw [kick_frame s]
@[simp] theorem kick_rc : s.kick.rc = s.rc := by
  rw [kick_frame s]
@[simp] theorem kick_ps : s.kick.ps = s.ps := by
  rw [kick_frame s]
@[simp] theorem kick_fb : s.kick.fb = s.fb := by
  rw [kick_frame s]
@[simp] theorem kick_ss : s.kick.ss = s.ss := by
  rw [kick_frame s]
@[simp] theorem kick_pending : s.kick.pending = s.pending := by
  rw [kick_frame s]
end fields

@[simp] theorem kick_queue (s : State) : s.kick.lk.queue = s.lk.queue := by
  rcases kick_cases s with h | ⟨r, -, -, h⟩ | ⟨k, -, -, -, h⟩ <;> rw [h] <;> rfl

@[simp] theorem kick_inHand (s : State) : s.kick.lk.inHand = s.lk.inHand := by
  rcases kick_cases s with h | ⟨r, -, -, h⟩ | ⟨k, -, -, -, h⟩ <;> rw [h] <;> rfl

@[simp] theorem kick_resetTaken (s : State) : s.kick.lk.resetTaken = s.lk.resetTaken := by
  rcases kick_cases s with h | ⟨r, -, -, h⟩ | ⟨k, -, -, -, h⟩ <;> rw [h] <;> rfl

@[simp] theorem kick_rate (s : State) : s.kick.lk.rate = s.lk.rate := by
  rcases kick_cases s with h | ⟨r, -, -, h⟩ | ⟨k, -, -, -, h⟩ <;> rw [h] <;> rfl

@[simp] theorem kick_receiver (s : State) : s.kick.lk.receiver = s.lk.receiver := by
  rcases kick_cases s with h | ⟨r, -, -, h⟩ | ⟨k, -, -, -, h⟩ <;> rw [h] <;> rfl

@[simp] theorem kick_slot_none (h : s.lk.slot = none) : s.kick.lk.slot = none := by
  rcases kick_cases s with e | ⟨r, -, -, e⟩ | ⟨k, -, -, -, e⟩ <;> rw [e]
  · exact h
  · rfl
  · exact h

/-- An idle transmitter that found nothing to send finds nothing the second time, and a busy one stays busy. -/
@[simp] theorem kick_kick (s : State) : s.kick.kick = s.kick := by
  rcases kick_cases s with h | ⟨r, -, -, h⟩ | ⟨k, -, -, -, h⟩
  · rw [h, h]
  · rw [h]
    exact kick_busy rfl
  · rw [h]
    exact kick_busy rfl

/-! ### Taking requests (R184) -/

theorem tryTake_empty (h : s.lk.queue = []) : s.tryTake = s := by
  simp [State.tryTake, h]

theorem tryTake_inHand (h : s.lk.inHand.isSome = true) : s.tryTake = s := by
  simp [State.tryTake, h]

theorem tryTake_slot (h : s.lk.slot.isSome = true) : s.tryTake = s := by
  simp [State.tryTake, h]

theorem tryTake_reset (h : s.lk.resetTaken = true) : s.tryTake = s := by
  simp [State.tryTake, h]

/-- With no frame waiting, LK only begins the next frame. -/
theorem pump_empty (n : Nat) : ∀ s : State, s.lk.queue = [] → pump (n + 1) s = s.kick := by
  induction n with
  | zero =>
    intro s h
    simp [pump, tryTake_empty h]
  | succ n ih =>
    intro s h
    rw [pump, tryTake_empty h, ih s.kick (by rw [kick_queue, h]), kick_kick]

/-- A RC with nothing to take up changes nothing (07 R146, R148). -/
theorem serveRun_quiet (h : s.runQuiet) : ∀ n, serveRun n s = s
  | 0 => rfl
  | n + 1 => by
    obtain ⟨h1, h2, h3⟩ := h
    have hw : s.wakeRun = s := by
      unfold State.wakeRun
      split
      · rename_i hc
        simp only [Bool.and_eq_true, beq_iff_eq] at hc
        exact absurd hc h3
      · rfl
    simp [serveRun, h1, h2, hw]

/-- RC's quiet rests on RC's part alone. -/
theorem runQuiet_rc {t : State} (h : t.rc = s.rc) (hs : s.runQuiet) : t.runQuiet := by
  unfold State.runQuiet State.runActive at *
  rw [h]
  exact hs

/-- An end that RC did not ask for, with no run ACTIVE, changes nothing but the message itself. -/
theorem hearEnd_other {e : HeardEnd} (h : s.runActive = false) : s.hearEnd e = s := by
  simp [State.hearEnd, h]

/-- With no frame waiting and RC quiet, an event brings its own effect and the next frame. -/
theorem settle_quiet (hq : s.lk.queue = []) (hr : s.runQuiet) : s.settle = s.kick := by
  rw [State.settle, serveRun_quiet hr, pumpFuel, pump_empty _ _ hq]

/-- With no run ACTIVE, RC drops the end of an operation it hears of (07 R148). -/
theorem serveRun_dropsEnd (n : Nat) (h : s.runActive = false) (hc : s.rc.heardClose = none) :
    serveRun (n + 2) s = s.withRc fun r => { r with heardEnd := none } := by
  have rest : ∀ {t : State}, t.runActive = false → t.rc.heardEnd = none → t.rc.heardClose = none →
      ∀ m, serveRun m t = t := by
    intro t ht h1 h2 m
    exact serveRun_quiet ⟨h1, h2, by simp [ht]⟩ m
  cases he : s.rc.heardEnd with
  | none =>
    rw [rest h he hc, State.withRc, ← he]
  | some e =>
    have h' : (s.withRc fun r => { r with heardEnd := none }).runActive = false := h
    simp only [serveRun, he]
    rw [hearEnd_other h']
    exact rest h' rfl hc (n + 1)

/-- An event that ends an operation with no run ACTIVE: RC hears of it and does nothing. -/
theorem settle_dropsEnd (hq : s.lk.queue = []) (h : s.runActive = false) (hc : s.rc.heardClose = none) :
    s.settle = (s.withRc fun r => { r with heardEnd := none }).kick := by
  rw [State.settle, runFuel, serveRun_dropsEnd 6 h hc, pumpFuel, pump_empty]
  exact hq

/-- What RC does with the close of a ticket while no run is ACTIVE touches RC's part alone (07 R146). -/
theorem hearClose_resting (h : s.runActive = false) (n : Nat) :
    ∃ r, s.hearClose n = { s with rc := r } ∧ r.state = s.rc.state ∧ r.heardEnd = s.rc.heardEnd
      ∧ r.heardClose = s.rc.heardClose ∧ r.pauseOpening = s.rc.pauseOpening := by
  unfold State.hearClose
  split
  · rw [if_neg (by simp [h])]
    split
    · exact ⟨_, rfl, rfl, rfl, rfl, rfl⟩
    · exact ⟨_, rfl, rfl, rfl, rfl, rfl⟩
  · exact ⟨s.rc, rfl, rfl, rfl, rfl, rfl⟩

/-- With no run ACTIVE, whatever RC has been told changes its part alone, and not the run's state. -/
theorem serveRun_resting (n : Nat) (h : s.runActive = false) :
    ∃ r, serveRun (n + 3) s = { s with rc := r } ∧ r.state = s.rc.state ∧ r.heardEnd = none ∧ r.heardClose = none
      ∧ r.pauseOpening = s.rc.pauseOpening := by
  cases hc : s.rc.heardClose with
  | none => exact ⟨_, serveRun_dropsEnd (n + 1) h hc, rfl, rfl, hc, rfl⟩
  | some k =>
    have key : ∀ m (t : State), t.runActive = false → t.rc.heardEnd = none → t.rc.heardClose = some k →
        ∃ r, serveRun (m + 2) t = { t with rc := r } ∧ r.state = t.rc.state ∧ r.heardEnd = none ∧ r.heardClose = none
          ∧ r.pauseOpening = t.rc.pauseOpening := by
      intro m t ht h1 h2
      obtain ⟨r, e, e1, e2, e3, e4⟩ := hearClose_resting (s := t.withRc fun r => { r with heardClose := none }) ht k
      refine ⟨r, ?_, e1, e2.trans h1, e3, e4⟩
      simp only [serveRun, h1, h2]
      rw [e]
      have hq : State.runQuiet { t.withRc (fun r => { r with heardClose := none }) with rc := r } := by
        refine ⟨e2.trans h1, e3, ?_⟩
        simp only [State.runActive] at ht ⊢
        rw [e1]
        simp [ht]
      exact serveRun_quiet hq (m + 1)
    cases he : s.rc.heardEnd with
    | none => exact key (n + 1) s h he hc
    | some e =>
      obtain ⟨r, e', e1, e2, e3, e4⟩ := key n (s.withRc fun r => { r with heardEnd := none }) h rfl hc
      refine ⟨r, ?_, e1, e2, e3, e4⟩
      have h' : (s.withRc fun r => { r with heardEnd := none }).runActive = false := h
      have step1 : serveRun (n + 3) s
          = serveRun (n + 2) ((s.withRc fun r => { r with heardEnd := none }).hearEnd e) := by
        simp only [serveRun, he]
      rw [step1, hearEnd_other h', e']
      rfl

/-- An event that may close a ticket and end an operation, with no run ACTIVE after it. -/
theorem settle_resting (hq : s.lk.queue = []) (h : s.runActive = false) :
    ∃ r, s.settle = State.kick { s with rc := r } ∧ r.state = s.rc.state ∧ r.heardEnd = none ∧ r.heardClose = none
      ∧ r.pauseOpening = s.rc.pauseOpening := by
  obtain ⟨r, e, hr⟩ := serveRun_resting 5 h
  refine ⟨r, ?_, hr⟩
  rw [State.settle, runFuel, e, pumpFuel, pump_empty]
  exact hq

/-- An event of a powered part whose effect leaves no frame waiting and RC quiet. -/
theorem event_quiet {f : State → State} (hp : s.powered = true) (hq : (f s).lk.queue = []) (hr : (f s).runQuiet) :
    s.event f = (f s).kick := by
  rw [State.event, if_pos hp, settle_quiet hq hr]

/-- The same for the command of a pin, and for a named next state. -/
theorem event_next {f : State → State} {t : State} (hp : s.powered = true) (h : f s = t) (hq : t.lk.queue = [])
    (hr : t.runQuiet) : (Host.Outcome.next (s.event f) : Host.Outcome State Fault Refusal) = .next t.kick := by
  subst h
  rw [event_quiet hp hq hr]

theorem pinEvent_next {g f : State → State} {t : State} (hp : s.powered = true) (h : f s = t) (hq : t.lk.queue = [])
    (hr : t.runQuiet) : (Host.Outcome.next (s.pinEvent g f) : Host.Outcome State Fault Refusal) = .next t.kick := by
  subst h
  rw [State.pinEvent, if_pos hp, settle_quiet hq hr]

/-- A timer that ends in the present millisecond has its effect at its instant. -/
theorem atDue_present {due : State → Option Nat} {f : State → State} {d : Nat} (hd : due s = some d)
    (hm : d / 1000 ≤ s.now / 1000) : s.atDue due f = f (s.goTo d) := by
  unfold State.atDue
  rw [hd]
  exact if_pos hm

/-- With no such timer running nothing happens. -/
theorem atDue_none {due : State → Option Nat} {f : State → State} (hd : due s = none) : s.atDue due f = s := by
  unfold State.atDue
  rw [hd]

/-- A timer's command, where the timer ends in the present millisecond. -/
theorem timer_next {due : State → Option Nat} {f : State → State} {d : Nat} {t : State} (hp : s.powered = true)
    (hd : due s = some d) (hm : d / 1000 ≤ s.now / 1000) (h : f (s.goTo d) = t) (hq : t.lk.queue = [])
    (hr : t.runQuiet) : timer due f s = .next t.kick :=
  event_next hp ((atDue_present hd hm).trans h) hq hr

/-- A timer's command, where the timer does not run: nothing but the next frame. -/
theorem timer_idle {due : State → Option Nat} {f : State → State} (hs : s.quiet) (hd : due s = none) :
    timer due f s = .next s.kick :=
  event_next hs.1 (atDue_none hd) hs.2.1 hs.2.2

theorem event_unpowered {f : State → State} (hp : s.powered = false) : s.event f = s := by
  simp [State.event, hp]

/-- The part with a request in hand. -/
def State.holding (k tg : Byte) (s : State) : State :=
  { s with lk := { s.lk with inHand := some (k, tg) } }

section holding
variable (k tg : Byte) (s : State)
@[simp] theorem holding_now : (s.holding k tg).now = s.now := rfl
@[simp] theorem holding_powered : (s.holding k tg).powered = s.powered := rfl
@[simp] theorem holding_start : (s.holding k tg).start = s.start := rfl
@[simp] theorem holding_pins : (s.holding k tg).pins = s.pins := rfl
@[simp] theorem holding_set : (s.holding k tg).set = s.set := rfl
@[simp] theorem holding_sau : (s.holding k tg).sau = s.sau := rfl
@[simp] theorem holding_tc : (s.holding k tg).tc = s.tc := rfl
@[simp] theorem holding_lc : (s.holding k tg).lc = s.lc := rfl
@[simp] theorem holding_di : (s.holding k tg).di = s.di := rfl
@[simp] theorem holding_cc : (s.holding k tg).cc = s.cc := rfl
@[simp] theorem holding_rc : (s.holding k tg).rc = s.rc := rfl
@[simp] theorem holding_ps : (s.holding k tg).ps = s.ps := rfl
@[simp] theorem holding_fb : (s.holding k tg).fb = s.fb := rfl
@[simp] theorem holding_ss : (s.holding k tg).ss = s.ss := rfl
@[simp] theorem holding_pending : (s.holding k tg).pending = s.pending := rfl
@[simp] theorem holding_queue : (s.holding k tg).lk.queue = s.lk.queue := rfl
@[simp] theorem holding_sending : (s.holding k tg).lk.sending = s.lk.sending := rfl
@[simp] theorem holding_pendingSet : (s.holding k tg).lk.pendingSet = s.lk.pendingSet := rfl
@[simp] theorem holding_gathered : (s.holding k tg).lk.gathered = s.lk.gathered := rfl
end holding

/-- A good frame that finds a request takeable is taken in its event (R184): the owning block decides it, RC hears what the
decision ended, and the reply goes out. -/
theorem settle_taken (hs : s.takes) (f : RxFrame)
    (hq : (serveRun runFuel ((s.holding f.kind f.tag).decideFrame f)).lk.queue = []) :
    (s.joinQueue f).settle = (serveRun runFuel ((s.holding f.kind f.tag).decideFrame f)).kick := by
  obtain ⟨⟨hp, hqu, hr⟩, hi, hsl, hre⟩ := hs
  have hj : s.joinQueue f = s.withLk fun l => { l with queue := [f] } := by
    simp [State.joinQueue, hqu, State.withLk]
  have hr' : (s.withLk fun l => { l with queue := [f] }).runQuiet := hr
  have htake : (s.withLk fun l => { l with queue := [f] }).tryTake
      = serveRun runFuel ((s.holding f.kind f.tag).decideFrame f) := by
    simp only [State.tryTake, withLk_lk, hi, hsl, hre, Option.isSome_none, Bool.false_or, Bool.false_eq_true, if_false]
    congr 2
    simp [State.withLk, State.holding, ← hqu]
  rw [hj, State.settle, serveRun_quiet hr', pumpFuel, pump, htake]
  rw [pump_empty _ _ (by rw [kick_queue, hq]), kick_kick]

/-- Every row that carries a KIND is a request: its good frame arrives at the receive queue. -/
theorem exec_request {i : Instr} (h : i.kind?.isSome = true) : exec i s = request i s := by
  cases i <;> first | exact Bool.noConfusion h | rfl

/-- The decision LK takes on a frame of a known KIND, outside start-up, that carries a request other than STORE. -/
theorem decideFrame_known {f : RxFrame} {i : Instr} (hk : knownKind f.kind = true)
    (hst : (s.starting && !answeredAtStart f.kind) = false) (hi : f.request = some i)
    (hns : ∀ t, i ≠ .store t) :
    s.decideFrame f = (decisionOf i s).1.putReply (replyTo f.kind f.tag (decisionOf i s).2) := by
  have : s.decideFrame f = (match f.request with
    | none => s.putReply (replyTo f.kind f.tag ⟨.argument, []⟩)
    | some (.store _) => s.beginStore
    | some i =>
      let a := decisionOf i s
      a.1.putReply (replyTo f.kind f.tag a.2)) := by
    simp [State.decideFrame, hk, hst] <;> rfl
  rw [this, hi]
  cases i <;> first | rfl | exact absurd rfl (hns _)

/-- A request command in a part that serves requests: its decision, what RC hears of it, and its reply. -/
theorem request_serves {i : Instr} {k tg : Byte} (hs : s.takes) (hk : i.kind? = some k) (ht : i.tag? = some tg)
    (hkn : knownKind k = true) (hst : (s.starting && !answeredAtStart k) = false) (hns : ∀ t, i ≠ .store t)
    (hq : (serveRun runFuel ((decisionOf i (s.holding k tg)).1.putReply
      (replyTo k tg (decisionOf i (s.holding k tg)).2))).lk.queue = []) :
    request i s = .next (serveRun runFuel ((decisionOf i (s.holding k tg)).1.putReply
      (replyTo k tg (decisionOf i (s.holding k tg)).2))).kick := by
  have hd := decideFrame_known (s := s.holding k tg) (f := ⟨k, tg, some i⟩) hkn hst rfl hns
  have hsub : s.submit i = s.joinQueue ⟨k, tg, some i⟩ := by
    simp [State.submit, hk, ht]
  rw [request, State.event, if_pos hs.1.1, hsub, settle_taken hs _ (by rw [hd]; exact hq), hd]

/-- A request whose decision changes nothing: only the reply goes out. -/
theorem request_unchanged {i : Instr} {k tg : Byte} {a : Answer} (hs : s.takes) (hk : i.kind? = some k)
    (ht : i.tag? = some tg) (hkn : knownKind k = true) (hst : (s.starting && !answeredAtStart k) = false)
    (hns : ∀ t, i ≠ .store t) (hd : decisionOf i (s.holding k tg) = (s.holding k tg, a)) :
    request i s = .next (s.answered k tg a) := by
  have hr : ((s.holding k tg).putReply (replyTo k tg a)).runQuiet := hs.1.2.2
  have hq : (serveRun runFuel ((decisionOf i (s.holding k tg)).1.putReply
      (replyTo k tg (decisionOf i (s.holding k tg)).2))).lk.queue = [] := by
    rw [hd, serveRun_quiet hr]
    exact hs.1.2.1
  rw [request_serves hs hk ht hkn hst hns hq, hd, serveRun_quiet hr]
  rfl

/-- A request whose decision leaves RC quiet and LK's queue empty: the state it decides, with its reply going out. -/
theorem request_decided {i : Instr} {k tg : Byte} {t : State} {a : Answer} (hs : s.takes) (hk : i.kind? = some k)
    (ht : i.tag? = some tg) (hkn : knownKind k = true) (hst : (s.starting && !answeredAtStart k) = false)
    (hns : ∀ t, i ≠ .store t) (hd : decisionOf i (s.holding k tg) = (t.holding k tg, a)) (htq : t.lk.queue = [])
    (hr : t.runQuiet) : request i s = .next (t.answered k tg a) := by
  have hr' : ((t.holding k tg).putReply (replyTo k tg a)).runQuiet := hr
  have hq : (serveRun runFuel ((decisionOf i (s.holding k tg)).1.putReply
      (replyTo k tg (decisionOf i (s.holding k tg)).2))).lk.queue = [] := by
    rw [hd, serveRun_quiet hr']
    exact htq
  rw [request_serves hs hk ht hkn hst hns hq, hd, serveRun_quiet hr']
  rfl

/-- A request whose decision leaves RC quiet and LK's queue empty, whatever it decides with the request in hand. -/
theorem request_next {i : Instr} {k tg : Byte} {t : State} {a : Answer} (hs : s.takes) (hk : i.kind? = some k)
    (ht : i.tag? = some tg) (hkn : knownKind k = true) (hst : (s.starting && !answeredAtStart k) = false)
    (hns : ∀ t, i ≠ .store t) (hd : decisionOf i (s.holding k tg) = (t, a)) (htq : t.lk.queue = [])
    (hr : t.runQuiet) : request i s = .next (t.answered k tg a) := by
  have hr' : (t.putReply (replyTo k tg a)).runQuiet := hr
  have hq : (serveRun runFuel ((decisionOf i (s.holding k tg)).1.putReply
      (replyTo k tg (decisionOf i (s.holding k tg)).2))).lk.queue = [] := by
    rw [hd, serveRun_quiet hr']
    exact htq
  rw [request_serves hs hk ht hkn hst hns hq, hd, serveRun_quiet hr']
  rfl

/-- What a request leaves: anything that holds of its decision with the reply going out, where the decision leaves RC quiet
and LK's queue empty. -/
theorem request_leaves {i : Instr} {k tg : Byte} {P : State → Prop} (hs : s.takes) (hk : i.kind? = some k)
    (ht : i.tag? = some tg) (hkn : knownKind k = true) (hst : (s.starting && !answeredAtStart k) = false)
    (hns : ∀ t, i ≠ .store t) (htq : (decisionOf i (s.holding k tg)).1.lk.queue = [])
    (hr : (decisionOf i (s.holding k tg)).1.runQuiet)
    (hp : P ((decisionOf i (s.holding k tg)).1.answered k tg (decisionOf i (s.holding k tg)).2)) :
    ∃ u, request i s = .next u ∧ P u :=
  ⟨_, request_next hs hk ht hkn hst hns rfl htq hr, hp⟩

/-- What an event leaves: anything that holds of its own effect with the next frame begun. -/
theorem event_leaves {f : State → State} {P : State → Prop} (hp : s.powered = true) (hq : (f s).lk.queue = [])
    (hr : (f s).runQuiet) (h : P (f s).kick) :
    ∃ u, (Host.Outcome.next (s.event f) : Host.Outcome State Fault Refusal) = .next u ∧ P u :=
  ⟨_, event_next hp rfl hq hr, h⟩

theorem pinEvent_leaves {g f : State → State} {P : State → Prop} (hp : s.powered = true) (hq : (f s).lk.queue = [])
    (hr : (f s).runQuiet) (h : P (f s).kick) :
    ∃ u, (Host.Outcome.next (s.pinEvent g f) : Host.Outcome State Fault Refusal) = .next u ∧ P u :=
  ⟨_, pinEvent_next hp rfl hq hr, h⟩

theorem timer_leaves {due : State → Option Nat} {f : State → State} {d : Nat} {P : State → Prop} (hp : s.powered = true)
    (hd : due s = some d) (hm : d / 1000 ≤ s.now / 1000) (hq : (f (s.goTo d)).lk.queue = [])
    (hr : (f (s.goTo d)).runQuiet) (h : P (f (s.goTo d)).kick) : ∃ u, timer due f s = .next u ∧ P u :=
  ⟨_, timer_next hp hd hm rfl hq hr, h⟩

/-- The same for what an event leaves that may end an operation, with no run ACTIVE. -/
theorem event_ends {f : State → State} {P : State → Prop} (hp : s.powered = true) (hq : (f s).lk.queue = [])
    (hr : (f s).runActive = false) (hc : (f s).rc.heardClose = none)
    (h : P ((f s).withRc fun r => { r with heardEnd := none }).kick) :
    ∃ u, (Host.Outcome.next (s.event f) : Host.Outcome State Fault Refusal) = .next u ∧ P u := by
  refine ⟨_, ?_, h⟩
  rw [State.event, if_pos hp, settle_dropsEnd hq hr hc]

theorem pinEvent_ends {g f : State → State} {P : State → Prop} (hp : s.powered = true) (hq : (f s).lk.queue = [])
    (hr : (f s).runActive = false) (hc : (f s).rc.heardClose = none)
    (h : P ((f s).withRc fun r => { r with heardEnd := none }).kick) :
    ∃ u, (Host.Outcome.next (s.pinEvent g f) : Host.Outcome State Fault Refusal) = .next u ∧ P u := by
  refine ⟨_, ?_, h⟩
  rw [State.pinEvent, if_pos hp, settle_dropsEnd hq hr hc]

theorem timer_ends {due : State → Option Nat} {f : State → State} {d : Nat} {P : State → Prop} (hp : s.powered = true)
    (hd : due s = some d) (hm : d / 1000 ≤ s.now / 1000) (hq : (f (s.goTo d)).lk.queue = [])
    (hr : (f (s.goTo d)).runActive = false) (hc : (f (s.goTo d)).rc.heardClose = none)
    (h : P ((f (s.goTo d)).withRc fun r => { r with heardEnd := none }).kick) : ∃ u, timer due f s = .next u ∧ P u := by
  have e : s.atDue due f = f (s.goTo d) := atDue_present hd hm
  rw [← e] at hq hr hc h
  exact event_ends hp hq hr hc h

/-- A request whose decision may end an operation, with no run ACTIVE after it. -/
theorem request_ends {i : Instr} {k tg : Byte} {P : State → Prop} (hs : s.takes) (hk : i.kind? = some k)
    (ht : i.tag? = some tg) (hkn : knownKind k = true) (hst : (s.starting && !answeredAtStart k) = false)
    (hns : ∀ t, i ≠ .store t) (htq : (decisionOf i (s.holding k tg)).1.lk.queue = [])
    (hr : (decisionOf i (s.holding k tg)).1.runActive = false)
    (hc : (decisionOf i (s.holding k tg)).1.rc.heardClose = none)
    (hp : P (((decisionOf i (s.holding k tg)).1.withRc fun r => { r with heardEnd := none }).answered k tg
      (decisionOf i (s.holding k tg)).2)) : ∃ u, request i s = .next u ∧ P u := by
  have hd : serveRun runFuel ((decisionOf i (s.holding k tg)).1.putReply
      (replyTo k tg (decisionOf i (s.holding k tg)).2))
      = ((decisionOf i (s.holding k tg)).1.withRc fun r => { r with heardEnd := none }).putReply
        (replyTo k tg (decisionOf i (s.holding k tg)).2) :=
    serveRun_dropsEnd (s := (decisionOf i (s.holding k tg)).1.putReply _) 6 hr hc
  refine ⟨_, request_serves hs hk ht hkn hst hns (by rw [hd]; exact htq), ?_⟩
  rw [hd]
  exact hp

/-! ### A reply -/

section answered
variable (k tg : Byte) (a : Answer) (s : State)
@[simp] theorem answered_now : (s.answered k tg a).now = s.now := by
  simp [State.answered, State.putReply]
@[simp] theorem answered_powered : (s.answered k tg a).powered = s.powered := by
  simp [State.answered, State.putReply]
@[simp] theorem answered_start : (s.answered k tg a).start = s.start := by
  simp [State.answered, State.putReply]
@[simp] theorem answered_pins : (s.answered k tg a).pins = s.pins := by
  simp [State.answered, State.putReply]
@[simp] theorem answered_set : (s.answered k tg a).set = s.set := by
  simp [State.answered, State.putReply]
@[simp] theorem answered_sau : (s.answered k tg a).sau = s.sau := by
  simp [State.answered, State.putReply]
@[simp] theorem answered_tc : (s.answered k tg a).tc = s.tc := by
  simp [State.answered, State.putReply]
@[simp] theorem answered_lc : (s.answered k tg a).lc = s.lc := by
  simp [State.answered, State.putReply]
@[simp] theorem answered_di : (s.answered k tg a).di = s.di := by
  simp [State.answered, State.putReply]
@[simp] theorem answered_cc : (s.answered k tg a).cc = s.cc := by
  simp [State.answered, State.putReply]
@[simp] theorem answered_rc : (s.answered k tg a).rc = s.rc := by
  simp [State.answered, State.putReply]
@[simp] theorem answered_ps : (s.answered k tg a).ps = s.ps := by
  simp [State.answered, State.putReply]
@[simp] theorem answered_fb : (s.answered k tg a).fb = s.fb := by
  simp [State.answered, State.putReply]
@[simp] theorem answered_ss : (s.answered k tg a).ss = s.ss := by
  simp [State.answered, State.putReply]
@[simp] theorem answered_pending : (s.answered k tg a).pending = s.pending := by
  simp [State.answered, State.putReply]

@[simp] theorem answered_queue : (s.answered k tg a).lk.queue = s.lk.queue := by
  simp [State.answered, State.putReply]
@[simp] theorem answered_inHand : (s.answered k tg a).lk.inHand = none := by
  simp [State.answered, State.putReply]

/-- An idle transmitter begins the reply at once, and a busy one leaves it in the slot. -/
theorem answered_sending (h : s.lk.sending = none) : (s.answered k tg a).lk.sending = some (.reply (replyTo k tg a)) := by
  rw [State.answered, kick_reply (s := s.putReply (replyTo k tg a)) h rfl]
  rfl
theorem answered_busy (h : s.lk.sending.isSome = true) :
    s.answered k tg a = { s with lk := { s.lk with slot := some (replyTo k tg a), inHand := none } } := by
  rw [State.answered, kick_busy (s := s.putReply (replyTo k tg a)) h]
  rfl

/-- A pending notice waits behind the reply. -/
@[simp] theorem answered_pendingSet : (s.answered k tg a).lk.pendingSet = s.lk.pendingSet := by
  unfold State.answered
  rcases kick_cases (s.putReply (replyTo k tg a)) with h | ⟨r, -, -, h⟩ | ⟨n, -, hn, -, -⟩
  · rw [h]
    rfl
  · rw [h]
    rfl
  · exact absurd hn (by simp [State.putReply])
@[simp] theorem answered_gathered : (s.answered k tg a).lk.gathered = s.lk.gathered := by
  unfold State.answered
  rcases kick_cases (s.putReply (replyTo k tg a)) with h | ⟨r, -, -, h⟩ | ⟨n, -, hn, -, -⟩
  · rw [h]
    rfl
  · rw [h]
    rfl
  · exact absurd hn (by simp [State.putReply])
end answered

end Sys2Proof.Machine
end

