-- ==== Sys2Proof/Laws/Reports.lean ====
section
/-! SUPPORT. What making a notice pending and reporting a fault can do (10 R188, 09 R171, R172, R173, R176). -/

set_option Elab.async false

namespace Sys2Proof.Machine

variable {s : State}

/-- LK's part differs in the pending set and the gathered contents alone. -/
def onlyNotices (l l' : Lk) : Prop :=
  l' = { l with pendingSet := l'.pendingSet, gathered := l'.gathered }

theorem onlyNotices_refl (l : Lk) : onlyNotices l l := rfl

theorem onlyNotices_trans {a b c : Lk} (h : onlyNotices a b) (k : onlyNotices b c) : onlyNotices a c := by
  unfold onlyNotices at *
  rw [k, h]

/-! ### notifyWith (R188) -/

theorem notifyWith_masked {k : NoticeKind} {f : Gathered → Gathered} (h : s.set.noticeMask.getLsbD k.bit = false) :
    s.notifyWith k f = s := by
  simp [State.notifyWith, h]

theorem notifyWith_unmasked {k : NoticeKind} {f : Gathered → Gathered} (h : s.set.noticeMask.getLsbD k.bit = true) :
    s.notifyWith k f
      = { s with lk := { s.lk with pendingSet := s.lk.pendingSet ||| (1#12 <<< k.bit), gathered := f s.lk.gathered } } := by
  simp [State.notifyWith, h]

/-- A notice made pending changes the pending set and the gathered contents alone. -/
theorem notifyWith_lk (s : State) (k : NoticeKind) (f : Gathered → Gathered) : onlyNotices s.lk (s.notifyWith k f).lk := by
  unfold State.notifyWith
  split
  · rfl
  · exact onlyNotices_refl _

/-- The kind is in the pending set afterwards, if the mask lets it. -/
theorem notifyWith_pends {k : NoticeKind} {f : Gathered → Gathered} (h : s.set.noticeMask.getLsbD k.bit = true) :
    (s.notifyWith k f).lk.pendingSet.getLsbD k.bit = true := by
  rw [notifyWith_unmasked h]
  cases k <;> simp [NoticeKind.bit]

section fields
variable (s : State) (k : NoticeKind) (f : Gathered → Gathered)
@[simp] theorem notifyWith_now : (s.notifyWith k f).now = s.now := by
  unfold State.notifyWith
  split <;> rfl
@[simp] theorem notifyWith_powered : (s.notifyWith k f).powered = s.powered := by
  unfold State.notifyWith
  split <;> rfl
@[simp] theorem notifyWith_start : (s.notifyWith k f).start = s.start := by
  unfold State.notifyWith
  split <;> rfl
@[simp] theorem notifyWith_pins : (s.notifyWith k f).pins = s.pins := by
  unfold State.notifyWith
  split <;> rfl
@[simp] theorem notifyWith_set : (s.notifyWith k f).set = s.set := by
  unfold State.notifyWith
  split <;> rfl
@[simp] theorem notifyWith_sau : (s.notifyWith k f).sau = s.sau := by
  unfold State.notifyWith
  split <;> rfl
@[simp] theorem notifyWith_tc : (s.notifyWith k f).tc = s.tc := by
  unfold State.notifyWith
  split <;> rfl
@[simp] theorem notifyWith_lc : (s.notifyWith k f).lc = s.lc := by
  unfold State.notifyWith
  split <;> rfl
@[simp] theorem notifyWith_di : (s.notifyWith k f).di = s.di := by
  unfold State.notifyWith
  split <;> rfl
@[simp] theorem notifyWith_cc : (s.notifyWith k f).cc = s.cc := by
  unfold State.notifyWith
  split <;> rfl
@[simp] theorem notifyWith_rc : (s.notifyWith k f).rc = s.rc := by
  unfold State.notifyWith
  split <;> rfl
@[simp] theorem notifyWith_ps : (s.notifyWith k f).ps = s.ps := by
  unfold State.notifyWith
  split <;> rfl
@[simp] theorem notifyWith_ss : (s.notifyWith k f).ss = s.ss := by
  unfold State.notifyWith
  split <;> rfl
@[simp] theorem notifyWith_pending : (s.notifyWith k f).pending = s.pending := by
  unfold State.notifyWith
  split <;> rfl
@[simp] theorem notifyWith_fb : (s.notifyWith k f).fb = s.fb := by
  unfold State.notifyWith
  split <;> rfl
@[simp] theorem notifyWith_queue : (s.notifyWith k f).lk.queue = s.lk.queue := by
  rw [notifyWith_lk s k f]
@[simp] theorem notifyWith_inHand : (s.notifyWith k f).lk.inHand = s.lk.inHand := by
  rw [notifyWith_lk s k f]
@[simp] theorem notifyWith_slot : (s.notifyWith k f).lk.slot = s.lk.slot := by
  rw [notifyWith_lk s k f]
@[simp] theorem notifyWith_sending : (s.notifyWith k f).lk.sending = s.lk.sending := by
  rw [notifyWith_lk s k f]
@[simp] theorem notifyWith_rate : (s.notifyWith k f).lk.rate = s.lk.rate := by
  rw [notifyWith_lk s k f]
@[simp] theorem notifyWith_receiver : (s.notifyWith k f).lk.receiver = s.lk.receiver := by
  rw [notifyWith_lk s k f]
@[simp] theorem notifyWith_resetTaken : (s.notifyWith k f).lk.resetTaken = s.lk.resetTaken := by
  rw [notifyWith_lk s k f]
end fields

/-! ### recordFault, recount, report (R171, R172, R176) -/

theorem recordFault_lk (s : State) (c : FaultCode) (d : List Nat) : onlyNotices s.lk (s.recordFault c d).lk := by
  unfold State.recordFault
  simp only
  split
  · exact notifyWith_lk _ _ _
  · split
    · exact notifyWith_lk _ _ _
    · split
      · exact onlyNotices_refl _
      · exact notifyWith_lk _ _ _

theorem recount_lk (s : State) (b : FaultBank) (n : Nat) : onlyNotices s.lk (s.recount b n).lk := by
  unfold State.recount
  simp only
  split
  · exact notifyWith_lk _ _ _
  · exact onlyNotices_refl _

/-- A report changes the fault banks, the pending set and the gathered contents alone. -/
theorem report_lk (s : State) (c : FaultCode) (d : List Nat) : onlyNotices s.lk (s.report c d).lk := by
  unfold State.report
  split
  · simp only
    split
    · exact onlyNotices_trans (recordFault_lk _ _ _) (recount_lk _ _ _)
    · exact recordFault_lk _ _ _
  · exact onlyNotices_refl _

/-- A masked report is dropped (R171, R172). -/
theorem report_masked {c : FaultCode} {d : List Nat} (h : (s.set.faultMasks.get c.bank).getLsbD c.bit = false) :
    s.report c d = s := by
  simp [State.report, h]

section fields
variable (s : State) (c : FaultCode) (d : List Nat) (b : FaultBank) (n : Nat)
@[simp] theorem recordFault_now : (s.recordFault c d).now = s.now := by
  unfold State.recordFault
  simp only
  split
  · simp [State.setFaultBank]
  · split
    · simp [State.setFaultBank]
    · split
      · rfl
      · simp [State.setFaultBank]
@[simp] theorem recount_now : (s.recount b n).now = s.now := by
  unfold State.recount
  simp only
  split
  · simp [State.setFaultBank]
  · rfl
@[simp] theorem report_now : (s.report c d).now = s.now := by
  unfold State.report
  split
  · simp only
    split <;> simp
  · rfl
@[simp] theorem recordFault_powered : (s.recordFault c d).powered = s.powered := by
  unfold State.recordFault
  simp only
  split
  · simp [State.setFaultBank]
  · split
    · simp [State.setFaultBank]
    · split
      · rfl
      · simp [State.setFaultBank]
@[simp] theorem recount_powered : (s.recount b n).powered = s.powered := by
  unfold State.recount
  simp only
  split
  · simp [State.setFaultBank]
  · rfl
@[simp] theorem report_powered : (s.report c d).powered = s.powered := by
  unfold State.report
  split
  · simp only
    split <;> simp
  · rfl
@[simp] theorem recordFault_start : (s.recordFault c d).start = s.start := by
  unfold State.recordFault
  simp only
  split
  · simp [State.setFaultBank]
  · split
    · simp [State.setFaultBank]
    · split
      · rfl
      · simp [State.setFaultBank]
@[simp] theorem recount_start : (s.recount b n).start = s.start := by
  unfold State.recount
  simp only
  split
  · simp [State.setFaultBank]
  · rfl
@[simp] theorem report_start : (s.report c d).start = s.start := by
  unfold State.report
  split
  · simp only
    split <;> simp
  · rfl
@[simp] theorem recordFault_pins : (s.recordFault c d).pins = s.pins := by
  unfold State.recordFault
  simp only
  split
  · simp [State.setFaultBank]
  · split
    · simp [State.setFaultBank]
    · split
      · rfl
      · simp [State.setFaultBank]
@[simp] theorem recount_pins : (s.recount b n).pins = s.pins := by
  unfold State.recount
  simp only
  split
  · simp [State.setFaultBank]
  · rfl
@[simp] theorem report_pins : (s.report c d).pins = s.pins := by
  unfold State.report
  split
  · simp only
    split <;> simp
  · rfl
@[simp] theorem recordFault_set : (s.recordFault c d).set = s.set := by
  unfold State.recordFault
  simp only
  split
  · simp [State.setFaultBank]
  · split
    · simp [State.setFaultBank]
    · split
      · rfl
      · simp [State.setFaultBank]
@[simp] theorem recount_set : (s.recount b n).set = s.set := by
  unfold State.recount
  simp only
  split
  · simp [State.setFaultBank]
  · rfl
@[simp] theorem report_set : (s.report c d).set = s.set := by
  unfold State.report
  split
  · simp only
    split <;> simp
  · rfl
@[simp] theorem recordFault_sau : (s.recordFault c d).sau = s.sau := by
  unfold State.recordFault
  simp only
  split
  · simp [State.setFaultBank]
  · split
    · simp [State.setFaultBank]
    · split
      · rfl
      · simp [State.setFaultBank]
@[simp] theorem recount_sau : (s.recount b n).sau = s.sau := by
  unfold State.recount
  simp only
  split
  · simp [State.setFaultBank]
  · rfl
@[simp] theorem report_sau : (s.report c d).sau = s.sau := by
  unfold State.report
  split
  · simp only
    split <;> simp
  · rfl
@[simp] theorem recordFault_tc : (s.recordFault c d).tc = s.tc := by
  unfold State.recordFault
  simp only
  split
  · simp [State.setFaultBank]
  · split
    · simp [State.setFaultBank]
    · split
      · rfl
      · simp [State.setFaultBank]
@[simp] theorem recount_tc : (s.recount b n).tc = s.tc := by
  unfold State.recount
  simp only
  split
  · simp [State.setFaultBank]
  · rfl
@[simp] theorem report_tc : (s.report c d).tc = s.tc := by
  unfold State.report
  split
  · simp only
    split <;> simp
  · rfl
@[simp] theorem recordFault_lc : (s.recordFault c d).lc = s.lc := by
  unfold State.recordFault
  simp only
  split
  · simp [State.setFaultBank]
  · split
    · simp [State.setFaultBank]
    · split
      · rfl
      · simp [State.setFaultBank]
@[simp] theorem recount_lc : (s.recount b n).lc = s.lc := by
  unfold State.recount
  simp only
  split
  · simp [State.setFaultBank]
  · rfl
@[simp] theorem report_lc : (s.report c d).lc = s.lc := by
  unfold State.report
  split
  · simp only
    split <;> simp
  · rfl
@[simp] theorem recordFault_di : (s.recordFault c d).di = s.di := by
  unfold State.recordFault
  simp only
  split
  · simp [State.setFaultBank]
  · split
    · simp [State.setFaultBank]
    · split
      · rfl
      · simp [State.setFaultBank]
@[simp] theorem recount_di : (s.recount b n).di = s.di := by
  unfold State.recount
  simp only
  split
  · simp [State.setFaultBank]
  · rfl
@[simp] theorem report_di : (s.report c d).di = s.di := by
  unfold State.report
  split
  · simp only
    split <;> simp
  · rfl
@[simp] theorem recordFault_cc : (s.recordFault c d).cc = s.cc := by
  unfold State.recordFault
  simp only
  split
  · simp [State.setFaultBank]
  · split
    · simp [State.setFaultBank]
    · split
      · rfl
      · simp [State.setFaultBank]
@[simp] theorem recount_cc : (s.recount b n).cc = s.cc := by
  unfold State.recount
  simp only
  split
  · simp [State.setFaultBank]
  · rfl
@[simp] theorem report_cc : (s.report c d).cc = s.cc := by
  unfold State.report
  split
  · simp only
    split <;> simp
  · rfl
@[simp] theorem recordFault_rc : (s.recordFault c d).rc = s.rc := by
  unfold State.recordFault
  simp only
  split
  · simp [State.setFaultBank]
  · split
    · simp [State.setFaultBank]
    · split
      · rfl
      · simp [State.setFaultBank]
@[simp] theorem recount_rc : (s.recount b n).rc = s.rc := by
  unfold State.recount
  simp only
  split
  · simp [State.setFaultBank]
  · rfl
@[simp] theorem report_rc : (s.report c d).rc = s.rc := by
  unfold State.report
  split
  · simp only
    split <;> simp
  · rfl
@[simp] theorem recordFault_ps : (s.recordFault c d).ps = s.ps := by
  unfold State.recordFault
  simp only
  split
  · simp [State.setFaultBank]
  · split
    · simp [State.setFaultBank]
    · split
      · rfl
      · simp [State.setFaultBank]
@[simp] theorem recount_ps : (s.recount b n).ps = s.ps := by
  unfold State.recount
  simp only
  split
  · simp [State.setFaultBank]
  · rfl
@[simp] theorem report_ps : (s.report c d).ps = s.ps := by
  unfold State.report
  split
  · simp only
    split <;> simp
  · rfl
@[simp] theorem recordFault_ss : (s.recordFault c d).ss = s.ss := by
  unfold State.recordFault
  simp only
  split
  · simp [State.setFaultBank]
  · split
    · simp [State.setFaultBank]
    · split
      · rfl
      · simp [State.setFaultBank]
@[simp] theorem recount_ss : (s.recount b n).ss = s.ss := by
  unfold State.recount
  simp only
  split
  · simp [State.setFaultBank]
  · rfl
@[simp] theorem report_ss : (s.report c d).ss = s.ss := by
  unfold State.report
  split
  · simp only
    split <;> simp
  · rfl
@[simp] theorem recordFault_pending : (s.recordFault c d).pending = s.pending := by
  unfold State.recordFault
  simp only
  split
  · simp [State.setFaultBank]
  · split
    · simp [State.setFaultBank]
    · split
      · rfl
      · simp [State.setFaultBank]
@[simp] theorem recount_pending : (s.recount b n).pending = s.pending := by
  unfold State.recount
  simp only
  split
  · simp [State.setFaultBank]
  · rfl
@[simp] theorem report_pending : (s.report c d).pending = s.pending := by
  unfold State.report
  split
  · simp only
    split <;> simp
  · rfl
@[simp] theorem report_queue : (s.report c d).lk.queue = s.lk.queue := by
  rw [report_lk s c d]
@[simp] theorem recount_queue : (s.recount b n).lk.queue = s.lk.queue := by
  rw [recount_lk s b n]
@[simp] theorem report_inHand : (s.report c d).lk.inHand = s.lk.inHand := by
  rw [report_lk s c d]
@[simp] theorem recount_inHand : (s.recount b n).lk.inHand = s.lk.inHand := by
  rw [recount_lk s b n]
@[simp] theorem report_slot : (s.report c d).lk.slot = s.lk.slot := by
  rw [report_lk s c d]
@[simp] theorem recount_slot : (s.recount b n).lk.slot = s.lk.slot := by
  rw [recount_lk s b n]
@[simp] theorem report_sending : (s.report c d).lk.sending = s.lk.sending := by
  rw [report_lk s c d]
@[simp] theorem recount_sending : (s.recount b n).lk.sending = s.lk.sending := by
  rw [recount_lk s b n]
@[simp] theorem report_resetTaken : (s.report c d).lk.resetTaken = s.lk.resetTaken := by
  rw [report_lk s c d]
@[simp] theorem recount_resetTaken : (s.recount b n).lk.resetTaken = s.lk.resetTaken := by
  rw [recount_lk s b n]
@[simp] theorem report_rate : (s.report c d).lk.rate = s.lk.rate := by
  rw [report_lk s c d]
@[simp] theorem report_receiver : (s.report c d).lk.receiver = s.lk.receiver := by
  rw [report_lk s c d]
end fields

/-- What a bank's record becomes by an unmasked report (R171). -/
theorem recordFault_banks (s : State) (c : FaultCode) (d : List Nat) :
    (s.recordFault c d).fb.banks.get c.bank
      = { (s.fb.banks.get c.bank) with
          record := some (match (s.fb.banks.get c.bank).record with
            | none => { overflow := false, code := c, detail := d, time := s.clock
                        mountNo := s.sau.volume.map Volume.mountNo }
            | some old =>
              if old.code.severity.rank < c.severity.rank then
                { overflow := true, code := c, detail := d, time := s.clock
                  mountNo := s.sau.volume.map Volume.mountNo }
              else { old with overflow := true }) } := by
  unfold State.recordFault
  simp only
  split
  · rename_i h
    simp [h]
  · rename_i old h
    split
    · rename_i hr
      simp [h, hr]
    · rename_i hr
      split
      · rename_i ho
        simp [h, hr, ← ho]
        rw [← h]
      · simp [h, hr]

/-- A report touches its own bank alone. -/
theorem recordFault_otherBank (s : State) (c : FaultCode) (d : List Nat) {b : FaultBank} (hb : b ≠ c.bank) :
    (s.recordFault c d).fb.banks.get b = s.fb.banks.get b := by
  unfold State.recordFault
  simp only
  split
  · simp [PerFaultBank.get_set, hb]
  · split
    · simp [PerFaultBank.get_set, hb]
    · split
      · rfl
      · simp [PerFaultBank.get_set, hb]

/-- A recount sets the bank's count and its crossed flag (R176). -/
theorem recount_fb (s : State) (b : FaultBank) (n : Nat) :
    (s.recount b n).fb.banks
      = s.fb.banks.set b { (s.fb.banks.get b) with count := n, crossed := decide (s.set.thresholds.get b ≤ n) } := by
  unfold State.recount
  simp only
  split <;> simp

/-- A report changes the fault banks and LK's part alone. -/
theorem report_frame (s : State) (c : FaultCode) (d : List Nat) :
    s.report c d = { s with fb := (s.report c d).fb, lk := (s.report c d).lk } := by
  apply State.ext_fields <;> simp

/-- Two states agree on what a report rests on: the clock, the settings, the mounted volume, the fault banks, LK's part. -/
def reportsAlike (s t : State) : Prop :=
  s.now = t.now ∧ s.set = t.set ∧ s.sau.volume = t.sau.volume ∧ s.fb = t.fb ∧ s.lk = t.lk

theorem notifyWith_alike {s t : State} (h : reportsAlike s t) (k : NoticeKind) (f : Gathered → Gathered) :
    reportsAlike (s.notifyWith k f) (t.notifyWith k f) := by
  obtain ⟨h1, h2, h3, h4, h5⟩ := h
  unfold State.notifyWith
  rw [h2, h5]
  split
  · exact ⟨h1, rfl, h3, h4, rfl⟩
  · exact ⟨h1, h2, h3, h4, h5⟩

theorem setFaultBank_alike {s t : State} (h : reportsAlike s t) (b : FaultBank) (f : FaultBankState) :
    reportsAlike (s.setFaultBank b f) (t.setFaultBank b f) := by
  obtain ⟨h1, h2, h3, h4, h5⟩ := h
  refine ⟨h1, h2, h3, ?_, h5⟩
  simp only [State.setFaultBank, h4]

theorem recordFault_alike {s t : State} (h : reportsAlike s t) (c : FaultCode) (d : List Nat) :
    reportsAlike (s.recordFault c d) (t.recordFault c d) := by
  obtain ⟨h1, h2, h3, h4, h5⟩ := h
  unfold State.recordFault State.clock
  dsimp only
  rw [h1, h3, h4]
  split
  · exact notifyWith_alike (setFaultBank_alike ⟨h1, h2, h3, h4, h5⟩ _ _) _ _
  · split
    · exact notifyWith_alike (setFaultBank_alike ⟨h1, h2, h3, h4, h5⟩ _ _) _ _
    · split
      · exact ⟨h1, h2, h3, h4, h5⟩
      · exact notifyWith_alike (setFaultBank_alike ⟨h1, h2, h3, h4, h5⟩ _ _) _ _

theorem recount_alike {s t : State} (h : reportsAlike s t) (b : FaultBank) (n : Nat) :
    reportsAlike (s.recount b n) (t.recount b n) := by
  obtain ⟨h1, h2, h3, h4, h5⟩ := h
  unfold State.recount
  dsimp only
  rw [h2, h4]
  split
  · exact notifyWith_alike (setFaultBank_alike ⟨h1, h2, h3, h4, h5⟩ _ _) _ _
  · exact setFaultBank_alike ⟨h1, h2, h3, h4, h5⟩ _ _

/-- What a report does to the fault banks and LK rests on these parts alone. -/
theorem report_alike {s t : State} (h : reportsAlike s t) (c : FaultCode) (d : List Nat) :
    reportsAlike (s.report c d) (t.report c d) := by
  unfold State.report
  dsimp only
  rw [h.2.1]
  split
  · split
    · rw [(recordFault_alike h c d).2.2.2.1]
      exact recount_alike (recordFault_alike h c d) _ _
    · exact recordFault_alike h c d
  · exact h

/-- Two states agree on what a fault bank's change rests on: the clock, the settings, the mounted volume, the fault
banks. -/
def banksAlike (s t : State) : Prop :=
  s.now = t.now ∧ s.set = t.set ∧ s.sau.volume = t.sau.volume ∧ s.fb = t.fb

theorem notifyWith_banksAlike {s t : State} (h : banksAlike s t) (k : NoticeKind) (f : Gathered → Gathered) :
    banksAlike (s.notifyWith k f) (t.notifyWith k f) := by
  obtain ⟨h1, h2, h3, h4⟩ := h
  unfold State.notifyWith
  rw [h2]
  split
  · exact ⟨h1, rfl, h3, h4⟩
  · exact ⟨h1, h2, h3, h4⟩

theorem setFaultBank_banksAlike {s t : State} (h : banksAlike s t) (b : FaultBank) (f : FaultBankState) :
    banksAlike (s.setFaultBank b f) (t.setFaultBank b f) := by
  obtain ⟨h1, h2, h3, h4⟩ := h
  refine ⟨h1, h2, h3, ?_⟩
  simp only [State.setFaultBank, h4]

theorem recordFault_banksAlike {s t : State} (h : banksAlike s t) (c : FaultCode) (d : List Nat) :
    banksAlike (s.recordFault c d) (t.recordFault c d) := by
  obtain ⟨h1, h2, h3, h4⟩ := h
  unfold State.recordFault State.clock
  dsimp only
  rw [h1, h3, h4]
  split
  · exact notifyWith_banksAlike (setFaultBank_banksAlike ⟨h1, h2, h3, h4⟩ _ _) _ _
  · split
    · exact notifyWith_banksAlike (setFaultBank_banksAlike ⟨h1, h2, h3, h4⟩ _ _) _ _
    · split
      · exact ⟨h1, h2, h3, h4⟩
      · exact notifyWith_banksAlike (setFaultBank_banksAlike ⟨h1, h2, h3, h4⟩ _ _) _ _

theorem recount_banksAlike {s t : State} (h : banksAlike s t) (b : FaultBank) (n : Nat) :
    banksAlike (s.recount b n) (t.recount b n) := by
  obtain ⟨h1, h2, h3, h4⟩ := h
  unfold State.recount
  dsimp only
  rw [h2, h4]
  split
  · exact notifyWith_banksAlike (setFaultBank_banksAlike ⟨h1, h2, h3, h4⟩ _ _) _ _
  · exact setFaultBank_banksAlike ⟨h1, h2, h3, h4⟩ _ _

/-- What a report does to the fault banks rests on these parts alone. -/
theorem report_banksAlike {s t : State} (h : banksAlike s t) (c : FaultCode) (d : List Nat) :
    banksAlike (s.report c d) (t.report c d) := by
  unfold State.report
  dsimp only
  rw [h.2.1]
  split
  · split
    · rw [(recordFault_banksAlike h c d).2.2.2]
      exact recount_banksAlike (recordFault_banksAlike h c d) _ _
    · exact recordFault_banksAlike h c d
  · exact h

end Sys2Proof.Machine
end

