-- ==== Sys2Proof/Laws/TurningFrames.lean ====
section
/-! SUPPORT. What TC's ends of operations and homing leave unchanged (02 R33, R48, R53). -/

set_option Elab.async false

namespace Sys2Proof.Machine

variable (s : State)

section tellEnd
variable (k : OpKind) (r : OpResult)
@[simp] theorem tellEnd_now : (s.tellEnd k r).now = s.now := by
  simp [State.tellEnd]
@[simp] theorem tellEnd_powered : (s.tellEnd k r).powered = s.powered := by
  simp [State.tellEnd]
@[simp] theorem tellEnd_start : (s.tellEnd k r).start = s.start := by
  simp [State.tellEnd]
@[simp] theorem tellEnd_pins : (s.tellEnd k r).pins = s.pins := by
  simp [State.tellEnd]
@[simp] theorem tellEnd_set : (s.tellEnd k r).set = s.set := by
  simp [State.tellEnd]
@[simp] theorem tellEnd_sau : (s.tellEnd k r).sau = s.sau := by
  simp [State.tellEnd]
@[simp] theorem tellEnd_tc : (s.tellEnd k r).tc = s.tc := by
  simp [State.tellEnd]
@[simp] theorem tellEnd_lc : (s.tellEnd k r).lc = s.lc := by
  simp [State.tellEnd]
@[simp] theorem tellEnd_di : (s.tellEnd k r).di = s.di := by
  simp [State.tellEnd]
@[simp] theorem tellEnd_cc : (s.tellEnd k r).cc = s.cc := by
  simp [State.tellEnd]
@[simp] theorem tellEnd_ps : (s.tellEnd k r).ps = s.ps := by
  simp [State.tellEnd]
@[simp] theorem tellEnd_fb : (s.tellEnd k r).fb = s.fb := by
  simp [State.tellEnd]
@[simp] theorem tellEnd_ss : (s.tellEnd k r).ss = s.ss := by
  simp [State.tellEnd]
@[simp] theorem tellEnd_pending : (s.tellEnd k r).pending = s.pending := by
  simp [State.tellEnd]
@[simp] theorem tellEnd_run : (s.tellEnd k r).rc.state = s.rc.state := by
  simp [State.tellEnd]
@[simp] theorem tellEnd_heardClose : (s.tellEnd k r).rc.heardClose = s.rc.heardClose := by
  simp [State.tellEnd]
@[simp] theorem tellEnd_phase : (s.tellEnd k r).rc.phase = s.rc.phase := by
  simp [State.tellEnd]
@[simp] theorem tellEnd_volumeSkips : (s.tellEnd k r).rc.volumeSkips = s.rc.volumeSkips := by
  simp [State.tellEnd]
@[simp] theorem tellEnd_queue : (s.tellEnd k r).lk.queue = s.lk.queue := by
  simp [State.tellEnd]
@[simp] theorem tellEnd_rate : (s.tellEnd k r).lk.rate = s.lk.rate := by
  simp [State.tellEnd]
@[simp] theorem tellEnd_slot : (s.tellEnd k r).lk.slot = s.lk.slot := by
  simp [State.tellEnd]
@[simp] theorem tellEnd_inHand : (s.tellEnd k r).lk.inHand = s.lk.inHand := by
  simp [State.tellEnd]
@[simp] theorem tellEnd_resetTaken : (s.tellEnd k r).lk.resetTaken = s.lk.resetTaken := by
  simp [State.tellEnd]
@[simp] theorem tellEnd_sending : (s.tellEnd k r).lk.sending = s.lk.sending := by
  simp [State.tellEnd]
end tellEnd

section finishOp
variable (st : TcState) (r : OpResult)
@[simp] theorem finishOp_now : (s.finishOp st r).now = s.now := by
  simp [State.finishOp]
@[simp] theorem finishOp_powered : (s.finishOp st r).powered = s.powered := by
  simp [State.finishOp]
@[simp] theorem finishOp_start : (s.finishOp st r).start = s.start := by
  simp [State.finishOp]
@[simp] theorem finishOp_pins : (s.finishOp st r).pins = s.pins := by
  simp [State.finishOp]
@[simp] theorem finishOp_set : (s.finishOp st r).set = s.set := by
  simp [State.finishOp]
@[simp] theorem finishOp_sau : (s.finishOp st r).sau = s.sau := by
  simp [State.finishOp]
@[simp] theorem finishOp_lc : (s.finishOp st r).lc = s.lc := by
  simp [State.finishOp]
@[simp] theorem finishOp_di : (s.finishOp st r).di = s.di := by
  simp [State.finishOp]
@[simp] theorem finishOp_cc : (s.finishOp st r).cc = s.cc := by
  simp [State.finishOp]
@[simp] theorem finishOp_ps : (s.finishOp st r).ps = s.ps := by
  simp [State.finishOp]
@[simp] theorem finishOp_fb : (s.finishOp st r).fb = s.fb := by
  simp [State.finishOp]
@[simp] theorem finishOp_ss : (s.finishOp st r).ss = s.ss := by
  simp [State.finishOp]
@[simp] theorem finishOp_pending : (s.finishOp st r).pending = s.pending := by
  simp [State.finishOp]
@[simp] theorem finishOp_run : (s.finishOp st r).rc.state = s.rc.state := by
  simp [State.finishOp]
@[simp] theorem finishOp_heardClose : (s.finishOp st r).rc.heardClose = s.rc.heardClose := by
  simp [State.finishOp]
@[simp] theorem finishOp_phase : (s.finishOp st r).rc.phase = s.rc.phase := by
  simp [State.finishOp]
@[simp] theorem finishOp_volumeSkips : (s.finishOp st r).rc.volumeSkips = s.rc.volumeSkips := by
  simp [State.finishOp]
@[simp] theorem finishOp_queue : (s.finishOp st r).lk.queue = s.lk.queue := by
  simp [State.finishOp]
@[simp] theorem finishOp_rate : (s.finishOp st r).lk.rate = s.lk.rate := by
  simp [State.finishOp]
@[simp] theorem finishOp_slot : (s.finishOp st r).lk.slot = s.lk.slot := by
  simp [State.finishOp]
@[simp] theorem finishOp_inHand : (s.finishOp st r).lk.inHand = s.lk.inHand := by
  simp [State.finishOp]
@[simp] theorem finishOp_resetTaken : (s.finishOp st r).lk.resetTaken = s.lk.resetTaken := by
  simp [State.finishOp]
@[simp] theorem finishOp_sending : (s.finishOp st r).lk.sending = s.lk.sending := by
  simp [State.finishOp]
end finishOp

section haltOp
variable (b : Bool)
@[simp] theorem haltOp_now : (s.haltOp b).now = s.now := by
  simp [State.haltOp]
@[simp] theorem haltOp_powered : (s.haltOp b).powered = s.powered := by
  simp [State.haltOp]
@[simp] theorem haltOp_start : (s.haltOp b).start = s.start := by
  simp [State.haltOp]
@[simp] theorem haltOp_pins : (s.haltOp b).pins = s.pins := by
  simp [State.haltOp]
@[simp] theorem haltOp_set : (s.haltOp b).set = s.set := by
  simp [State.haltOp]
@[simp] theorem haltOp_sau : (s.haltOp b).sau = s.sau := by
  simp [State.haltOp]
@[simp] theorem haltOp_lc : (s.haltOp b).lc = s.lc := by
  simp [State.haltOp]
@[simp] theorem haltOp_di : (s.haltOp b).di = s.di := by
  simp [State.haltOp]
@[simp] theorem haltOp_cc : (s.haltOp b).cc = s.cc := by
  simp [State.haltOp]
@[simp] theorem haltOp_ps : (s.haltOp b).ps = s.ps := by
  simp [State.haltOp]
@[simp] theorem haltOp_fb : (s.haltOp b).fb = s.fb := by
  simp [State.haltOp]
@[simp] theorem haltOp_ss : (s.haltOp b).ss = s.ss := by
  simp [State.haltOp]
@[simp] theorem haltOp_pending : (s.haltOp b).pending = s.pending := by
  simp [State.haltOp]
@[simp] theorem haltOp_run : (s.haltOp b).rc.state = s.rc.state := by
  simp [State.haltOp]
@[simp] theorem haltOp_heardClose : (s.haltOp b).rc.heardClose = s.rc.heardClose := by
  simp [State.haltOp]
@[simp] theorem haltOp_phase : (s.haltOp b).rc.phase = s.rc.phase := by
  simp [State.haltOp]
@[simp] theorem haltOp_volumeSkips : (s.haltOp b).rc.volumeSkips = s.rc.volumeSkips := by
  simp [State.haltOp]
@[simp] theorem haltOp_queue : (s.haltOp b).lk.queue = s.lk.queue := by
  simp [State.haltOp]
@[simp] theorem haltOp_rate : (s.haltOp b).lk.rate = s.lk.rate := by
  simp [State.haltOp]
@[simp] theorem haltOp_slot : (s.haltOp b).lk.slot = s.lk.slot := by
  simp [State.haltOp]
@[simp] theorem haltOp_inHand : (s.haltOp b).lk.inHand = s.lk.inHand := by
  simp [State.haltOp]
@[simp] theorem haltOp_resetTaken : (s.haltOp b).lk.resetTaken = s.lk.resetTaken := by
  simp [State.haltOp]
@[simp] theorem haltOp_sending : (s.haltOp b).lk.sending = s.lk.sending := by
  simp [State.haltOp]
end haltOp

section recovered
variable (st : TcState)
@[simp] theorem recovered_now : (s.recovered st).now = s.now := by
  simp [State.recovered]
@[simp] theorem recovered_powered : (s.recovered st).powered = s.powered := by
  simp [State.recovered]
@[simp] theorem recovered_start : (s.recovered st).start = s.start := by
  simp [State.recovered]
@[simp] theorem recovered_pins : (s.recovered st).pins = s.pins := by
  simp [State.recovered]
@[simp] theorem recovered_set : (s.recovered st).set = s.set := by
  simp [State.recovered]
@[simp] theorem recovered_sau : (s.recovered st).sau = s.sau := by
  simp [State.recovered]
@[simp] theorem recovered_lc : (s.recovered st).lc = s.lc := by
  simp [State.recovered]
@[simp] theorem recovered_di : (s.recovered st).di = s.di := by
  simp [State.recovered]
@[simp] theorem recovered_cc : (s.recovered st).cc = s.cc := by
  simp [State.recovered]
@[simp] theorem recovered_ps : (s.recovered st).ps = s.ps := by
  simp [State.recovered]
@[simp] theorem recovered_fb : (s.recovered st).fb = s.fb := by
  simp [State.recovered]
@[simp] theorem recovered_ss : (s.recovered st).ss = s.ss := by
  simp [State.recovered]
@[simp] theorem recovered_pending : (s.recovered st).pending = s.pending := by
  simp [State.recovered]
@[simp] theorem recovered_run : (s.recovered st).rc.state = s.rc.state := by
  simp [State.recovered]
@[simp] theorem recovered_heardClose : (s.recovered st).rc.heardClose = s.rc.heardClose := by
  simp [State.recovered]
@[simp] theorem recovered_phase : (s.recovered st).rc.phase = s.rc.phase := by
  simp [State.recovered]
@[simp] theorem recovered_volumeSkips : (s.recovered st).rc.volumeSkips = s.rc.volumeSkips := by
  simp [State.recovered]
@[simp] theorem recovered_queue : (s.recovered st).lk.queue = s.lk.queue := by
  simp [State.recovered]
@[simp] theorem recovered_rate : (s.recovered st).lk.rate = s.lk.rate := by
  simp [State.recovered]
@[simp] theorem recovered_slot : (s.recovered st).lk.slot = s.lk.slot := by
  simp [State.recovered]
@[simp] theorem recovered_inHand : (s.recovered st).lk.inHand = s.lk.inHand := by
  simp [State.recovered]
@[simp] theorem recovered_resetTaken : (s.recovered st).lk.resetTaken = s.lk.resetTaken := by
  simp [State.recovered]
@[simp] theorem recovered_sending : (s.recovered st).lk.sending = s.lk.sending := by
  simp [State.recovered]
end recovered

section toAttention
@[simp] theorem toAttention_now : s.toAttention.now = s.now := by
  unfold State.toAttention
  split <;> simp
@[simp] theorem toAttention_powered : s.toAttention.powered = s.powered := by
  unfold State.toAttention
  split <;> simp
@[simp] theorem toAttention_start : s.toAttention.start = s.start := by
  unfold State.toAttention
  split <;> simp
@[simp] theorem toAttention_pins : s.toAttention.pins = s.pins := by
  unfold State.toAttention
  split <;> simp
@[simp] theorem toAttention_set : s.toAttention.set = s.set := by
  unfold State.toAttention
  split <;> simp
@[simp] theorem toAttention_sau : s.toAttention.sau = s.sau := by
  unfold State.toAttention
  split <;> simp
@[simp] theorem toAttention_lc : s.toAttention.lc = s.lc := by
  unfold State.toAttention
  split <;> simp
@[simp] theorem toAttention_di : s.toAttention.di = s.di := by
  unfold State.toAttention
  split <;> simp
@[simp] theorem toAttention_cc : s.toAttention.cc = s.cc := by
  unfold State.toAttention
  split <;> simp
@[simp] theorem toAttention_ps : s.toAttention.ps = s.ps := by
  unfold State.toAttention
  split <;> simp
@[simp] theorem toAttention_fb : s.toAttention.fb = s.fb := by
  unfold State.toAttention
  split <;> simp
@[simp] theorem toAttention_ss : s.toAttention.ss = s.ss := by
  unfold State.toAttention
  split <;> simp
@[simp] theorem toAttention_pending : s.toAttention.pending = s.pending := by
  unfold State.toAttention
  split <;> simp
@[simp] theorem toAttention_run : s.toAttention.rc.state = s.rc.state := by
  unfold State.toAttention
  split <;> simp
@[simp] theorem toAttention_heardClose : s.toAttention.rc.heardClose = s.rc.heardClose := by
  unfold State.toAttention
  split <;> simp
@[simp] theorem toAttention_phase : s.toAttention.rc.phase = s.rc.phase := by
  unfold State.toAttention
  split <;> simp
@[simp] theorem toAttention_volumeSkips : s.toAttention.rc.volumeSkips = s.rc.volumeSkips := by
  unfold State.toAttention
  split <;> simp
@[simp] theorem toAttention_queue : s.toAttention.lk.queue = s.lk.queue := by
  unfold State.toAttention
  split <;> simp
@[simp] theorem toAttention_rate : s.toAttention.lk.rate = s.lk.rate := by
  unfold State.toAttention
  split <;> simp
@[simp] theorem toAttention_slot : s.toAttention.lk.slot = s.lk.slot := by
  unfold State.toAttention
  split <;> simp
@[simp] theorem toAttention_inHand : s.toAttention.lk.inHand = s.lk.inHand := by
  unfold State.toAttention
  split <;> simp
@[simp] theorem toAttention_resetTaken : s.toAttention.lk.resetTaken = s.lk.resetTaken := by
  unfold State.toAttention
  split <;> simp
@[simp] theorem toAttention_sending : s.toAttention.lk.sending = s.lk.sending := by
  unfold State.toAttention
  split <;> simp
end toAttention

section endStart
variable (o : HomingOutcome)
@[simp] theorem endStart_now : (s.endStart o).now = s.now := by
  simp [State.endStart]
@[simp] theorem endStart_powered : (s.endStart o).powered = s.powered := by
  simp [State.endStart]
@[simp] theorem endStart_pins : (s.endStart o).pins = s.pins := by
  simp [State.endStart]
@[simp] theorem endStart_set : (s.endStart o).set = s.set := by
  simp [State.endStart]
@[simp] theorem endStart_sau : (s.endStart o).sau = s.sau := by
  simp [State.endStart]
@[simp] theorem endStart_tc : (s.endStart o).tc = s.tc := by
  simp [State.endStart]
@[simp] theorem endStart_lc : (s.endStart o).lc = s.lc := by
  simp [State.endStart]
@[simp] theorem endStart_di : (s.endStart o).di = s.di := by
  simp [State.endStart]
@[simp] theorem endStart_cc : (s.endStart o).cc = s.cc := by
  simp [State.endStart]
@[simp] theorem endStart_rc : (s.endStart o).rc = s.rc := by
  simp [State.endStart]
@[simp] theorem endStart_ps : (s.endStart o).ps = s.ps := by
  simp [State.endStart]
@[simp] theorem endStart_fb : (s.endStart o).fb = s.fb := by
  simp [State.endStart]
@[simp] theorem endStart_ss : (s.endStart o).ss = s.ss := by
  simp [State.endStart]
@[simp] theorem endStart_pending : (s.endStart o).pending = s.pending := by
  simp [State.endStart]
@[simp] theorem endStart_queue : (s.endStart o).lk.queue = s.lk.queue := by
  simp [State.endStart]
@[simp] theorem endStart_rate : (s.endStart o).lk.rate = s.lk.rate := by
  simp [State.endStart]
@[simp] theorem endStart_slot : (s.endStart o).lk.slot = s.lk.slot := by
  simp [State.endStart]
@[simp] theorem endStart_inHand : (s.endStart o).lk.inHand = s.lk.inHand := by
  simp [State.endStart]
@[simp] theorem endStart_resetTaken : (s.endStart o).lk.resetTaken = s.lk.resetTaken := by
  simp [State.endStart]
@[simp] theorem endStart_sending : (s.endStart o).lk.sending = s.lk.sending := by
  simp [State.endStart]
end endStart

section tellHoming
variable (o : HomingOutcome) (r : OpResult)
@[simp] theorem tellHoming_now : (s.tellHoming o r).now = s.now := by
  unfold State.tellHoming
  split <;> simp
@[simp] theorem tellHoming_powered : (s.tellHoming o r).powered = s.powered := by
  unfold State.tellHoming
  split <;> simp
@[simp] theorem tellHoming_pins : (s.tellHoming o r).pins = s.pins := by
  unfold State.tellHoming
  split <;> simp
@[simp] theorem tellHoming_set : (s.tellHoming o r).set = s.set := by
  unfold State.tellHoming
  split <;> simp
@[simp] theorem tellHoming_sau : (s.tellHoming o r).sau = s.sau := by
  unfold State.tellHoming
  split <;> simp
@[simp] theorem tellHoming_tc : (s.tellHoming o r).tc = s.tc := by
  unfold State.tellHoming
  split <;> simp
@[simp] theorem tellHoming_lc : (s.tellHoming o r).lc = s.lc := by
  unfold State.tellHoming
  split <;> simp
@[simp] theorem tellHoming_di : (s.tellHoming o r).di = s.di := by
  unfold State.tellHoming
  split <;> simp
@[simp] theorem tellHoming_cc : (s.tellHoming o r).cc = s.cc := by
  unfold State.tellHoming
  split <;> simp
@[simp] theorem tellHoming_ps : (s.tellHoming o r).ps = s.ps := by
  unfold State.tellHoming
  split <;> simp
@[simp] theorem tellHoming_fb : (s.tellHoming o r).fb = s.fb := by
  unfold State.tellHoming
  split <;> simp
@[simp] theorem tellHoming_ss : (s.tellHoming o r).ss = s.ss := by
  unfold State.tellHoming
  split <;> simp
@[simp] theorem tellHoming_pending : (s.tellHoming o r).pending = s.pending := by
  unfold State.tellHoming
  split <;> simp
@[simp] theorem tellHoming_run : (s.tellHoming o r).rc.state = s.rc.state := by
  unfold State.tellHoming
  split <;> simp
@[simp] theorem tellHoming_heardClose : (s.tellHoming o r).rc.heardClose = s.rc.heardClose := by
  unfold State.tellHoming
  split <;> simp
@[simp] theorem tellHoming_phase : (s.tellHoming o r).rc.phase = s.rc.phase := by
  unfold State.tellHoming
  split <;> simp
@[simp] theorem tellHoming_volumeSkips : (s.tellHoming o r).rc.volumeSkips = s.rc.volumeSkips := by
  unfold State.tellHoming
  split <;> simp
@[simp] theorem tellHoming_queue : (s.tellHoming o r).lk.queue = s.lk.queue := by
  unfold State.tellHoming
  split <;> simp
@[simp] theorem tellHoming_rate : (s.tellHoming o r).lk.rate = s.lk.rate := by
  unfold State.tellHoming
  split <;> simp
@[simp] theorem tellHoming_slot : (s.tellHoming o r).lk.slot = s.lk.slot := by
  unfold State.tellHoming
  split <;> simp
@[simp] theorem tellHoming_inHand : (s.tellHoming o r).lk.inHand = s.lk.inHand := by
  unfold State.tellHoming
  split <;> simp
@[simp] theorem tellHoming_resetTaken : (s.tellHoming o r).lk.resetTaken = s.lk.resetTaken := by
  unfold State.tellHoming
  split <;> simp
@[simp] theorem tellHoming_sending : (s.tellHoming o r).lk.sending = s.lk.sending := by
  unfold State.tellHoming
  split <;> simp
end tellHoming

section homingDone
@[simp] theorem homingDone_now : s.homingDone.now = s.now := by
  simp [State.homingDone]
@[simp] theorem homingDone_powered : s.homingDone.powered = s.powered := by
  simp [State.homingDone]
@[simp] theorem homingDone_pins : s.homingDone.pins = s.pins := by
  simp [State.homingDone]
@[simp] theorem homingDone_set : s.homingDone.set = s.set := by
  simp [State.homingDone]
@[simp] theorem homingDone_sau : s.homingDone.sau = s.sau := by
  simp [State.homingDone]
@[simp] theorem homingDone_lc : s.homingDone.lc = s.lc := by
  simp [State.homingDone]
@[simp] theorem homingDone_di : s.homingDone.di = s.di := by
  simp [State.homingDone]
@[simp] theorem homingDone_cc : s.homingDone.cc = s.cc := by
  simp [State.homingDone]
@[simp] theorem homingDone_ps : s.homingDone.ps = s.ps := by
  simp [State.homingDone]
@[simp] theorem homingDone_fb : s.homingDone.fb = s.fb := by
  simp [State.homingDone]
@[simp] theorem homingDone_ss : s.homingDone.ss = s.ss := by
  simp [State.homingDone]
@[simp] theorem homingDone_pending : s.homingDone.pending = s.pending := by
  simp [State.homingDone]
@[simp] theorem homingDone_run : s.homingDone.rc.state = s.rc.state := by
  simp [State.homingDone]
@[simp] theorem homingDone_heardClose : s.homingDone.rc.heardClose = s.rc.heardClose := by
  simp [State.homingDone]
@[simp] theorem homingDone_phase : s.homingDone.rc.phase = s.rc.phase := by
  simp [State.homingDone]
@[simp] theorem homingDone_volumeSkips : s.homingDone.rc.volumeSkips = s.rc.volumeSkips := by
  simp [State.homingDone]
@[simp] theorem homingDone_queue : s.homingDone.lk.queue = s.lk.queue := by
  simp [State.homingDone]
@[simp] theorem homingDone_rate : s.homingDone.lk.rate = s.lk.rate := by
  simp [State.homingDone]
@[simp] theorem homingDone_slot : s.homingDone.lk.slot = s.lk.slot := by
  simp [State.homingDone]
@[simp] theorem homingDone_inHand : s.homingDone.lk.inHand = s.lk.inHand := by
  simp [State.homingDone]
@[simp] theorem homingDone_resetTaken : s.homingDone.lk.resetTaken = s.lk.resetTaken := by
  simp [State.homingDone]
@[simp] theorem homingDone_sending : s.homingDone.lk.sending = s.lk.sending := by
  simp [State.homingDone]
end homingDone

section homingFailed
variable (p : HomePart)
@[simp] theorem homingFailed_now : (s.homingFailed p).now = s.now := by
  simp [State.homingFailed]
@[simp] theorem homingFailed_powered : (s.homingFailed p).powered = s.powered := by
  simp [State.homingFailed]
@[simp] theorem homingFailed_pins : (s.homingFailed p).pins = s.pins := by
  simp [State.homingFailed]
@[simp] theorem homingFailed_set : (s.homingFailed p).set = s.set := by
  simp [State.homingFailed]
@[simp] theorem homingFailed_sau : (s.homingFailed p).sau = s.sau := by
  simp [State.homingFailed]
@[simp] theorem homingFailed_lc : (s.homingFailed p).lc = s.lc := by
  simp [State.homingFailed]
@[simp] theorem homingFailed_di : (s.homingFailed p).di = s.di := by
  simp [State.homingFailed]
@[simp] theorem homingFailed_cc : (s.homingFailed p).cc = s.cc := by
  simp [State.homingFailed]
@[simp] theorem homingFailed_ps : (s.homingFailed p).ps = s.ps := by
  simp [State.homingFailed]
@[simp] theorem homingFailed_ss : (s.homingFailed p).ss = s.ss := by
  simp [State.homingFailed]
@[simp] theorem homingFailed_pending : (s.homingFailed p).pending = s.pending := by
  simp [State.homingFailed]
@[simp] theorem homingFailed_run : (s.homingFailed p).rc.state = s.rc.state := by
  simp [State.homingFailed]
@[simp] theorem homingFailed_heardClose : (s.homingFailed p).rc.heardClose = s.rc.heardClose := by
  simp [State.homingFailed]
@[simp] theorem homingFailed_phase : (s.homingFailed p).rc.phase = s.rc.phase := by
  simp [State.homingFailed]
@[simp] theorem homingFailed_volumeSkips : (s.homingFailed p).rc.volumeSkips = s.rc.volumeSkips := by
  simp [State.homingFailed]
@[simp] theorem homingFailed_queue : (s.homingFailed p).lk.queue = s.lk.queue := by
  simp [State.homingFailed]
@[simp] theorem homingFailed_rate : (s.homingFailed p).lk.rate = s.lk.rate := by
  simp [State.homingFailed]
@[simp] theorem homingFailed_slot : (s.homingFailed p).lk.slot = s.lk.slot := by
  simp [State.homingFailed]
@[simp] theorem homingFailed_inHand : (s.homingFailed p).lk.inHand = s.lk.inHand := by
  simp [State.homingFailed]
@[simp] theorem homingFailed_resetTaken : (s.homingFailed p).lk.resetTaken = s.lk.resetTaken := by
  simp [State.homingFailed]
@[simp] theorem homingFailed_sending : (s.homingFailed p).lk.sending = s.lk.sending := by
  simp [State.homingFailed]
end homingFailed

section homeArm
@[simp] theorem homeArm_now : s.homeArm.now = s.now := by
  unfold State.homeArm
  dsimp only
  split <;> simp
@[simp] theorem homeArm_powered : s.homeArm.powered = s.powered := by
  unfold State.homeArm
  dsimp only
  split <;> simp
@[simp] theorem homeArm_pins : s.homeArm.pins = s.pins := by
  unfold State.homeArm
  dsimp only
  split <;> simp
@[simp] theorem homeArm_set : s.homeArm.set = s.set := by
  unfold State.homeArm
  dsimp only
  split <;> simp
@[simp] theorem homeArm_sau : s.homeArm.sau = s.sau := by
  unfold State.homeArm
  dsimp only
  split <;> simp
@[simp] theorem homeArm_lc : s.homeArm.lc = s.lc := by
  unfold State.homeArm
  dsimp only
  split <;> simp
@[simp] theorem homeArm_di : s.homeArm.di = s.di := by
  unfold State.homeArm
  dsimp only
  split <;> simp
@[simp] theorem homeArm_cc : s.homeArm.cc = s.cc := by
  unfold State.homeArm
  dsimp only
  split <;> simp
@[simp] theorem homeArm_ps : s.homeArm.ps = s.ps := by
  unfold State.homeArm
  dsimp only
  split <;> simp
@[simp] theorem homeArm_fb : s.homeArm.fb = s.fb := by
  unfold State.homeArm
  dsimp only
  split <;> simp
@[simp] theorem homeArm_ss : s.homeArm.ss = s.ss := by
  unfold State.homeArm
  dsimp only
  split <;> simp
@[simp] theorem homeArm_pending : s.homeArm.pending = s.pending := by
  unfold State.homeArm
  dsimp only
  split <;> simp
@[simp] theorem homeArm_run : s.homeArm.rc.state = s.rc.state := by
  unfold State.homeArm
  dsimp only
  split <;> simp
@[simp] theorem homeArm_heardClose : s.homeArm.rc.heardClose = s.rc.heardClose := by
  unfold State.homeArm
  dsimp only
  split <;> simp
@[simp] theorem homeArm_phase : s.homeArm.rc.phase = s.rc.phase := by
  unfold State.homeArm
  dsimp only
  split <;> simp
@[simp] theorem homeArm_volumeSkips : s.homeArm.rc.volumeSkips = s.rc.volumeSkips := by
  unfold State.homeArm
  dsimp only
  split <;> simp
@[simp] theorem homeArm_queue : s.homeArm.lk.queue = s.lk.queue := by
  unfold State.homeArm
  dsimp only
  split <;> simp
@[simp] theorem homeArm_rate : s.homeArm.lk.rate = s.lk.rate := by
  unfold State.homeArm
  dsimp only
  split <;> simp
@[simp] theorem homeArm_slot : s.homeArm.lk.slot = s.lk.slot := by
  unfold State.homeArm
  dsimp only
  split <;> simp
@[simp] theorem homeArm_inHand : s.homeArm.lk.inHand = s.lk.inHand := by
  unfold State.homeArm
  dsimp only
  split <;> simp
@[simp] theorem homeArm_resetTaken : s.homeArm.lk.resetTaken = s.lk.resetTaken := by
  unfold State.homeArm
  dsimp only
  split <;> simp
@[simp] theorem homeArm_sending : s.homeArm.lk.sending = s.lk.sending := by
  unfold State.homeArm
  dsimp only
  split <;> simp
end homeArm

section beginHoming
@[simp] theorem beginHoming_now : s.beginHoming.now = s.now := by
  unfold State.beginHoming
  dsimp only
  split <;> simp
@[simp] theorem beginHoming_powered : s.beginHoming.powered = s.powered := by
  unfold State.beginHoming
  dsimp only
  split <;> simp
@[simp] theorem beginHoming_pins : s.beginHoming.pins = s.pins := by
  unfold State.beginHoming
  dsimp only
  split <;> simp
@[simp] theorem beginHoming_set : s.beginHoming.set = s.set := by
  unfold State.beginHoming
  dsimp only
  split <;> simp
@[simp] theorem beginHoming_sau : s.beginHoming.sau = s.sau := by
  unfold State.beginHoming
  dsimp only
  split <;> simp
@[simp] theorem beginHoming_lc : s.beginHoming.lc = s.lc := by
  unfold State.beginHoming
  dsimp only
  split <;> simp
@[simp] theorem beginHoming_di : s.beginHoming.di = s.di := by
  unfold State.beginHoming
  dsimp only
  split <;> simp
@[simp] theorem beginHoming_cc : s.beginHoming.cc = s.cc := by
  unfold State.beginHoming
  dsimp only
  split <;> simp
@[simp] theorem beginHoming_ps : s.beginHoming.ps = s.ps := by
  unfold State.beginHoming
  dsimp only
  split <;> simp
@[simp] theorem beginHoming_fb : s.beginHoming.fb = s.fb := by
  unfold State.beginHoming
  dsimp only
  split <;> simp
@[simp] theorem beginHoming_ss : s.beginHoming.ss = s.ss := by
  unfold State.beginHoming
  dsimp only
  split <;> simp
@[simp] theorem beginHoming_pending : s.beginHoming.pending = s.pending := by
  unfold State.beginHoming
  dsimp only
  split <;> simp
@[simp] theorem beginHoming_run : s.beginHoming.rc.state = s.rc.state := by
  unfold State.beginHoming
  dsimp only
  split <;> simp
@[simp] theorem beginHoming_heardClose : s.beginHoming.rc.heardClose = s.rc.heardClose := by
  unfold State.beginHoming
  dsimp only
  split <;> simp
@[simp] theorem beginHoming_phase : s.beginHoming.rc.phase = s.rc.phase := by
  unfold State.beginHoming
  dsimp only
  split <;> simp
@[simp] theorem beginHoming_volumeSkips : s.beginHoming.rc.volumeSkips = s.rc.volumeSkips := by
  unfold State.beginHoming
  dsimp only
  split <;> simp
@[simp] theorem beginHoming_queue : s.beginHoming.lk.queue = s.lk.queue := by
  unfold State.beginHoming
  dsimp only
  split <;> simp
@[simp] theorem beginHoming_rate : s.beginHoming.lk.rate = s.lk.rate := by
  unfold State.beginHoming
  dsimp only
  split <;> simp
@[simp] theorem beginHoming_slot : s.beginHoming.lk.slot = s.lk.slot := by
  unfold State.beginHoming
  dsimp only
  split <;> simp
@[simp] theorem beginHoming_inHand : s.beginHoming.lk.inHand = s.lk.inHand := by
  unfold State.beginHoming
  dsimp only
  split <;> simp
@[simp] theorem beginHoming_resetTaken : s.beginHoming.lk.resetTaken = s.lk.resetTaken := by
  unfold State.beginHoming
  dsimp only
  split <;> simp
@[simp] theorem beginHoming_sending : s.beginHoming.lk.sending = s.lk.sending := by
  unfold State.beginHoming
  dsimp only
  split <;> simp
end beginHoming

section homeFor
variable (c : HomeCause) (b : Bool)
@[simp] theorem homeFor_now : (s.homeFor c b).now = s.now := by
  simp [State.homeFor]
@[simp] theorem homeFor_powered : (s.homeFor c b).powered = s.powered := by
  simp [State.homeFor]
@[simp] theorem homeFor_pins : (s.homeFor c b).pins = s.pins := by
  simp [State.homeFor]
@[simp] theorem homeFor_set : (s.homeFor c b).set = s.set := by
  simp [State.homeFor]
@[simp] theorem homeFor_sau : (s.homeFor c b).sau = s.sau := by
  simp [State.homeFor]
@[simp] theorem homeFor_lc : (s.homeFor c b).lc = s.lc := by
  simp [State.homeFor]
@[simp] theorem homeFor_di : (s.homeFor c b).di = s.di := by
  simp [State.homeFor]
@[simp] theorem homeFor_cc : (s.homeFor c b).cc = s.cc := by
  simp [State.homeFor]
@[simp] theorem homeFor_ps : (s.homeFor c b).ps = s.ps := by
  simp [State.homeFor]
@[simp] theorem homeFor_fb : (s.homeFor c b).fb = s.fb := by
  simp [State.homeFor]
@[simp] theorem homeFor_ss : (s.homeFor c b).ss = s.ss := by
  simp [State.homeFor]
@[simp] theorem homeFor_pending : (s.homeFor c b).pending = s.pending := by
  simp [State.homeFor]
@[simp] theorem homeFor_run : (s.homeFor c b).rc.state = s.rc.state := by
  simp [State.homeFor]
@[simp] theorem homeFor_heardClose : (s.homeFor c b).rc.heardClose = s.rc.heardClose := by
  simp [State.homeFor]
@[simp] theorem homeFor_phase : (s.homeFor c b).rc.phase = s.rc.phase := by
  simp [State.homeFor]
@[simp] theorem homeFor_volumeSkips : (s.homeFor c b).rc.volumeSkips = s.rc.volumeSkips := by
  simp [State.homeFor]
@[simp] theorem homeFor_queue : (s.homeFor c b).lk.queue = s.lk.queue := by
  simp [State.homeFor]
@[simp] theorem homeFor_rate : (s.homeFor c b).lk.rate = s.lk.rate := by
  simp [State.homeFor]
@[simp] theorem homeFor_slot : (s.homeFor c b).lk.slot = s.lk.slot := by
  simp [State.homeFor]
@[simp] theorem homeFor_inHand : (s.homeFor c b).lk.inHand = s.lk.inHand := by
  simp [State.homeFor]
@[simp] theorem homeFor_resetTaken : (s.homeFor c b).lk.resetTaken = s.lk.resetTaken := by
  simp [State.homeFor]
@[simp] theorem homeFor_sending : (s.homeFor c b).lk.sending = s.lk.sending := by
  simp [State.homeFor]
end homeFor

end Sys2Proof.Machine
end

