-- ==== Sys2Proof/Laws/Keeps.lean ====
section
/-! SUPPORT. What every operation keeps of three invariants of Safety.lean: the bounds, the threshold counters, and the
lamps. `Keeps s0 s` says what holds of `s` in an event that began in `s0`; each operation carries it on. -/

set_option Elab.async false

namespace Sys2Proof.Machine

/-- The bounds, the ring, the opening table, the counters and the doses hold in `s` if they held in `s0`; and a bank lit in `s` is either lit since `s0`,
with nothing new keeping the lamps off, or nothing keeps the lamps off in `s`. -/
structure Keeps (s0 s : State) : Prop where
  bounds  : s0.bounded → s.bounded
  ring    : s0.cc.ringSound → s.cc.ringSound
  table   : s0.sau.tableSound → s.sau.tableSound
  counts  : s0.countersHold → s.countersHold
  sound   : s0.doseSound → s.doseSound
  power   : s.powered = s0.powered
  lit     : s0.powered = true → s0.doseSound → ∀ b, (s.lc.banks.get b).lit = true →
      ((s0.lc.banks.get b).lit = true ∧ (s.lampsBlocked → s0.lampsBlocked)) ∨ ¬ s.lampsBlocked

theorem Keeps.refl (s : State) : Keeps s s :=
  ⟨id, id, id, id, id, rfl, fun _ _ _ h => .inl ⟨h, id⟩⟩

variable {s0 s t : State}

theorem Keeps.lampsSafe (h : Keeps s0 s) (hp : s0.powered = true) (hs : s0.lampsSafe) : s.lampsSafe := by
  refine ⟨fun hb b => ?_, h.sound hs.2⟩
  cases hl : (s.lc.banks.get b).lit
  · rfl
  · rcases h.lit hp hs.2 b hl with ⟨h1, h2⟩ | h1
    · have := hs.1 (h2 hb) b
      rw [h1] at this
      exact Bool.noConfusion this
    · exact absurd hb h1

/-- An operation that leaves what the invariants speak of as it is, or only less of it. -/
theorem Keeps.frame (h : Keeps s0 s)
    (htk : t.cc.tickets.length ≤ s.cc.tickets.length) (hca : t.di.carry = s.di.carry)
    (hqu : t.lk.queue.length ≤ s.lk.queue.length)
    (hct : ∀ b, (t.fb.banks.get b).count = (s.fb.banks.get b).count
      ∧ (t.fb.banks.get b).crossed = (s.fb.banks.get b).crossed)
    (hth : t.set.thresholds = s.set.thresholds) (hss : t.ss = s.ss) (hbk : t.lc.banks = s.lc.banks)
    (hpw : t.powered = s.powered) (hgu : t.pins.guardOpen = s.pins.guardOpen)
    (htc : t.tc.state = .safeStop → s.tc.state = .safeStop) (hsd : t.di.sensorDark = s.di.sensorDark)
    (hex : t.di.exhausted = s.di.exhausted) (hdd : t.di.dayDose = s.di.dayDose) (hvo : t.limits? = s.limits?)
    (hrm : t.di.remainder = s.di.remainder := by first | rfl | simp)
    (hrg : s.cc.ringSound → t.cc.ringSound := by first | exact id | (intro h; simpa using h))
    (htb : s.sau.tableSound → t.sau.tableSound := by first | exact id | (intro h; simpa using h)) : Keeps s0 t where
  ring h0 := hrg (h.ring h0)
  table h0 := htb (h.table h0)
  bounds h0 := by
    have := h.bounds h0
    refine ⟨?_, ?_, ?_, ?_⟩
    · exact Nat.le_trans htk this.1
    · rw [hca]
      exact this.2.1
    · rw [hrm]
      exact this.2.2.1
    · exact Nat.le_trans hqu this.2.2.2
  counts h0 := by
    have := h.counts h0
    unfold State.countersHold at *
    rw [hth, hss]
    refine ⟨fun b => ?_, this.2⟩
    rw [(hct b).1, (hct b).2]
    exact this.1 b
  sound h0 := by
    have := h.sound h0
    unfold State.doseSound at *
    rw [hex, hdd, hbk, hca, hvo]
    exact this
  power := hpw.trans h.power
  lit hp h0 b hl := by
    rw [hbk] at hl
    have himp : t.lampsBlocked → s.lampsBlocked := by
      rintro (x | x | x | x | x)
      · exact .inl (hpw ▸ x)
      · exact .inr (.inl (hgu ▸ x))
      · exact .inr (.inr (.inl (htc x)))
      · exact .inr (.inr (.inr (.inl (hsd ▸ x))))
      · exact .inr (.inr (.inr (.inr (hex ▸ x))))
    rcases h.lit hp h0 b hl with ⟨h1, h2⟩ | h1
    · exact .inl ⟨h1, fun x => h2 (himp x)⟩
    · exact .inr fun x => h1 (himp x)

/-- An operation on TC, RC, LK's gathered contents, the pins and the start-up alone. -/
theorem Keeps.same (h : Keeps s0 s) (hcc : t.cc = s.cc := by first | rfl | simp)
    (hdi : t.di = s.di := by first | rfl | simp) (hqu : t.lk.queue = s.lk.queue := by first | rfl | simp)
    (hfb : t.fb = s.fb := by first | rfl | simp) (hse : t.set = s.set := by first | rfl | simp)
    (hss : t.ss = s.ss := by first | rfl | simp) (hlc : t.lc = s.lc := by first | rfl | simp)
    (hpw : t.powered = s.powered := by first | rfl | simp)
    (hgu : t.pins.guardOpen = s.pins.guardOpen := by first | rfl | simp)
    (htc : t.tc.state = .safeStop → s.tc.state = .safeStop := by
      first | exact id | exact fun h => TcState.noConfusion h | simp | (intro h; simp at h; done))
    (hsa : t.sau = s.sau := by first | rfl | simp) : Keeps s0 t :=
  h.frame (by rw [hcc]) (by rw [hdi]) (by rw [hqu]) (fun b => by rw [hfb]; exact ⟨rfl, rfl⟩) (by rw [hse]) hss
    (by rw [hlc]) hpw hgu htc (by rw [hdi]) (by rw [hdi]) (by rw [hdi])
    (by unfold State.limits?; rw [hsa]) (by rw [hdi]) (fun x => hcc ▸ x) (fun x => hsa ▸ x)

/-! ### Shared operations -/

theorem Keeps.notifyWith (h : Keeps s0 s) {k : NoticeKind} {f : Gathered → Gathered} : Keeps s0 (s.notifyWith k f) :=
  h.same

theorem Keeps.notify (h : Keeps s0 s) {k : NoticeKind} : Keeps s0 (s.notify k) :=
  h.notifyWith

theorem Keeps.recordFault (h : Keeps s0 s) {c : FaultCode} {d : List Nat} : Keeps s0 (s.recordFault c d) := by
  have hl := recordFault_lk s c d
  refine h.frame (by simp) (by simp) (by rw [hl]) (fun b => ?_) (by simp) (by simp) (by simp) (by simp) (by simp)
    (by simp) (by simp) (by simp) (by simp) (by simp [State.limits?])
  by_cases hb : b = c.bank
  · subst hb
    rw [recordFault_banks]
    exact ⟨rfl, rfl⟩
  · rw [recordFault_otherBank s c d hb]
    exact ⟨rfl, rfl⟩

/-- A recount to a value of the counter's range. -/
theorem Keeps.recount (h : Keeps s0 s) {b : FaultBank} {n : Nat} (hn : s0.countersHold → n ≤ 4095) :
    Keeps s0 (s.recount b n) where
  bounds h0 := by
    have := h.bounds h0
    unfold State.bounded at *
    simpa using this
  counts h0 := by
    have hc := h.counts h0
    unfold State.countersHold at *
    simp only [recount_set, recount_ss]
    refine ⟨fun b' => ?_, hc.2⟩
    rw [recount_fb, PerFaultBank.get_set]
    split
    · rename_i e
      subst e
      exact ⟨hn h0, rfl⟩
    · exact hc.1 b'
  sound h0 := by
    have := h.sound h0
    unfold State.doseSound State.limits? at *
    simpa using this
  ring h0 := by simpa using h.ring h0
  table h0 := by simpa using h.table h0
  power := by simpa using h.power
  lit hp h0 b' hl := by
    have := h.lit hp h0 b' (by simpa using hl)
    unfold State.lampsBlocked at *
    simpa using this

theorem Keeps.report (h : Keeps s0 s) {c : FaultCode} {d : List Nat} : Keeps s0 (s.report c d) := by
  unfold State.report
  split
  · dsimp only
    split
    · exact h.recordFault.recount fun _ => Nat.min_le_left _ _
    · exact h.recordFault
  · exact h

/-! ### SAU and the ring (01, 06) -/

theorem setSide_limits (s : State) (n : Nat) (st : SideState) : (s.setSide n st).limits? = s.limits? := by
  unfold State.setSide
  split <;> rfl

theorem updateOpening_length (j : Nat) (f : Opening → Opening) (l : List Opening) :
    (updateOpening j f l).length = l.length := by
  simp [updateOpening]

theorem setSideIn_length (d : Direction) (l : List Opening) (n : Nat) (st : SideState) :
    (setSideIn d l n st).length = l.length :=
  updateOpening_length _ _ _

theorem tableSound_setSide (n : Nat) (st : SideState) (h : s.sau.tableSound) : (s.setSide n st).sau.tableSound := by
  unfold State.setSide
  split
  · intro v hv
    simp only [setSideIn_length]
    exact h v hv
  · exact h

theorem setSide_cc (s : State) (n : Nat) (st : SideState) : (s.setSide n st).cc = s.cc := by
  unfold State.setSide
  split <;> rfl

theorem Keeps.setSide (h : Keeps s0 s) {n : Nat} {st : SideState} : Keeps s0 (s.setSide n st) := by
  refine h.frame ?_ ?_ ?_ ?_ ?_ ?_ ?_ ?_ ?_ ?_ ?_ ?_ ?_ (setSide_limits s n st)
    (by unfold State.setSide; split <;> rfl) (fun x => (setSide_cc s n st).symm ▸ x) (tableSound_setSide n st)
  all_goals (unfold State.setSide; split <;> first | rfl | exact Nat.le_refl _ | exact id | exact fun _ => ⟨rfl, rfl⟩)

/-- A ring whose tickets are changed one by one, with their serials kept and none opened, stays sound. -/
theorem ringSound_map {c d : Cc} {g : Ticket → Ticket} (ht : d.tickets = c.tickets.map g)
    (hs : ∀ t, (g t).serial = t.serial) (hc : ∀ t, t.closed = true → (g t).closed = true)
    (hn : d.nextSerial = c.nextSerial := by rfl) (ho : d.oldest = c.oldest := by rfl) (h : c.ringSound) :
    d.ringSound := by
  obtain ⟨h1, h2, h3, h4, h5⟩ := h
  refine ⟨?_, ?_, hn ▸ h3, ?_, ho ▸ h5⟩
  · have : Ticket.serial ∘ g = Ticket.serial := funext hs
    rw [ht, hn, List.map_map, this]
    exact h1
  · rw [ht, List.map_dropLast.symm]
    intro t hm
    obtain ⟨u, hu, rfl⟩ := List.mem_map.mp hm
    exact hc u (h2 u hu)
  · rw [ht]
    intro t hm
    obtain ⟨u, hu, rfl⟩ := List.mem_map.mp hm
    rw [hs]
    exact h4 u hu

/-- What changes an OPEN ticket keeps the ring sound where it keeps the serial. -/
theorem ringSound_mapOpen {c d : Cc} {f : Ticket → Ticket} (ht : d.tickets = mapOpen f c.tickets)
    (hs : ∀ t, (f t).serial = t.serial) (hn : d.nextSerial = c.nextSerial := by rfl)
    (ho : d.oldest = c.oldest := by rfl) (h : c.ringSound) : d.ringSound := by
  refine ringSound_map (g := fun t => if t.closed then t else f t) ht (fun t => ?_) (fun t x => ?_) hn ho h
  · split
    · rfl
    · exact hs t
  · simp [x]

/-- An operation on the OPEN ticket, which keeps its serial. -/
theorem Keeps.onOpenTicket (h : Keeps s0 s) {f : Ticket → Ticket} (hf : ∀ t, (f t).serial = t.serial := by exact fun _ => rfl) :
    Keeps s0 (s.onOpenTicket f) :=
  h.frame (by simp [State.onOpenTicket, mapOpen]) rfl (Nat.le_refl _) (fun _ => ⟨rfl, rfl⟩) rfl rfl rfl rfl rfl id rfl rfl
    rfl rfl (hrg := ringSound_mapOpen rfl hf)

/-- An operation on CC that brings no ticket. -/
theorem Keeps.withCc (h : Keeps s0 s) {c : Cc} (hc : c.tickets.length ≤ s.cc.tickets.length)
    (hr : s.cc.ringSound → c.ringSound := by first | exact id | (intro h; simpa using h)) :
    Keeps s0 { s with cc := c } :=
  h.frame hc rfl (Nat.le_refl _) (fun _ => ⟨rfl, rfl⟩) rfl rfl rfl rfl rfl id rfl rfl rfl rfl (hrg := hr)

theorem Keeps.withSync (h : Keeps s0 s) {f : Sync → Sync} : Keeps s0 (s.withSync f) :=
  h.withCc (Nat.le_refl _)

theorem Keeps.withRc (h : Keeps s0 s) {f : Rc → Rc} : Keeps s0 (s.withRc f) :=
  h.same

theorem Keeps.supersede (h : Keeps s0 s) {n : Nat} : Keeps s0 (s.supersede n) := by
  unfold State.supersede
  split
  · refine h.setSide.withCc (by simp) (ringSound_map rfl (fun t => ?_) fun t x => ?_)
    · unfold Ticket.supersede
      split <;> rfl
    · unfold Ticket.supersede
      split <;> exact x
  · exact h

theorem Keeps.orphan (h : Keeps s0 s) {n : Nat} : Keeps s0 (s.orphan n) := by
  refine h.withCc (by simp) (ringSound_map rfl (fun t => ?_) fun t x => ?_)
  · split <;> rfl
  · split <;> exact x

theorem Keeps.retestBacklog (h : Keeps s0 s) : Keeps s0 s.retestBacklog := by
  unfold State.retestBacklog
  dsimp only
  split
  · apply Keeps.notifyWith
    exact h.withCc (Nat.le_refl _)
  · exact h.withCc (Nat.le_refl _)

theorem Keeps.applyHalf (h : Keeps s0 s) {v : Verdict} {x : Option Half} : Keeps s0 (s.applyHalf v x) := by
  unfold State.applyHalf
  split
  · split
    · exact h
    · exact h.setSide
  · exact h

theorem Keeps.applyVerdicts (h : Keeps s0 s) {k : Ticket} {l r : Verdict} : Keeps s0 (s.applyVerdicts k l r) := by
  unfold State.applyVerdicts
  split
  · split
    · exact h.applyHalf.applyHalf
    · exact h
  · exact h

theorem Keeps.freeOldest (h : Keeps s0 s) : Keeps s0 s.freeOldest := by
  refine h.withCc (by simp) fun x => ?_
  obtain ⟨h1, h2, h3, h4, h5⟩ := x
  refine ⟨?_, fun t ht => h2 t ?_, h3, fun t ht => h4 t (List.mem_of_mem_drop ht), Nat.mod_lt _ (by decide)⟩
  · cases e : s.cc.tickets with
    | nil => trivial
    | cons a l =>
      rw [e] at h1
      exact h1.2
  · cases e : s.cc.tickets with
    | nil => simp [e] at ht
    | cons a l =>
      cases l with
      | nil => simp [e] at ht
      | cons b l =>
        simp only [e, List.drop_succ_cons, List.drop_zero] at ht
        exact List.mem_cons_of_mem _ ht

theorem Keeps.releaseWalk {l r : Verdict} (n : Nat) :
    ∀ {s : State} {done : List Nat}, Keeps s0 s → Keeps s0 (releaseWalk l r n s done).1 := by
  induction n with
  | zero => exact fun h => h
  | succ n ih =>
    intro s done h
    unfold Machine.releaseWalk
    split
    · exact h
    · split
      · exact ih h.applyVerdicts.freeOldest
      · exact h

/-! ### LC (03) -/

/-- An operation that puts banks out, or leaves them, and changes of DI no more than its counts. -/
theorem Keeps.dim (h : Keeps s0 s) {l : Lc} (hb : ∀ b, (l.banks.get b).lit = true → (s.lc.banks.get b).lit = true)
    (hf : ∀ b, (l.banks.get b).faulted = true → (s.lc.banks.get b).faulted = true ∨ (l.banks.get b).lit = false) :
    Keeps s0 { s with lc := l } where
  bounds := h.bounds
  ring := h.ring
  table := h.table
  counts := h.counts
  sound h0 := by
    have hs := h.sound h0
    refine ⟨hs.1, fun b hfb => ?_, hs.2.2⟩
    rcases hf b hfb with x | x
    · have := hs.2.1 b x
      cases hl : (l.banks.get b).lit
      · rfl
      · rw [hb b hl] at this
        exact Bool.noConfusion this
    · exact x
  power := h.power
  lit hp h0 b hl := h.lit hp h0 b (hb b hl)

theorem Keeps.withLc (h : Keeps s0 s) {l : Lc} (hb : l.banks = s.lc.banks) : Keeps s0 { s with lc := l } :=
  h.dim (fun b => by rw [hb]; exact id) fun b hf => .inl (by rwa [hb] at hf)

theorem Keeps.litTimeEnded (h : Keeps s0 s) {w : Bool} : Keeps s0 (s.litTimeEnded w) := by
  unfold State.litTimeEnded
  split
  · exact h.frame (Nat.le_refl _) rfl (Nat.le_refl _) (fun _ => ⟨rfl, rfl⟩) rfl rfl rfl rfl rfl id rfl rfl rfl rfl
  · exact h

theorem banksDark_banks (s : State) : s.banksDark.lc.banks = s.lc.banks.map BankRec.dark := by
  unfold State.banksDark State.litTimeEnded
  dsimp only
  split <;> rfl

/-- After it every bank is dark. -/
theorem banksDark_dark (s : State) : s.banksDark.dark := by
  intro b
  rw [banksDark_banks, PerBank.get_map]
  rfl

theorem Keeps.banksDark (h : Keeps s0 s) : Keeps s0 s.banksDark := by
  unfold State.banksDark
  exact Keeps.litTimeEnded (h.dim (fun b hb => by rw [PerBank.get_map] at hb; exact Bool.noConfusion hb)
    fun b _ => .inr (by rw [PerBank.get_map]; rfl))

theorem Keeps.learn (h : Keeps s0 s) {w : Window} : Keeps s0 (s.learn w) := by
  unfold State.learn
  split
  · exact h.withLc rfl
  · exact h

theorem Keeps.endWindow (h : Keeps s0 s) : Keeps s0 s.endWindow := by
  unfold State.endWindow
  split
  · exact h.banksDark
  · dsimp only
    refine Keeps.withLc (Keeps.banksDark ?_) rfl
    split
    · exact h.learn
    · exact h

theorem Keeps.endPreview (h : Keeps s0 s) {r : PreviewEnd} : Keeps s0 (s.endPreview r) := by
  unfold State.endPreview
  split
  · exact h
  · exact h.endWindow.withLc rfl

theorem usable_healthy {p : Profile} {b : LampBank} (h : s.usable p b = true) : (s.lc.banks.get b).faulted = false := by
  unfold State.usable at h
  simp only [Bool.and_eq_true, Bool.not_eq_true'] at h
  exact h.2

/-- A window opens only where nothing keeps the lamps off. -/
theorem Keeps.openWindow (h : Keeps s0 s) {k : WindowKind} {i : Nat} (hn : s0.powered = true → s0.doseSound → ¬ s.lampsBlocked) :
    Keeps s0 (s.openWindow k i) where
  bounds := h.bounds
  ring := h.ring
  table := h.table
  counts := h.counts
  sound h0 := by
    have hs := h.sound h0
    refine ⟨hs.1, fun b hf => ?_, hs.2.2⟩
    simp only [State.openWindow, PerBank.get_of] at hf ⊢
    have hu : s.usable (profileAt s.set.profiles i) b = false := by
      cases hx : s.usable (profileAt s.set.profiles i) b
      · rfl
      · rw [usable_healthy hx] at hf
        exact Bool.noConfusion hf
    simp [State.windowLevel, hu]
  power := h.power
  lit hp h0 _ _ := .inr (hn hp h0)

@[simp] theorem step_lit (e g n f : Nat) (b : BankRec) : (b.step e g n f).lit = b.lit := by
  unfold BankRec.step
  dsimp only
  split <;> rfl

@[simp] theorem step_faulted (e g n f : Nat) (b : BankRec) : (b.step e g n f).faulted = b.faulted := by
  unfold BankRec.step
  dsimp only
  split <;> rfl

theorem Keeps.compareAt (h : Keeps s0 s) {d : Nat} {w : Window} : Keeps s0 (s.compareAt d w) := by
  unfold State.compareAt
  refine h.dim (fun b hb => ?_) (fun b hf => .inl ?_)
  · rwa [PerBank.get_map, step_lit] at hb
  · rwa [PerBank.get_map, step_faulted] at hf

theorem Keeps.bankFault (h : Keeps s0 s) {b : LampBank} {r : CurrentReport} : Keeps s0 (s.bankFault b r) := by
  unfold State.bankFault
  dsimp only
  split
  · have h1 : Keeps s0 { s with lc := { s.lc with
        banks := s.lc.banks.set b { (s.lc.banks.get b).dark with faulted := true, kind := some (reportCode r) } } } := by
      refine h.dim (fun b' hb => ?_) (fun b' hf => ?_)
      · rw [PerBank.get_set] at hb
        split at hb
        · exact Bool.noConfusion hb
        · exact hb
      · rw [PerBank.get_set] at hf ⊢
        split
        · exact .inr rfl
        · rename_i hne
          rw [if_neg hne] at hf
          exact .inl hf
    have h2 := (h1.litTimeEnded (w := true)).report (c := reportCode r) (d := [bankCode b])
    split
    · split
      · exact h2.onOpenTicket
      · exact h2.onOpenTicket.endPreview
    · split
      · exact h2
      · exact h2.endPreview
  · exact h

/-- A settled part with a closed guard, no sensor block and a day budget that is not used up has nothing that keeps the lamps
off. -/
theorem not_blocked (hs : s.doseSound) (hp : s.powered = true) (hset : s.settled = true) (hd : s.di.sensorDark = false)
    {p : Profile} {n : Nat} (hr : s.doseRefusal p n = none) : ¬ s.lampsBlocked := by
  unfold State.settled at hset
  simp only [Bool.and_eq_true, Bool.or_eq_true, beq_iff_eq, Bool.not_eq_true'] at hset
  rintro (x | x | x | x | x)
  · rw [hp] at x
    exact Bool.noConfusion x
  · rw [hset.2] at x
    exact Bool.noConfusion x
  · rw [x] at hset
    rcases hset.1.1 with y | y <;> exact TcState.noConfusion y
  · rw [hd] at x
    exact Bool.noConfusion x
  · obtain ⟨c, hc, hb⟩ := hs.1 x
    simp [State.doseRefusal, hc, hb] at hr

end Sys2Proof.Machine
end

