-- ==== Sys2Proof/Laws/KeepsTurning.lean ====
section
/-! SUPPORT. What dismounts and TC's operations keep of the invariants (02, 08). -/

set_option Elab.async false

namespace Sys2Proof.Machine

variable {s0 s1 s t : State}

/-- What holds in the dark: with every bank dark only the bounds, the counters and the doses are to be shown. -/
theorem Keeps.ofDark (hb : s0.bounded → t.bounded) (hr : s0.cc.ringSound → t.cc.ringSound)
    (ht : s0.sau.tableSound → t.sau.tableSound) (hc : s0.countersHold → t.countersHold)
    (hs : s0.doseSound → t.doseSound) (hp : t.powered = s0.powered) (hd : t.dark) : Keeps s0 t :=
  ⟨hb, hr, ht, hc, hs, hp, fun _ _ b hl => by
    rw [hd b] at hl
    exact Bool.noConfusion hl⟩

/-- An event that begins by keeping the lamps off, and ends in the dark. -/
theorem Keeps.thenDark (h : Keeps s0 s) (hb : s.bounded → s1.bounded) (hc : s.countersHold → s1.countersHold)
    (hs : s.doseSound → s1.doseSound) (hp : s1.powered = s.powered) (k : Keeps s1 t) (hd : t.dark)
    (hr : s1.cc = s.cc := by rfl) (ht : s1.sau = s.sau := by rfl) : Keeps s0 t :=
  .ofDark (fun x => k.bounds (hb (h.bounds x))) (fun x => k.ring (hr.symm ▸ h.ring x))
    (fun x => k.table (ht.symm ▸ h.table x)) (fun x => k.counts (hc (h.counts x)))
    (fun x => k.sound (hs (h.sound x))) (k.power.trans (hp.trans h.power)) hd

theorem Keeps.withTc (h : Keeps s0 s) {f : Tc → Tc} (hf : (f s.tc).state = .safeStop → s.tc.state = .safeStop := by
      first | exact id | exact fun h => TcState.noConfusion h | simp | (intro h; simp at h; done)) : Keeps s0 (s.withTc f) :=
  h.same (htc := hf)

/-! ### Dismounts (08) -/

theorem appendCarry_carry (s : State) (e : CarryEntry) :
    (s.appendCarry e).di.carry = (if carrySize ≤ s.di.carry.length then s.di.carry.drop 1 else s.di.carry) ++ [e] := by
  unfold State.appendCarry
  split
  · rename_i h
    simp [h, carrySize]
  · rename_i x l h
    split
    · rename_i hl
      simp only [h, List.drop_succ_cons, List.drop_zero]
    · rename_i hl
      rfl

section fields
variable (s : State) (e : CarryEntry)
@[simp] theorem appendCarry_now : (s.appendCarry e).now = s.now := by
  unfold State.appendCarry
  split
  · rfl
  · split <;> simp
@[simp] theorem appendCarry_powered : (s.appendCarry e).powered = s.powered := by
  unfold State.appendCarry
  split
  · rfl
  · split <;> simp
@[simp] theorem appendCarry_start : (s.appendCarry e).start = s.start := by
  unfold State.appendCarry
  split
  · rfl
  · split <;> simp
@[simp] theorem appendCarry_pins : (s.appendCarry e).pins = s.pins := by
  unfold State.appendCarry
  split
  · rfl
  · split <;> simp
@[simp] theorem appendCarry_set : (s.appendCarry e).set = s.set := by
  unfold State.appendCarry
  split
  · rfl
  · split <;> simp
@[simp] theorem appendCarry_sau : (s.appendCarry e).sau = s.sau := by
  unfold State.appendCarry
  split
  · rfl
  · split <;> simp
@[simp] theorem appendCarry_tc : (s.appendCarry e).tc = s.tc := by
  unfold State.appendCarry
  split
  · rfl
  · split <;> simp
@[simp] theorem appendCarry_lc : (s.appendCarry e).lc = s.lc := by
  unfold State.appendCarry
  split
  · rfl
  · split <;> simp
@[simp] theorem appendCarry_cc : (s.appendCarry e).cc = s.cc := by
  unfold State.appendCarry
  split
  · rfl
  · split <;> simp
@[simp] theorem appendCarry_rc : (s.appendCarry e).rc = s.rc := by
  unfold State.appendCarry
  split
  · rfl
  · split <;> simp
@[simp] theorem appendCarry_ps : (s.appendCarry e).ps = s.ps := by
  unfold State.appendCarry
  split
  · rfl
  · split <;> simp
@[simp] theorem appendCarry_ss : (s.appendCarry e).ss = s.ss := by
  unfold State.appendCarry
  split
  · rfl
  · split <;> simp
@[simp] theorem appendCarry_pending : (s.appendCarry e).pending = s.pending := by
  unfold State.appendCarry
  split
  · rfl
  · split <;> simp
@[simp] theorem appendCarry_rate : (s.appendCarry e).lk.rate = s.lk.rate := by
  unfold State.appendCarry
  split
  · rfl
  · split <;> simp
@[simp] theorem appendCarry_inHand : (s.appendCarry e).lk.inHand = s.lk.inHand := by
  unfold State.appendCarry
  split
  · rfl
  · split <;> simp
@[simp] theorem appendCarry_resetTaken : (s.appendCarry e).lk.resetTaken = s.lk.resetTaken := by
  unfold State.appendCarry
  split
  · rfl
  · split <;> simp
@[simp] theorem appendCarry_queue : (s.appendCarry e).lk.queue = s.lk.queue := by
  unfold State.appendCarry
  split
  · rfl
  · split <;> simp
@[simp] theorem appendCarry_slot : (s.appendCarry e).lk.slot = s.lk.slot := by
  unfold State.appendCarry
  split
  · rfl
  · split <;> simp
@[simp] theorem appendCarry_sending : (s.appendCarry e).lk.sending = s.lk.sending := by
  unfold State.appendCarry
  split
  · rfl
  · split <;> simp
end fields

/-- DI's part but for the carry table is as it was. -/
theorem appendCarry_di (s : State) (e : CarryEntry) :
    (s.appendCarry e).di = { s.di with carry := (s.appendCarry e).di.carry } := by
  unfold State.appendCarry
  split
  · rfl
  · split <;> simp

theorem Keeps.appendCarry (h : Keeps s0 s) {e : CarryEntry} (he : s0.doseSound → e.dose ≤ 4294967295) :
    Keeps s0 (s.appendCarry e) := by
  have hfb : Keeps s0 { (s.appendCarry e) with di := s.di } := by
    unfold State.appendCarry
    split
    · exact h
    · split
      · exact Keeps.same (h.report (c := .carryEvict)) (hdi := by simp)
      · exact h
  refine ⟨fun h0 => ?_, fun h0 => by simpa using h.ring h0, fun h0 => by simpa using h.table h0, hfb.counts, fun h0 => ?_,
    by simpa using h.power, fun hp h0 b hl => ?_⟩
  · have := hfb.bounds h0
    refine ⟨this.1, ?_, by rw [appendCarry_di]; exact this.2.2.1, this.2.2.2⟩
    have h2 : s.di.carry.length ≤ 16 := this.2.1
    rw [appendCarry_carry]
    split
    · rw [List.length_append, List.length_drop]
      simp only [List.length_singleton]
      omega
    · rename_i hn
      have : s.di.carry.length < 16 := Nat.lt_of_not_le hn
      rw [List.length_append]
      simp only [List.length_singleton]
      omega
  · have hs := h.sound h0
    unfold State.doseSound State.limits? at *
    rw [appendCarry_di]
    simp only [appendCarry_lc, appendCarry_sau]
    refine ⟨hs.1, hs.2.1, hs.2.2.1, fun x hx => ?_⟩
    rw [appendCarry_carry] at hx
    rcases List.mem_append.mp hx with hx | hx
    · split at hx
      · exact hs.2.2.2 x (List.mem_of_mem_drop hx)
      · exact hs.2.2.2 x hx
    · rw [List.mem_singleton.mp hx]
      exact he h0
  · have := h.lit hp h0 b (by simpa using hl)
    unfold State.lampsBlocked at *
    rw [appendCarry_di]
    simpa using this

theorem Keeps.handOffDose (h : Keeps s0 s) {v : Volume} : Keeps s0 (s.handOffDose v) := by
  have ha := h.appendCarry (e := { mark := v.mark, dose := s.di.dayDose, time := s.clock, cls := v.cls })
    fun h0 => (h.sound h0).2.2.1
  unfold State.handOffDose
  refine ⟨ha.bounds, ha.ring, ha.table, ha.counts, fun h0 => ?_, ha.power, fun hp h0 b hl => ?_⟩
  · have hs := ha.sound h0
    exact ⟨fun x => Bool.noConfusion x, hs.2.1, Nat.zero_le _, hs.2.2.2⟩
  · rcases ha.lit hp h0 b hl with ⟨h1, h2⟩ | h1
    · refine .inl ⟨h1, fun x => h2 ?_⟩
      rcases x with x | x | x | x | x
      · exact .inl x
      · exact .inr (.inl x)
      · exact .inr (.inr (.inl x))
      · exact .inr (.inr (.inr (.inl x)))
      · exact Bool.noConfusion x
    · refine .inr fun x => h1 ?_
      rcases x with x | x | x | x | x
      · exact .inl x
      · exact .inr (.inl x)
      · exact .inr (.inr (.inl x))
      · exact .inr (.inr (.inr (.inl x)))
      · exact Bool.noConfusion x

/-- An operation on SAU, TC and RC of a volume that is not EXHAUSTED. -/
theorem Keeps.unexhausted (h : Keeps s0 s) (hx : s.di.exhausted = false) {a : Sau} {f : Tc} {r : Rc}
    (hf : f.state = .safeStop → s.tc.state = .safeStop) (ha : a.volume = none) :
    Keeps s0 { s with sau := a, tc := f, rc := r } := by
  refine ⟨h.bounds, h.ring, fun _ v hv => (by simp [ha] at hv), h.counts, fun h0 => ?_, h.power, fun hp h0 b hl => ?_⟩
  · have hs := h.sound h0
    exact ⟨fun x => by rw [hx] at x; exact Bool.noConfusion x, hs.2⟩
  · have himp : State.lampsBlocked { s with sau := a, tc := f, rc := r } → s.lampsBlocked := by
      rintro (x | x | x | x | x)
      · exact .inl x
      · exact .inr (.inl x)
      · exact .inr (.inr (.inl (hf x)))
      · exact .inr (.inr (.inr (.inl x)))
      · exact .inr (.inr (.inr (.inr x)))
    rcases h.lit hp h0 b hl with ⟨h1, h2⟩ | h1
    · exact .inl ⟨h1, fun x => h2 (himp x)⟩
    · exact .inr fun x => h1 (himp x)

theorem forceSides_limits (s : State) (v : Volume) : (s.forceSides v).limits? = s.limits? := rfl

theorem Keeps.forceSides (h : Keeps s0 s) {v : Volume} : Keeps s0 (s.forceSides v) := by
  have h1 : Keeps s0 (s.orphan v.mountNo) := h.orphan
  refine h1.frame (Nat.le_refl _) rfl (Nat.le_refl _) (fun _ => ⟨rfl, rfl⟩) rfl rfl rfl rfl rfl id rfl rfl rfl rfl
    (htb := fun x v hv => ?_)
  simp only [State.forceSides, unholdAll, List.length_map]
  exact x v hv

theorem dismounted_state (c : TallyCause) (x : Tc) : (x.dismounted c).state = .safeStop → x.state = .safeStop := by
  unfold Tc.dismounted
  dsimp only
  split
  · exact id
  · exact fun h => TcState.noConfusion h

theorem Keeps.completeDismount (h : Keeps s0 s) {c : TallyCause} : Keeps s0 (s.completeDismount c) := by
  unfold State.completeDismount
  split
  · exact h
  · rename_i v _
    dsimp only
    have h1 : Keeps s0 (if decide (c ≠ .dismount) = true then s.forceSides v else s) := by
      split
      · exact h.forceSides
      · exact h
    exact h1.handOffDose.unexhausted rfl (dismounted_state c _) rfl

/-! ### TC: ends and beginnings (02) -/

theorem Keeps.tellEnd (h : Keeps s0 s) {k : OpKind} {r : OpResult} : Keeps s0 (s.tellEnd k r) := by
  unfold State.tellEnd
  exact Keeps.same h.notifyWith

@[simp] theorem cleared_state (x : Tc) : x.cleared.state = x.state := rfl

theorem Keeps.finishOp (h : Keeps s0 s) {st : TcState} {r : OpResult} (hst : st = .safeStop → s.tc.state = .safeStop) :
    Keeps s0 (s.finishOp st r) := by
  unfold State.finishOp
  dsimp only
  have h1 : Keeps s0 (s.withTc fun t => { t with state := st }) := h.withTc hst
  exact h1.tellEnd.withTc

theorem Keeps.haltOp (h : Keeps s0 s) {d : Bool} : Keeps s0 (s.haltOp d) := by
  unfold State.haltOp
  dsimp only
  have h1 : Keeps s0 (s.withTc fun t => { t with state := .halted, loweringDue := d }) := h.withTc
  exact h1.tellEnd.withTc

theorem Keeps.recovered (h : Keeps s0 s) {st : TcState} (hst : st ≠ .safeStop) : Keeps s0 (s.recovered st) := by
  unfold State.recovered
  exact (h.withTc (f := fun t => { t with state := st, attention := _ }) fun x => absurd x hst).tellEnd.withTc

theorem seekState_ne (s : State) : s.seekState ≠ .safeStop := by
  unfold State.seekState
  split <;> exact TcState.noConfusion

theorem Keeps.toAttention (h : Keeps s0 s) : Keeps s0 s.toAttention := by
  unfold State.toAttention
  split
  · exact (h.finishOp TcState.noConfusion).withTc
  · exact h.withTc

theorem Keeps.beginRaise (h : Keeps s0 s) {g : RaiseGoal} : Keeps s0 (s.beginRaise g) :=
  h.withTc

theorem Keeps.beginLowering (h : Keeps s0 s) : Keeps s0 s.beginLowering :=
  h.same

theorem Keeps.beginAttempt (h : Keeps s0 s) {a b : Nat} : Keeps s0 (s.beginAttempt a b) :=
  h.same

theorem Keeps.beginLeaf (h : Keeps s0 s) : Keeps s0 s.beginLeaf :=
  h.beginAttempt

theorem Keeps.beginReturn (h : Keeps s0 s) {g : ReturnGoal} : Keeps s0 (s.beginReturn g) :=
  h.withTc

theorem Keeps.releaseBack (h : Keeps s0 s) : Keeps s0 s.releaseBack :=
  h.same

theorem Keeps.haltLift (h : Keeps s0 s) : Keeps s0 s.haltLift :=
  h.releaseBack.withTc.beginReturn

theorem Keeps.exhaustLeaf (h : Keeps s0 s) {c : FaultCode} : Keeps s0 (s.exhaustLeaf c) := by
  unfold State.exhaustLeaf
  exact h.report.withTc.beginReturn

theorem Keeps.retryLeaf (h : Keeps s0 s) {f : Tc → Tc} {c : FaultCode}
    (hf : (f s.tc).state = .safeStop → s.tc.state = .safeStop) : Keeps s0 (s.retryLeaf f c) := by
  unfold State.retryLeaf
  split
  · exact (h.withTc hf).beginAttempt
  · exact h.exhaustLeaf

theorem Keeps.liftReport (h : Keeps s0 s) {r : LeafReport} : Keeps s0 (s.liftReport r) := by
  unfold State.liftReport
  split
  · split
    · exact h.haltLift
    · exact h.withTc
  · split
    · exact h.haltLift
    · exact Keeps.retryLeaf h.withTc id
  · dsimp only
    have h1 := h.releaseBack.report (c := .doubleDetected) (d := [s.tc.nextLeaf, s.tc.attempt])
    split
    · exact h1.haltLift
    · exact h1.retryLeaf id

theorem Keeps.leafReport (h : Keeps s0 s) {r : LeafReport} : Keeps s0 (s.leafReport r) := by
  unfold State.leafReport
  have h1 : Keeps s0 { s with pins := { s.pins with leafSensor := r } } := h.same
  dsimp only
  split
  · exact h1.liftReport
  · split
    · exact h1.withTc
    · exact h1
  · exact h1

theorem Keeps.endCarry (h : Keeps s0 s) : Keeps s0 s.endCarry := by
  unfold State.endCarry
  split
  · exact h.withTc
  · exact h

theorem Keeps.headUp (h : Keeps s0 s) : Keeps s0 s.headUp := by
  unfold State.headUp
  split
  · exact h.releaseBack.beginReturn
  · exact h

theorem Keeps.nextLeafOrFoldout (h : Keeps s0 s) : Keeps s0 s.nextLeafOrFoldout := by
  unfold State.nextLeafOrFoldout
  split
  · exact h.finishOp TcState.noConfusion
  · exact h.beginLeaf

theorem Keeps.dropRemaining (h : Keeps s0 s) : Keeps s0 (s.withTc Tc.dropRemaining) :=
  h.withTc

theorem Keeps.turnReturned (h : Keeps s0 s) : Keeps s0 s.turnReturned := by
  unfold State.turnReturned
  split
  · exact h.finishOp TcState.noConfusion
  · split
    · exact h.dropRemaining.finishOp TcState.noConfusion
    · split
      · exact h.haltOp
      · split
        · exact h.nextLeafOrFoldout
        · split
          · exact h.beginLowering
          · exact h.finishOp TcState.noConfusion

/-! ### Homing -/

theorem Keeps.endStart (h : Keeps s0 s) {o : HomingOutcome} : Keeps s0 (s.endStart o) := by
  unfold State.endStart
  dsimp only
  have h1 : Keeps s0 { s with start := { s.start with phase := .done, homing := some o } } := h.same
  exact h1.notifyWith

theorem Keeps.tellHoming (h : Keeps s0 s) {o : HomingOutcome} {r : OpResult} : Keeps s0 (s.tellHoming o r) := by
  unfold State.tellHoming
  split
  · exact h.endStart
  · exact h.tellEnd

theorem Keeps.homingDone (h : Keeps s0 s) : Keeps s0 s.homingDone := by
  unfold State.homingDone
  dsimp only
  refine Keeps.withTc (Keeps.tellHoming (h.withTc fun x => ?_))
  dsimp only at x
  split at x
  · exact TcState.noConfusion x
  · exact TcState.noConfusion x
  · exact absurd x (seekState_ne s)

theorem Keeps.homingFailed (h : Keeps s0 s) {p : HomePart} : Keeps s0 (s.homingFailed p) := by
  unfold State.homingFailed
  exact h.report.withTc.tellHoming.withTc

theorem Keeps.homeArm (h : Keeps s0 s) : Keeps s0 s.homeArm := by
  unfold State.homeArm
  dsimp only
  split
  · exact h.withTc.homingDone
  · exact h.withTc

theorem Keeps.beginHoming (h : Keeps s0 s) : Keeps s0 s.beginHoming := by
  unfold State.beginHoming
  dsimp only
  split
  · exact h.withTc.homeArm
  · exact h.withTc

theorem Keeps.homeFor (h : Keeps s0 s) {c : HomeCause} {b : Bool} : Keeps s0 (s.homeFor c b) :=
  h.withTc.beginHoming

theorem Keeps.completeResetDismount (h : Keeps s0 s) : Keeps s0 s.completeResetDismount :=
  h.completeDismount.withTc

/-! ### The arm at park, and the platen up -/

theorem restState_ne (s : State) : s.restState ≠ .safeStop := by
  unfold State.restState
  split <;> exact TcState.noConfusion

theorem Keeps.recoveredHalted (h : Keeps s0 s) : Keeps s0 s.recoveredHalted := by
  unfold State.recoveredHalted
  have h1 := h.recovered (st := .halted) TcState.noConfusion
  dsimp only
  split
  · exact h1.dropRemaining.finishOp fun x => absurd x (restState_ne _)
  · exact h1

theorem Keeps.recoveryReturned (h : Keeps s0 s) : Keeps s0 s.recoveryReturned := by
  unfold State.recoveryReturned
  split
  · exact (h.recovered (seekState_ne s)).withTc
  · exact (h.withTc (f := fun t => { t with leafInHand := false, loweringDue := _ })).recoveredHalted

theorem Keeps.returned (h : Keeps s0 s) : Keeps s0 s.returned := by
  unfold State.returned
  split
  · exact h.completeResetDismount.homeFor
  · split
    · exact h.recoveryReturned
    · exact h.toAttention
    · exact h.turnReturned

theorem Keeps.parkMade (h : Keeps s0 s) : Keeps s0 s.parkMade := by
  unfold State.parkMade
  have h1 : Keeps s0 { s with pins := { s.pins with armPark := true } } := h.same
  dsimp only
  split
  · exact h1.returned
  · split
    · exact h1.releaseBack.withTc.turnReturned
    · exact h1
  · split
    · exact h1.homingDone
    · exact h1
  · exact h1

theorem Keeps.dismountRaised (h : Keeps s0 s) {f : Bool} : Keeps s0 (s.dismountRaised f) := by
  unfold State.dismountRaised
  exact h.completeDismount.tellEnd.withTc

theorem Keeps.recoveryRaised (h : Keeps s0 s) : Keeps s0 s.recoveryRaised := by
  unfold State.recoveryRaised
  split
  · exact (h.recovered TcState.noConfusion).withTc
  · exact h.recoveredHalted

theorem Keeps.raised (h : Keeps s0 s) : Keeps s0 s.raised := by
  unfold State.raised
  split
  · exact h.toAttention
  · exact h.dismountRaised
  · exact h.recoveryRaised
  · split
    · exact h.dropRemaining.finishOp TcState.noConfusion
    · exact h.withTc
  · split
    · exact h.dropRemaining.finishOp TcState.noConfusion
    · split
      · exact h.haltOp
      · exact h.beginLeaf
  · split
    · exact h.dropRemaining.finishOp TcState.noConfusion
    · split
      · exact h.haltOp
      · exact h.finishOp TcState.noConfusion
  all_goals
    split <;> exact h.finishOp TcState.noConfusion

theorem Keeps.upMade (h : Keeps s0 s) : Keeps s0 s.upMade := by
  unfold State.upMade
  have h1 : Keeps s0 { s with pins := { s.pins with platenUp := true }, tc := { s.tc with atForce := false } } := h.same
  dsimp only
  split
  · exact h1.raised
  · split
    · exact h1.homeArm
    · exact h1
  · exact h1

theorem Keeps.raiseNow (h : Keeps s0 s) {g : RaiseGoal} : Keeps s0 (s.raiseNow g) := by
  unfold State.raiseNow
  dsimp only
  split
  · exact h.beginRaise.raised
  · exact h.beginRaise

/-! ### Faults, dwell and the deferred raise -/

theorem Keeps.faultRaise (h : Keeps s0 s) {c : FaultCode} : Keeps s0 (s.faultRaise c) := by
  unfold State.faultRaise
  exact h.withTc.raiseNow

theorem Keeps.overforce (h : Keeps s0 s) : Keeps s0 s.overforce := by
  unfold State.overforce
  split
  · exact h
  · exact h
  iterate 4
    split
    · exact h.faultRaise.completeResetDismount
    · exact h.faultRaise
  · split
    · exact h
    · exact h
    · exact h.faultRaise
  iterate 2
    split
    · exact h.withTc
    · exact h.endPreview.faultRaise
  all_goals exact h.faultRaise

theorem Keeps.lowered (h : Keeps s0 s) : Keeps s0 s.lowered := by
  unfold State.lowered
  dsimp only
  split
  · exact h.withTc.finishOp TcState.noConfusion
  · split
    · exact h.withTc.haltOp
    · exact h.withTc.finishOp TcState.noConfusion

theorem Keeps.forceRead (h : Keeps s0 s) {v : Nat} : Keeps s0 (s.forceRead v) := by
  unfold State.forceRead
  dsimp only
  split
  · exact h.withTc.report.overforce
  · split
    · exact h.withTc.lowered
    · exact h.withTc

theorem Keeps.phaseTimeout (h : Keeps s0 s) : Keeps s0 s.phaseTimeout := by
  unfold State.phaseTimeout
  dsimp only
  have h1 := (h.report (c := .strokeTimeout)
    (d := [s.tc.state.code, s.tc.j, s.tc.directionCode, s.tc.attempt, s.tc.air, s.tc.force])).withTc
    (f := fun t => { t with attention := some (t.attentionFor .strokeTimeout) })
  split
  · exact (h1.finishOp TcState.noConfusion).beginRaise
  iterate 4
    split
    · exact h1.toAttention.completeResetDismount
    · exact h1.toAttention
  exact h1.toAttention

theorem Keeps.dwellRaise (h : Keeps s0 s) : Keeps s0 s.dwellRaise := by
  unfold State.dwellRaise
  exact h.endPreview.withTc.beginRaise.notify

theorem Keeps.dwellExpired (h : Keeps s0 s) : Keeps s0 s.dwellExpired := by
  unfold State.dwellExpired
  split
  · split
    · exact h.withTc
    · exact h.dwellRaise
  · exact h.beginRaise.notify
  · exact h

theorem Keeps.deferredRaise (h : Keeps s0 s) : Keeps s0 s.deferredRaise := by
  unfold State.deferredRaise
  split
  · exact h
  · exact h.dwellRaise
  · dsimp only
    split
    · exact h.endPreview.faultRaise.notify
    · exact h.endPreview.faultRaise

/-! ### TC's requests -/

theorem Keeps.beginTurn (h : Keeps s0 s) {n : Int} {c b : Bool} : Keeps s0 (s.beginTurn n c b) := by
  unfold State.beginTurn
  dsimp only
  split
  · exact h.endPreview.withTc.finishOp id
  · split
    · exact h.endPreview.withTc.beginRaise
    · exact h.endPreview.withTc.beginLeaf

theorem Keeps.decideTurn (h : Keeps s0 s) {n : Int} {c : Option Bool} {b : Bool} :
    Keeps s0 (decideTurn n c b s).1 := by
  unfold Machine.decideTurn
  split
  · exact h
  · exact h.beginTurn

theorem Keeps.decideClamp (h : Keeps s0 s) {b : Bool} : Keeps s0 (decideClamp b s).1 := by
  unfold Machine.decideClamp
  repeat' split
  all_goals first | exact h | exact h.endPreview.withTc.beginLowering

theorem Keeps.decideUnclamp (h : Keeps s0 s) {b : Bool} : Keeps s0 (decideUnclamp b s).1 := by
  unfold Machine.decideUnclamp
  repeat' split
  all_goals first | exact h | exact h.endPreview.withTc.beginRaise

theorem Keeps.tcHalt (h : Keeps s0 s) : Keeps s0 (tcHalt s).1 := by
  unfold Machine.tcHalt answer
  repeat' split
  · exact h
  · exact Keeps.withTc h (f := fun t => { t with haltMark := true }) id
  · exact h

theorem Keeps.restHalted (h : Keeps s0 s) : Keeps s0 s.restHalted :=
  h.withTc fun x => absurd x (restState_ne s)

theorem Keeps.tcResume (h : Keeps s0 s) : Keeps s0 (tcResume s).1 := by
  unfold Machine.tcResume answer refuse
  split
  · exact h
  · split
    · split
      · dsimp only
        split
        · exact h.beginRaise
        · exact h.finishOp TcState.noConfusion
      · dsimp only
        split
        · exact h.beginRaise
        · exact h.beginLeaf
    · split
      · exact h.beginLowering
      · exact h.restHalted

theorem Keeps.runEnded (h : Keeps s0 s) : Keeps s0 s.runEnded := by
  unfold State.runEnded
  dsimp only
  repeat' split
  all_goals first
    | exact h
    | exact h.withTc
    | exact h.dropRemaining.finishOp fun x => absurd x (restState_ne _)

theorem Keeps.decideDeclarePending (h : Keeps s0 s) : Keeps s0 (decideDeclarePending s).1 := by
  unfold Machine.decideDeclarePending
  repeat' split
  all_goals first | exact h | exact h.endPreview.withTc

theorem Keeps.decideDeclare (h : Keeps s0 s) {j : Nat} : Keeps s0 (decideDeclare j s).1 := by
  unfold Machine.decideDeclare answer
  repeat' split
  all_goals first | exact h | skip
  dsimp only
  refine h.withTc fun x => ?_
  split at x
  · exact x
  · exact TcState.noConfusion x

theorem confirm_keeps (h : Keeps s0 s) {t : State} (ht : s.confirm? = some t) : Keeps s0 t := by
  unfold State.confirm? at ht
  split at ht
  · cases ht
    exact h.withTc
  · split at ht
    · cases ht
      exact h.withTc
    · cases ht
  · cases ht

theorem Keeps.recoverReturn (h : Keeps s0 s) {g : RecoverGoal} : Keeps s0 (s.recoverReturn g) :=
  h.releaseBack.withTc.beginReturn

theorem Keeps.recoverRaise (h : Keeps s0 s) {g : RecoverGoal} : Keeps s0 (s.recoverRaise g) :=
  h.withTc.raiseNow

theorem Keeps.recoverStroke (h : Keeps s0 s) {st : TcState} (hst : st ≠ .safeStop) : Keeps s0 (s.recoverStroke st) :=
  h.withTc fun x => absurd x hst

theorem Keeps.resolveStop (h : Keeps s0 s) : Keeps s0 s.resolveStop := by
  unfold State.resolveStop
  repeat' split
  all_goals first
    | exact h.homeFor
    | exact h.recoverReturn
    | exact h.withTc.recoverReturn
    | exact h.dropRemaining.recoverReturn
    | exact h.recoverStroke TcState.noConfusion
    | exact h.recoverRaise
    | exact h.withTc.recoverRaise
    | exact h.withTc.raiseNow
    | exact h.recovered TcState.noConfusion

theorem Keeps.decideRecover (h : Keeps s0 s) : Keeps s0 (decideRecover s).1 := by
  unfold Machine.decideRecover
  repeat' split
  all_goals first | exact h | exact h.resolveStop | exact h.withTc.homeFor

end Sys2Proof.Machine
end

