-- ==== Sys2Proof/Laws/KeepsCapture.lean ====
section
/-! SUPPORT. What LC's and CC's shared operations change (03, 05), and what they, DI, the selector, RC and PS keep of the
invariants (04, 05, 07). -/

set_option Elab.async false

namespace Sys2Proof.Machine

variable {s0 s1 s t : State}

/-! ### Dark (03) -/

/-- Lit time ending changes DI's two counts alone. -/
theorem litTimeEnded_frame (s : State) (w : Bool) :
    s.litTimeEnded w
      = { s with di := { s.di with satCount := (s.litTimeEnded w).di.satCount
                                   darkCount := (s.litTimeEnded w).di.darkCount } } := by
  unfold State.litTimeEnded
  split <;> rfl

/-- Putting every bank out changes the banks and DI's two counts alone. -/
theorem banksDark_frame (s : State) :
    s.banksDark
      = { s with lc := { s.lc with banks := s.lc.banks.map BankRec.dark }
                 di := { s.di with satCount := s.banksDark.di.satCount, darkCount := s.banksDark.di.darkCount } } := by
  unfold State.banksDark
  dsimp only
  rw [litTimeEnded_frame]

/-- LC's part with every bank out. -/
theorem banksDark_lcOf (s : State) : s.banksDark.lc = { s.lc with banks := s.lc.banks.map BankRec.dark } := by
  rw [banksDark_frame]

/-- The end of a window leaves the preview's record to the caller. -/
theorem endWindow_previewOf (s : State) : s.endWindow.lc.preview = s.lc.preview := by
  unfold State.endWindow
  split
  · rw [banksDark_lcOf]
  · dsimp only
    rw [banksDark_lcOf]
    split
    · unfold State.learn
      split <;> rfl
    · rfl

/-- The end of a preview leaves none lit. -/
theorem endPreview_previewOf (s : State) (r : PreviewEnd) : (s.endPreview r).lc.preview = none := by
  unfold State.endPreview
  split
  · assumption
  · rfl

/-- The end of a window changes LC's part and DI's two counts alone. -/
theorem endWindow_frame (s : State) :
    s.endWindow
      = { s with lc := s.endWindow.lc
                 di := { s.di with satCount := s.endWindow.di.satCount, darkCount := s.endWindow.di.darkCount } } := by
  unfold State.endWindow
  split
  · rw [banksDark_frame]
  · dsimp only
    rw [banksDark_frame]
    split
    · unfold State.learn
      split <;> rfl
    · rfl

/-- The end of a preview changes LC's part and DI's two counts alone. -/
theorem endPreview_frame (s : State) (r : PreviewEnd) :
    s.endPreview r
      = { s with lc := (s.endPreview r).lc
                 di := { s.di with satCount := (s.endPreview r).di.satCount
                                   darkCount := (s.endPreview r).di.darkCount } } := by
  unfold State.endPreview
  split
  · rfl
  · rw [endWindow_frame]

/-- With no preview lit there is none to end. -/
theorem endPreview_none {r : PreviewEnd} (h : s.lc.preview = none) : s.endPreview r = s := by
  simp [State.endPreview, h]

section fields
variable (s : State) (r : PreviewEnd)
@[simp] theorem banksDark_now : s.banksDark.now = s.now := by
  rw [banksDark_frame]
@[simp] theorem banksDark_powered : s.banksDark.powered = s.powered := by
  rw [banksDark_frame]
@[simp] theorem banksDark_start : s.banksDark.start = s.start := by
  rw [banksDark_frame]
@[simp] theorem banksDark_pins : s.banksDark.pins = s.pins := by
  rw [banksDark_frame]
@[simp] theorem banksDark_set : s.banksDark.set = s.set := by
  rw [banksDark_frame]
@[simp] theorem banksDark_sau : s.banksDark.sau = s.sau := by
  rw [banksDark_frame]
@[simp] theorem banksDark_tc : s.banksDark.tc = s.tc := by
  rw [banksDark_frame]
@[simp] theorem banksDark_cc : s.banksDark.cc = s.cc := by
  rw [banksDark_frame]
@[simp] theorem banksDark_rc : s.banksDark.rc = s.rc := by
  rw [banksDark_frame]
@[simp] theorem banksDark_ps : s.banksDark.ps = s.ps := by
  rw [banksDark_frame]
@[simp] theorem banksDark_fb : s.banksDark.fb = s.fb := by
  rw [banksDark_frame]
@[simp] theorem banksDark_lk : s.banksDark.lk = s.lk := by
  rw [banksDark_frame]
@[simp] theorem banksDark_ss : s.banksDark.ss = s.ss := by
  rw [banksDark_frame]
@[simp] theorem banksDark_pending : s.banksDark.pending = s.pending := by
  rw [banksDark_frame]
@[simp] theorem banksDark_raw : s.banksDark.di.raw = s.di.raw := by
  rw [banksDark_frame]
@[simp] theorem banksDark_lux : s.banksDark.di.lux = s.di.lux := by
  rw [banksDark_frame]
@[simp] theorem banksDark_lastRead : s.banksDark.di.lastRead = s.di.lastRead := by
  rw [banksDark_frame]
@[simp] theorem banksDark_lastAmbient : s.banksDark.di.lastAmbient = s.di.lastAmbient := by
  rw [banksDark_frame]
@[simp] theorem banksDark_remainder : s.banksDark.di.remainder = s.di.remainder := by
  rw [banksDark_frame]
@[simp] theorem banksDark_dayDose : s.banksDark.di.dayDose = s.di.dayDose := by
  rw [banksDark_frame]
@[simp] theorem banksDark_carriedIn : s.banksDark.di.carriedIn = s.di.carriedIn := by
  rw [banksDark_frame]
@[simp] theorem banksDark_exhausted : s.banksDark.di.exhausted = s.di.exhausted := by
  rw [banksDark_frame]
@[simp] theorem banksDark_warned : s.banksDark.di.warned = s.di.warned := by
  rw [banksDark_frame]
@[simp] theorem banksDark_sensorDark : s.banksDark.di.sensorDark = s.di.sensorDark := by
  rw [banksDark_frame]
@[simp] theorem banksDark_dayStart : s.banksDark.di.dayStart = s.di.dayStart := by
  rw [banksDark_frame]
@[simp] theorem banksDark_alarm : s.banksDark.di.alarm = s.di.alarm := by
  rw [banksDark_frame]
@[simp] theorem banksDark_carry : s.banksDark.di.carry = s.di.carry := by
  rw [banksDark_frame]
@[simp] theorem endWindow_now : s.endWindow.now = s.now := by
  rw [endWindow_frame]
@[simp] theorem endWindow_powered : s.endWindow.powered = s.powered := by
  rw [endWindow_frame]
@[simp] theorem endWindow_start : s.endWindow.start = s.start := by
  rw [endWindow_frame]
@[simp] theorem endWindow_pins : s.endWindow.pins = s.pins := by
  rw [endWindow_frame]
@[simp] theorem endWindow_set : s.endWindow.set = s.set := by
  rw [endWindow_frame]
@[simp] theorem endWindow_sau : s.endWindow.sau = s.sau := by
  rw [endWindow_frame]
@[simp] theorem endWindow_tc : s.endWindow.tc = s.tc := by
  rw [endWindow_frame]
@[simp] theorem endWindow_cc : s.endWindow.cc = s.cc := by
  rw [endWindow_frame]
@[simp] theorem endWindow_rc : s.endWindow.rc = s.rc := by
  rw [endWindow_frame]
@[simp] theorem endWindow_ps : s.endWindow.ps = s.ps := by
  rw [endWindow_frame]
@[simp] theorem endWindow_fb : s.endWindow.fb = s.fb := by
  rw [endWindow_frame]
@[simp] theorem endWindow_lk : s.endWindow.lk = s.lk := by
  rw [endWindow_frame]
@[simp] theorem endWindow_ss : s.endWindow.ss = s.ss := by
  rw [endWindow_frame]
@[simp] theorem endWindow_pending : s.endWindow.pending = s.pending := by
  rw [endWindow_frame]
@[simp] theorem endWindow_raw : s.endWindow.di.raw = s.di.raw := by
  rw [endWindow_frame]
@[simp] theorem endWindow_lux : s.endWindow.di.lux = s.di.lux := by
  rw [endWindow_frame]
@[simp] theorem endWindow_lastRead : s.endWindow.di.lastRead = s.di.lastRead := by
  rw [endWindow_frame]
@[simp] theorem endWindow_lastAmbient : s.endWindow.di.lastAmbient = s.di.lastAmbient := by
  rw [endWindow_frame]
@[simp] theorem endWindow_remainder : s.endWindow.di.remainder = s.di.remainder := by
  rw [endWindow_frame]
@[simp] theorem endWindow_dayDose : s.endWindow.di.dayDose = s.di.dayDose := by
  rw [endWindow_frame]
@[simp] theorem endWindow_carriedIn : s.endWindow.di.carriedIn = s.di.carriedIn := by
  rw [endWindow_frame]
@[simp] theorem endWindow_exhausted : s.endWindow.di.exhausted = s.di.exhausted := by
  rw [endWindow_frame]
@[simp] theorem endWindow_warned : s.endWindow.di.warned = s.di.warned := by
  rw [endWindow_frame]
@[simp] theorem endWindow_sensorDark : s.endWindow.di.sensorDark = s.di.sensorDark := by
  rw [endWindow_frame]
@[simp] theorem endWindow_dayStart : s.endWindow.di.dayStart = s.di.dayStart := by
  rw [endWindow_frame]
@[simp] theorem endWindow_alarm : s.endWindow.di.alarm = s.di.alarm := by
  rw [endWindow_frame]
@[simp] theorem endWindow_carry : s.endWindow.di.carry = s.di.carry := by
  rw [endWindow_frame]
@[simp] theorem endPreview_now : (s.endPreview r).now = s.now := by
  rw [endPreview_frame]
@[simp] theorem endPreview_powered : (s.endPreview r).powered = s.powered := by
  rw [endPreview_frame]
@[simp] theorem endPreview_start : (s.endPreview r).start = s.start := by
  rw [endPreview_frame]
@[simp] theorem endPreview_pins : (s.endPreview r).pins = s.pins := by
  rw [endPreview_frame]
@[simp] theorem endPreview_set : (s.endPreview r).set = s.set := by
  rw [endPreview_frame]
@[simp] theorem endPreview_sau : (s.endPreview r).sau = s.sau := by
  rw [endPreview_frame]
@[simp] theorem endPreview_tc : (s.endPreview r).tc = s.tc := by
  rw [endPreview_frame]
@[simp] theorem endPreview_cc : (s.endPreview r).cc = s.cc := by
  rw [endPreview_frame]
@[simp] theorem endPreview_rc : (s.endPreview r).rc = s.rc := by
  rw [endPreview_frame]
@[simp] theorem endPreview_ps : (s.endPreview r).ps = s.ps := by
  rw [endPreview_frame]
@[simp] theorem endPreview_fb : (s.endPreview r).fb = s.fb := by
  rw [endPreview_frame]
@[simp] theorem endPreview_lk : (s.endPreview r).lk = s.lk := by
  rw [endPreview_frame]
@[simp] theorem endPreview_ss : (s.endPreview r).ss = s.ss := by
  rw [endPreview_frame]
@[simp] theorem endPreview_pending : (s.endPreview r).pending = s.pending := by
  rw [endPreview_frame]
@[simp] theorem endPreview_raw : (s.endPreview r).di.raw = s.di.raw := by
  rw [endPreview_frame]
@[simp] theorem endPreview_lux : (s.endPreview r).di.lux = s.di.lux := by
  rw [endPreview_frame]
@[simp] theorem endPreview_lastRead : (s.endPreview r).di.lastRead = s.di.lastRead := by
  rw [endPreview_frame]
@[simp] theorem endPreview_lastAmbient : (s.endPreview r).di.lastAmbient = s.di.lastAmbient := by
  rw [endPreview_frame]
@[simp] theorem endPreview_remainder : (s.endPreview r).di.remainder = s.di.remainder := by
  rw [endPreview_frame]
@[simp] theorem endPreview_dayDose : (s.endPreview r).di.dayDose = s.di.dayDose := by
  rw [endPreview_frame]
@[simp] theorem endPreview_carriedIn : (s.endPreview r).di.carriedIn = s.di.carriedIn := by
  rw [endPreview_frame]
@[simp] theorem endPreview_exhausted : (s.endPreview r).di.exhausted = s.di.exhausted := by
  rw [endPreview_frame]
@[simp] theorem endPreview_warned : (s.endPreview r).di.warned = s.di.warned := by
  rw [endPreview_frame]
@[simp] theorem endPreview_sensorDark : (s.endPreview r).di.sensorDark = s.di.sensorDark := by
  rw [endPreview_frame]
@[simp] theorem endPreview_dayStart : (s.endPreview r).di.dayStart = s.di.dayStart := by
  rw [endPreview_frame]
@[simp] theorem endPreview_alarm : (s.endPreview r).di.alarm = s.di.alarm := by
  rw [endPreview_frame]
@[simp] theorem endPreview_carry : (s.endPreview r).di.carry = s.di.carry := by
  rw [endPreview_frame]

end fields

theorem endWindow_dark (s : State) : s.endWindow.dark := by
  unfold State.endWindow
  split
  · exact banksDark_dark s
  · exact banksDark_dark _
@[simp] theorem endWindow_window (s : State) : s.endWindow.lc.window = none := by
  unfold State.endWindow
  split
  · rename_i h
    rw [banksDark_frame]
    exact h
  · rfl
@[simp] theorem endPreview_preview (s : State) (r : PreviewEnd) : (s.endPreview r).lc.preview = none := by
  unfold State.endPreview
  split
  · rename_i h
    exact h
  · rfl
@[simp] theorem endPreview_blocked (s : State) (r : PreviewEnd) :
    (s.endPreview r).lampsBlocked ↔ s.lampsBlocked := by
  unfold State.lampsBlocked
  simp


/-! ### LC's requests (03) -/

theorem Keeps.lightPreview (h : Keeps s0 s) {p d : Nat} (hn : s0.powered = true → s0.doseSound → ¬ s.lampsBlocked) :
    Keeps s0 (s.lightPreview p d) :=
  (h.openWindow hn).withLc rfl

theorem previewRefusal_none {p d : Nat} (h : s.previewRefusal p d = none) :
    s.settled = true ∧ s.di.sensorDark = false
      ∧ s.doseRefusal (profileAt s.set.profiles p) (previewSeconds d * 1000) = none := by
  unfold State.previewRefusal at h
  dsimp only at h
  repeat' split at h
  all_goals first | cases h | skip
  rename_i h1 h2 h3 h4 h5 h6 h7
  simp only [Bool.or_eq_true, Bool.not_eq_true', not_or, Bool.not_eq_true, Bool.not_eq_false] at h3 h7
  exact ⟨h3.2, h7, h⟩

theorem Keeps.decidePreview (h : Keeps s0 s) {p d : Nat} : Keeps s0 (decidePreview p d s).1 := by
  unfold Machine.decidePreview
  split
  · exact h
  · rename_i hr
    obtain ⟨h1, h2, h3⟩ := previewRefusal_none hr
    exact h.lightPreview fun hp h0 => not_blocked (h.sound h0) (h.power.trans hp) h1 h2 h3

theorem Keeps.decidePreviewOff (h : Keeps s0 s) : Keeps s0 (decidePreviewOff s).1 := by
  unfold Machine.decidePreviewOff
  split
  · exact h.endPreview
  · exact h

/-- A change of the settings that leaves the thresholds as they are. -/
theorem Keeps.withSet (h : Keeps s0 s) {c : Settings} (hc : c.thresholds = s.set.thresholds) :
    Keeps s0 { s with set := c } :=
  h.frame (Nat.le_refl _) rfl (Nat.le_refl _) (fun _ => ⟨rfl, rfl⟩) hc rfl rfl rfl rfl id rfl rfl rfl rfl

/-- The same, with LC's part but for its banks. -/
theorem Keeps.withSetLc (h : Keeps s0 s) {c : Settings} {l : Lc} (hc : c.thresholds = s.set.thresholds)
    (hl : l.banks = s.lc.banks) : Keeps s0 { s with set := c, lc := l } :=
  Keeps.withLc (h.withSet hc) hl

theorem Keeps.decideProfileLevel (h : Keeps s0 s) {p : Nat} {b : Option LampBank} {a : Option LevelAction} :
    Keeps s0 (decideProfileLevel p b a s).1 := by
  unfold Machine.decideProfileLevel
  split
  · split
    · exact h
    · dsimp only [answer]
      exact h.withSetLc rfl rfl
  · exact h

/-- A change of DI that puts nothing in the lamps' way. -/
theorem Keeps.withDi (h : Keeps s0 s) {d : Di} (hc : d.carry = s.di.carry) (hd : d.dayDose = s.di.dayDose)
    (he : d.exhausted = s.di.exhausted) (hs : d.sensorDark = true → s.di.sensorDark = true)
    (hr : s.di.remainder < 1000 → d.remainder < 1000 := by first | exact id | exact fun _ => Nat.mod_lt _ (by decide)) :
    Keeps s0 { s with di := d } := by
  refine ⟨fun h0 => ?_, h.ring, h.table, h.counts, fun h0 => ?_, h.power, fun hp h0 b hl => ?_⟩
  · have := h.bounds h0
    unfold State.bounded at *
    dsimp only
    rw [hc]
    exact ⟨this.1, this.2.1, hr this.2.2.1, this.2.2.2⟩
  · have := h.sound h0
    unfold State.doseSound at *
    dsimp only
    rw [hc, hd, he]
    exact this
  · have himp : State.lampsBlocked { s with di := d } → s.lampsBlocked := by
      rintro (x | x | x | x | x)
      · exact .inl x
      · exact .inr (.inl x)
      · exact .inr (.inr (.inl x))
      · exact .inr (.inr (.inr (.inl (hs x))))
      · exact .inr (.inr (.inr (.inr (he ▸ x))))
    rcases h.lit hp h0 b hl with ⟨h1, h2⟩ | h1
    · exact .inl ⟨h1, fun x => h2 (himp x)⟩
    · exact .inr fun x => h1 (himp x)

theorem Keeps.decideLampClear (h : Keeps s0 s) {x : Option LampTarget} : Keeps s0 (decideLampClear x s).1 := by
  unfold Machine.decideLampClear
  split
  · exact h
  · exact h.withDi rfl rfl rfl fun x => Bool.noConfusion x
  · refine h.dim (fun b' hb => ?_) (fun b' hf => ?_)
    · rw [PerBank.get_set] at hb
      split at hb
      · rename_i e
        subst e
        exact hb
      · exact hb
    · rw [PerBank.get_set] at hf
      split at hf
      · exact Bool.noConfusion hf
      · exact .inl hf

/-! ### CC (05) -/

theorem Keeps.closeTicket (h : Keeps s0 s) : Keeps s0 s.closeTicket := by
  unfold State.closeTicket
  split
  · exact h
  · dsimp only
    refine Keeps.retestBacklog (Keeps.notify ?_)
    refine h.frame ?_ rfl (Nat.le_refl _) (fun _ => ⟨rfl, rfl⟩) rfl rfl rfl rfl rfl id rfl rfl rfl rfl
      (hrg := ringSound_mapOpen rfl fun _ => rfl)
    simp [mapOpen]

theorem Keeps.closeCapture (h : Keeps s0 s) : Keeps s0 s.closeCapture :=
  h.closeTicket.deferredRaise

theorem Keeps.tryClose (h : Keeps s0 s) : Keeps s0 s.tryClose := by
  unfold State.tryClose
  split
  · exact h.closeCapture
  · exact h

theorem Keeps.lampsOff (h : Keeps s0 s) : Keeps s0 s.lampsOff := by
  unfold State.lampsOff
  apply Keeps.tryClose
  exact h.endWindow.withCc (Nat.le_refl _)

theorem Keeps.tryLampsOff (h : Keeps s0 s) : Keeps s0 s.tryLampsOff := by
  unfold State.tryLampsOff
  split
  · exact h.lampsOff
  · exact h

theorem Keeps.cutCapture (h : Keeps s0 s) {r : SideResult} : Keeps s0 (s.cutCapture r) := by
  unfold State.cutCapture
  dsimp only
  have h1 : Keeps s0 { s.onOpenTicket (Ticket.giveAll r) with cc :=
      { (s.onOpenTicket (Ticket.giveAll r)).cc with cut := some (s.cc.cut.getD r) } } :=
    Keeps.withCc h.onOpenTicket (Nat.le_refl _)
  split
  · exact h
  · exact h1.endWindow.closeCapture
  · exact h1.endWindow.closeCapture
  · exact h1.endWindow
  · split
    · exact h1.tryClose
    · exact h

theorem Keeps.abandonCapture (h : Keeps s0 s) : Keeps s0 s.abandonCapture := by
  unfold State.abandonCapture
  split
  · exact h
  · exact Keeps.withCc h.endWindow.onOpenTicket.closeTicket (Nat.le_refl _)

theorem Keeps.testTarget (h : Keeps s0 s) {k : Ticket} {n : Nat} : Keeps s0 (s.testTarget k n) := by
  unfold State.testTarget
  split
  · exact h
  · dsimp only
    split
    · split
      · exact h.onOpenTicket.report
      · exact h.report
    · split
      · exact h.onOpenTicket
      · exact h

theorem Keeps.trigger (h : Keeps s0 s) {c : SyncSource} : Keeps s0 (s.trigger c) := by
  unfold State.trigger
  split
  · exact h
  · dsimp only
    refine Keeps.testTarget ?_
    refine Keeps.withLc (s := State.onOpenTicket _ _) ?_ rfl
    refine Keeps.onOpenTicket ?_
    exact h.withCc (Nat.le_refl _)

theorem Keeps.exposureElapsed (h : Keeps s0 s) : Keeps s0 s.exposureElapsed := by
  unfold State.exposureElapsed
  apply Keeps.tryLampsOff
  exact h.withCc (Nat.le_refl _)
@[simp] theorem setCam_tickets (c : Cc) (k : Camera) (v : Cam) : (c.setCam k v).tickets = c.tickets := by
  cases k <;> rfl

theorem ringSound_setCam {c : Cc} {k : Camera} {v : Cam} (h : c.ringSound) : (c.setCam k v).ringSound := by
  cases k <;> exact h

theorem giveHalf_serial (k : Camera) (r : SideResult) (t : Ticket) : (t.giveHalf k r).serial = t.serial := by
  cases k <;> rfl

theorem Keeps.camDone (h : Keeps s0 s) {k : Camera} : Keeps s0 (s.camDone k) := by
  unfold State.camDone
  apply Keeps.tryLampsOff
  exact h.withCc (by rw [setCam_tickets]) ringSound_setCam
@[simp] theorem setReady_guard (p : Pins) (k : Camera) (v : Bool) : (p.setReady k v).guardOpen = p.guardOpen := by
  cases k <;> rfl
@[simp] theorem setExposing_guard (p : Pins) (k : Camera) (v : Bool) :
    (p.setExposing k v).guardOpen = p.guardOpen := by
  cases k <;> rfl

theorem Keeps.cameraExposing (h : Keeps s0 s) {k : Camera} {l r : Bool} : Keeps s0 (s.cameraExposing k l r) := by
  unfold State.cameraExposing
  dsimp only
  have h1 : Keeps s0 { s with pins := (s.pins.setReady k r).setExposing k l } := h.same
  split
  · split
    · exact h1.withCc (by rw [setCam_tickets]) ringSound_setCam
    · split
      · exact h1.camDone
      · exact h1
  · exact h1

theorem Keeps.cameraStored (h : Keeps s0 s) {k : Camera} {r : Bool} : Keeps s0 (s.cameraStored k r) := by
  unfold State.cameraStored
  dsimp only
  have h1 : Keeps s0 { s with pins := s.pins.setReady k r } := h.same
  have h2 (c : Cam) : Keeps s0 { s with pins := s.pins.setReady k r, cc := s.cc.setCam k c } :=
    h1.withCc (by rw [setCam_tickets]) ringSound_setCam
  split
  · apply Keeps.tryClose
    refine Keeps.onOpenTicket ?_ (giveHalf_serial k .stored)
    exact h1.withCc (by rw [setCam_tickets, setCam_tickets]) fun x => ringSound_setCam (ringSound_setCam x)
  · exact h2 _

theorem Keeps.frameTimeout (h : Keeps s0 s) {k : Camera} : Keeps s0 (s.frameTimeout k) := by
  unfold State.frameTimeout
  dsimp only
  split
  · exact h.report.onOpenTicket (giveHalf_serial k .noFrame)
  · exact h

theorem Keeps.framePassed (h : Keeps s0 s) : Keeps s0 s.framePassed := by
  unfold State.framePassed
  dsimp only
  have h1 := h.frameTimeout (k := .a) |>.frameTimeout (k := .b)
  split
  · apply Keeps.lampsOff
    exact h1.withCc (Nat.le_refl _)
  · apply Keeps.tryClose
    exact h1.withCc (Nat.le_refl _)

/-! ### CAPTURE (05) -/

theorem captureRefusal_none {p : Nat} {r : Option SideSelection} {sel : Selection} {f : Bool}
    (h : s.captureRefusal p r sel f = none) :
    s.settled = true ∧ s.ticketOpen = false ∧ s.di.sensorDark = false ∧ s.cc.tickets.length < 32
      ∧ s.doseRefusal (profileAt s.set.profiles p) (s.captureTime (profileAt s.set.profiles p)) = none := by
  unfold State.captureRefusal at h
  dsimp only at h
  repeat' split at h
  all_goals first | cases h | skip
  rename_i h1 h2 h3 h4 h5 h6 h7 h8 h9 h10 h11
  simp only [Bool.or_eq_true, Bool.not_eq_true', not_or, Bool.not_eq_true, Bool.not_eq_false] at h3 h4 h8
  exact ⟨h3.1.2, h4, h8, Nat.lt_of_not_le h11, h⟩

theorem Keeps.hold (h : Keeps s0 s) {n : Nat} : Keeps s0 (s.hold n) := by
  unfold State.hold
  split
  · exact h
  · exact h.setSide

theorem setSide_frame (s : State) (n : Nat) (st : SideState) :
    s.setSide n st = { s with sau := { s.sau with openings := (s.setSide n st).sau.openings } } := by
  unfold State.setSide
  split <;> rfl

theorem hold_frame (s : State) (n : Nat) :
    s.hold n = { s with sau := { s.sau with openings := (s.hold n).sau.openings } } := by
  unfold State.hold
  split
  · rfl
  · exact setSide_frame s n .held

theorem hold_blocked (s : State) (n : Nat) : (s.hold n).lampsBlocked ↔ s.lampsBlocked := by
  rw [hold_frame]

theorem serialsRise_append (n : Nat) : ∀ l : List Nat, serialsRise n l → serialsRise (serialAfter n) (l ++ [n])
  | [], _ => ⟨rfl, trivial⟩
  | a :: l, h => by
    refine ⟨?_, serialsRise_append n l h.2⟩
    have := h.1
    cases l <;> exact this

theorem serialAfter_isSerial {n : Nat} (h : isSerial n) : isSerial (serialAfter n) := by
  unfold serialAfter isSerial at *
  split <;> omega

/-- With no ticket OPEN every ticket of a sound ring is CLOSED (06 R127). -/
theorem all_closed (h : s.cc.ringSound) (ho : s.ticketOpen = false) : ∀ t ∈ s.cc.tickets, t.closed = true := by
  intro t ht
  unfold State.ticketOpen State.openTicket? at ho
  cases hl : s.cc.tickets.getLast? with
  | none =>
    rw [List.getLast?_eq_none_iff] at hl
    simp [hl] at ht
  | some u =>
    obtain ⟨l, e⟩ := List.getLast?_eq_some_iff.mp hl
    have hd : s.cc.tickets.dropLast = l := by simp [e]
    rw [e] at ht
    rcases List.mem_append.mp ht with x | x
    · exact h.2.1 t (hd ▸ x)
    · rw [List.mem_singleton.mp x]
      simpa [hl] using ho

/-- The ticket of an accepted CAPTURE takes the next serial, at the newest end of a ring with no ticket OPEN. -/
theorem ringSound_append {c : Cc} {k : Ticket} (h : s.cc.ringSound) (ho : s.ticketOpen = false)
    (ht : c.tickets = s.cc.tickets ++ [k]) (hk : k.serial = s.cc.nextSerial)
    (hn : c.nextSerial = serialAfter s.cc.nextSerial) (hp : c.oldest = s.cc.oldest) : c.ringSound := by
  have hc := all_closed h ho
  obtain ⟨h1, h2, h3, h4, h5⟩ := h
  refine ⟨?_, ?_, hn ▸ serialAfter_isSerial h3, ?_, hp ▸ h5⟩
  · rw [ht, hn, List.map_append, List.map_singleton, hk]
    exact serialsRise_append _ _ h1
  · rw [ht, List.dropLast_concat]
    exact hc
  · rw [ht]
    intro t hm
    rcases List.mem_append.mp hm with x | x
    · exact h4 t x
    · rw [List.mem_singleton.mp x, hk]
      exact h3

/-- A ticket joins a ring that has room and no OPEN ticket. -/
theorem Keeps.addTicket (h : Keeps s0 s) {c : Cc} (hc : s.cc.tickets.length < 32 → c.tickets.length ≤ 32)
    (hl : s.cc.tickets.length < 32) (hr : s.cc.ringSound → c.ringSound) : Keeps s0 { s with cc := c } :=
  ⟨fun h0 => ⟨hc hl, (h.bounds h0).2⟩, fun h0 => hr (h.ring h0), h.table, h.counts, h.sound, h.power, h.lit⟩

theorem endPreview_ticketOpen (s : State) (r : PreviewEnd) : (s.endPreview r).ticketOpen = s.ticketOpen := by
  unfold State.ticketOpen State.openTicket?
  rw [endPreview_cc]

theorem Keeps.openCapture (h : Keeps s0 s) {p : Nat} {sel : Selection} (hl : s.cc.tickets.length < 32)
    (ho : s.ticketOpen = false) (hn : s0.powered = true → s0.doseSound → ¬ s.lampsBlocked) :
    Keeps s0 (s.openCapture p sel) := by
  unfold State.openCapture
  dsimp only
  refine Keeps.openWindow (Keeps.hold (Keeps.hold (Keeps.addTicket h.endPreview (fun _ => ?_) (by simpa using hl)
    fun hr => ?_))) fun hp h0 => ?_
  · rw [endPreview_cc, List.length_append]
    exact hl
  · exact ringSound_append hr ((endPreview_ticketOpen s .cut).trans ho) rfl rfl rfl rfl
  · rw [hold_blocked, hold_blocked]
    have := (endPreview_blocked s .cut).not.mpr (hn hp h0)
    exact this

theorem Keeps.decideCapture (h : Keeps s0 s) {p : Nat} {x : SidesOverride} {f : Bool} :
    Keeps s0 (decideCapture p x f s).1 := by
  unfold Machine.decideCapture
  dsimp only
  split
  · exact h.report
  · exact h
  · rename_i hr
    obtain ⟨h1, ho, h2, h3, h4⟩ := captureRefusal_none hr
    exact h.openCapture h3 ho fun hp h0 => not_blocked (h.sound h0) (h.power.trans hp) h1 h2 h4

end Sys2Proof.Machine
end

