-- ==== Sys2Proof/Laws/KeepsDose.lean ====
section
/-! SUPPORT. What DI, the selector, RC, PS, SAU's requests, the settings and the guard keep of the invariants (01, 02, 04, 05,
07, 08, 09, 11). -/

set_option Elab.async false

namespace Sys2Proof.Machine

variable {s0 s1 s t : State}

/-! ### DI (04) -/

/-- A change of the doses that brings no exhaustion. -/
theorem Keeps.doses (h : Keeps s0 s) (hcc : t.cc.tickets.length ≤ s.cc.tickets.length)
    (hca : t.di.carry.length ≤ s.di.carry.length) (hin : ∀ e ∈ t.di.carry, e ∈ s.di.carry)
    (hqu : t.lk.queue = s.lk.queue) (hfb : t.fb = s.fb) (hth : t.set.thresholds = s.set.thresholds) (hss : t.ss = s.ss)
    (hbk : t.lc.banks = s.lc.banks) (hpw : t.powered = s.powered) (hgu : t.pins.guardOpen = s.pins.guardOpen)
    (htc : t.tc.state = .safeStop → s.tc.state = .safeStop) (hsd : t.di.sensorDark = s.di.sensorDark)
    (hex : t.di.exhausted = true → s.di.exhausted = true)
    (hsound : s.doseSound → (t.di.exhausted = true → ∃ c, t.limits? = some c ∧ c.dayBudget ≤ t.di.dayDose)
      ∧ t.di.dayDose ≤ 4294967295)
    (hr : t.di.remainder = s.di.remainder := by first | rfl | simp)
    (hrg : s.cc.ringSound → t.cc.ringSound := by exact id)
    (htb : s.sau.tableSound → t.sau.tableSound := by exact id) : Keeps s0 t := by
  refine ⟨fun h0 => ?_, fun h0 => hrg (h.ring h0), fun h0 => htb (h.table h0), fun h0 => ?_, fun h0 => ?_,
    hpw.trans h.power, fun hp h0 b hl => ?_⟩
  · have := h.bounds h0
    refine ⟨Nat.le_trans hcc this.1, Nat.le_trans hca this.2.1, ?_, ?_⟩
    · rw [hr]
      exact this.2.2.1
    · rw [hqu]
      exact this.2.2.2
  · have := h.counts h0
    unfold State.countersHold at *
    rw [hfb, hth, hss]
    exact this
  · have hs := h.sound h0
    refine ⟨(hsound hs).1, ?_, (hsound hs).2, fun e he => hs.2.2.2 e (hin e he)⟩
    rw [hbk]
    exact hs.2.1
  · rw [hbk] at hl
    have himp : t.lampsBlocked → s.lampsBlocked := by
      rintro (x | x | x | x | x)
      · exact .inl (hpw ▸ x)
      · exact .inr (.inl (hgu ▸ x))
      · exact .inr (.inr (.inl (htc x)))
      · exact .inr (.inr (.inr (.inl (hsd ▸ x))))
      · exact .inr (.inr (.inr (.inr (hex x))))
    rcases h.lit hp h0 b hl with ⟨h1, h2⟩ | h1
    · exact .inl ⟨h1, fun x => h2 (himp x)⟩
    · exact .inr fun x => h1 (himp x)

theorem Keeps.doseNotice (h : Keeps s0 s) {r : DoseReason} : Keeps s0 (s.doseNotice r) :=
  h.notifyWith

theorem Keeps.testWarning (h : Keeps s0 s) {c : ClassRec} : Keeps s0 (s.testWarning c) := by
  unfold State.testWarning
  split
  · apply Keeps.doseNotice
    exact h.withDi rfl rfl rfl id
  · exact h

theorem Keeps.cutLight (h : Keeps s0 s) {r : SideResult} : Keeps s0 (s.cutLight r) :=
  h.endPreview.cutCapture.banksDark

theorem cutLight_dark (s : State) (r : SideResult) : (s.cutLight r).dark :=
  banksDark_dark _

theorem doseNotice_dark {r : DoseReason} (h : s.dark) : (s.doseNotice r).dark := by
  intro b
  simp only [State.doseNotice, notifyWith_lc]
  exact h b

theorem report_dark {c : FaultCode} {d : List Nat} (h : s.dark) : (s.report c d).dark := by
  intro b
  rw [report_lc]
  exact h b

theorem Keeps.testBudget (h : Keeps s0 s) {c : ClassRec} (hc : s.limits? = some c) : Keeps s0 (s.testBudget c) := by
  unfold State.testBudget
  split
  · rename_i hb
    dsimp only
    have hk := (Keeps.refl { s with di := { s.di with exhausted := true } }).cutLight (r := .doseCut)
    refine h.thenDark (s1 := { s with di := { s.di with exhausted := true } }) id id (fun hs => ?_) rfl
      (Keeps.doseNotice (Keeps.report hk)) (doseNotice_dark (report_dark (cutLight_dark _ _)))
    exact ⟨fun _ => ⟨c, hc, hb.1⟩, hs.2⟩
  · exact h

@[simp] theorem testWarning_sau (s : State) (c : ClassRec) : (s.testWarning c).sau = s.sau := by
  unfold State.testWarning State.doseNotice
  split <;> simp

theorem Keeps.testDayDose (h : Keeps s0 s) : Keeps s0 s.testDayDose := by
  unfold State.testDayDose
  split
  · rename_i c hc
    refine h.testWarning.testBudget ?_
    unfold State.limits? at *
    rw [testWarning_sau]
    exact hc
  · exact h

theorem Keeps.chargeDay (h : Keeps s0 s) {u : Nat} : Keeps s0 (s.chargeDay u) := by
  refine h.doses (Nat.le_refl _) (Nat.le_refl _) (fun _ => id) rfl rfl rfl rfl rfl rfl rfl id rfl id (fun hs => ?_)
    (htb := fun x v hv => (updateOpening_length s.tc.j (fun o => { o with dose := addDose o.dose u }) s.sau.openings).trans
      (x v hv))
  refine ⟨fun hx => ?_, Nat.min_le_left _ _⟩
  obtain ⟨c, hc, hb⟩ := hs.1 hx
  refine ⟨c, hc, ?_⟩
  have := hs.2.2.1
  show c.dayBudget ≤ min maxDose (s.di.dayDose + u)
  unfold maxDose
  omega

theorem Keeps.chargeTicket (h : Keeps s0 s) {u : Nat} : Keeps s0 (s.chargeTicket u) := by
  unfold State.chargeTicket
  split
  · exact h.onOpenTicket
  · exact h

theorem Keeps.creditLit (h : Keeps s0 s) {u : Nat} : Keeps s0 (s.creditLit u) := by
  unfold State.creditLit
  split
  · exact h
  · exact h.chargeDay.chargeTicket.testDayDose

theorem Keeps.creditAmbient (h : Keeps s0 s) {u : Nat} : Keeps s0 (s.creditAmbient u) := by
  unfold State.creditAmbient
  split
  · exact h
  · exact h.chargeDay.testDayDose

theorem Keeps.integrate (h : Keeps s0 s) : Keeps s0 s.integrate := by
  unfold State.integrate
  dsimp only
  apply Keeps.creditLit
  exact h.withDi rfl rfl rfl id

theorem Keeps.sensorFailed (h : Keeps s0 s) : Keeps s0 s.sensorFailed := by
  unfold State.sensorFailed
  exact h.thenDark (s1 := { s with di := { s.di with sensorDark := true } }) id id id rfl
    (Keeps.report (Keeps.refl _).cutLight) (report_dark (cutLight_dark _ _))

theorem Keeps.litSample (h : Keeps s0 s) : Keeps s0 s.litSample := by
  unfold State.litSample
  dsimp only
  have h1 : Keeps s0 { s with di := { s.di with
      satCount := nextCount (s.di.raw == 4095) s.di.satCount, darkCount := nextCount (s.di.raw == 0) s.di.darkCount } } :=
    h.withDi rfl rfl rfl id
  split
  · split
    · exact h1.report.integrate.sensorFailed
    · exact h1.integrate.sensorFailed
  · split
    · exact h1.report.integrate
    · exact h1.integrate

theorem Keeps.readSensor (h : Keeps s0 s) : Keeps s0 s.readSensor := by
  unfold State.readSensor
  dsimp only
  split
  · apply Keeps.litSample
    exact h.withDi rfl rfl rfl id
  · exact h.withDi rfl rfl rfl id

theorem Keeps.goTo (h : Keeps s0 s) {n : Nat} : Keeps s0 (s.goTo n) :=
  h.same

theorem Keeps.setSensor (h : Keeps s0 s) {r : Nat} : Keeps s0 (s.setSensor r) :=
  h.same

theorem Keeps.accrue (h : Keeps s0 s) : Keeps s0 s.accrue := by
  unfold State.accrue
  dsimp only
  have h1 : Keeps s0 { s with di := { s.di with lastAmbient := some (s.clock / 1000) } } := h.withDi rfl rfl rfl id
  split
  · split
    · exact h1.creditAmbient
    · exact h1
  · exact h1

theorem Keeps.readOnce (h : Keeps s0 s) : Keeps s0 s.readOnce := by
  unfold State.readOnce
  split
  · exact h
  · exact h.readSensor

theorem Keeps.milli (h : Keeps s0 s) : Keeps s0 s.milli := by
  unfold State.milli
  dsimp only
  split
  · exact h.readOnce.accrue
  · exact h.readOnce

theorem Keeps.rollover (h : Keeps s0 s) : Keeps s0 s.rollover := by
  unfold State.rollover
  dsimp only
  apply Keeps.doseNotice
  split
  · exact h.doses (Nat.le_refl _) (Nat.zero_le _) (fun _ x => absurd x List.not_mem_nil) rfl rfl rfl rfl rfl rfl rfl id
      rfl (fun x => Bool.noConfusion x) (fun _ => ⟨fun x => Bool.noConfusion x, Nat.zero_le _⟩)
      (htb := fun x v hv => by simpa using x v hv)
  · exact h.doses (Nat.le_refl _) (Nat.zero_le _) (fun _ x => absurd x List.not_mem_nil) rfl rfl rfl rfl rfl rfl rfl id
      rfl id fun hs => ⟨hs.1, hs.2.2.1⟩

theorem Keeps.alarmExpired (h : Keeps s0 s) : Keeps s0 s.alarmExpired := by
  unfold State.alarmExpired
  apply Keeps.rollover
  exact h.withDi rfl rfl rfl id

theorem Keeps.decideDayMark (h : Keeps s0 s) {l : Nat} : Keeps s0 (decideDayMark l s).1 := by
  unfold Machine.decideDayMark
  split
  · exact h
  · dsimp only [answer]
    apply Keeps.rollover
    refine h.frame (Nat.le_refl _) rfl (Nat.le_refl _) (fun _ => ⟨rfl, rfl⟩) rfl rfl rfl rfl rfl id rfl rfl rfl rfl

theorem Keeps.dropCarry (h : Keeps s0 s) {m : Text} :
    Keeps s0 { s with di := { s.di with carry := dropCarry m s.di.carry } } :=
  h.doses (Nat.le_refl _) (List.length_filter_le _ _) (fun _ x => (List.mem_filter.mp x).1) rfl rfl rfl rfl rfl rfl rfl
    id rfl id fun hs => ⟨hs.1, hs.2.2.1⟩

theorem Keeps.decideCarryDrop (h : Keeps s0 s) {r : Text} : Keeps s0 (decideCarryDrop r s).1 := by
  unfold Machine.decideCarryDrop
  repeat' split
  all_goals first | exact h | exact h.dropCarry

theorem Keeps.decideCarryRead (h : Keeps s0 s) {n : Nat} : Keeps s0 (decideCarryRead n s).1 := by
  unfold Machine.decideCarryRead
  repeat' split
  all_goals exact h

/-! ### The sync selector (05) -/

/-- At an edge no bank goes on or off. -/
theorem Keeps.edgeFrames (h : Keeps s0 s) {n : Option Nat} :
    Keeps s0 { s with lc := { s.lc with frameEdge := n, banks := s.lc.banks.map BankRec.atEdge } } :=
  h.dim (fun b hb => by rw [PerBank.get_map] at hb; exact hb) fun b hf => .inl (by rw [PerBank.get_map] at hf; exact hf)

theorem Keeps.deliverEdge (h : Keeps s0 s) {c : SyncSource} : Keeps s0 (s.deliverEdge c) := by
  unfold State.deliverEdge
  dsimp only
  have h1 := (h.withSync (f := fun y => { y with delivered := some s.now })).edgeFrames (n := some s.now)
  split
  · exact h1.trigger
  · split
    · split
      · exact h1.trigger
      · exact h1
    · exact h1
  all_goals exact h1

theorem Keeps.settleEnded (h : Keeps s0 s) : Keeps s0 s.settleEnded := by
  unfold State.settleEnded
  dsimp only
  split
  · apply Keeps.trigger
    exact h.withCc (Nat.le_refl _)
  · exact h.withCc (Nat.le_refl _)

theorem Keeps.startGenerator (h : Keeps s0 s) : Keeps s0 s.startGenerator :=
  h.withSync.deliverEdge

theorem Keeps.runGenerator (h : Keeps s0 s) : Keeps s0 s.runGenerator := by
  unfold State.runGenerator
  split
  · exact h
  · exact h.startGenerator

theorem Keeps.syncNotice (h : Keeps s0 s) {b : Bool} : Keeps s0 (s.syncNotice b) :=
  h.notifyWith

theorem Keeps.syncSwitched (h : Keeps s0 s) : Keeps s0 s.syncSwitched :=
  h.onOpenTicket

theorem Keeps.beginDetection (h : Keeps s0 s) : Keeps s0 s.beginDetection :=
  h.withSync

theorem Keeps.watchEnded (h : Keeps s0 s) : Keeps s0 s.watchEnded := by
  unfold State.watchEnded
  dsimp only
  apply Keeps.syncNotice
  split
  · exact h.withSync
  · exact h.withSync.startGenerator

theorem Keeps.externalEdge (h : Keeps s0 s) : Keeps s0 s.externalEdge := by
  unfold State.externalEdge
  dsimp only
  have h1 : Keeps s0 (s.withSync (Sync.measure s.set.syncRate s.now)) := h.withSync
  split
  · exact h
  · exact h
  · exact h1.deliverEdge
  · exact h1.deliverEdge
  · exact h1.withSync
  · split
    · exact h1.withSync.deliverEdge.syncSwitched.syncNotice
    · exact h1

theorem Keeps.sourceLost (h : Keeps s0 s) : Keeps s0 s.sourceLost := by
  unfold State.sourceLost
  exact h.withSync.startGenerator.report.syncNotice.syncSwitched

theorem Keeps.generatorEdge (h : Keeps s0 s) : Keeps s0 s.generatorEdge :=
  h.withSync.deliverEdge

theorem Keeps.decideSyncDetect (h : Keeps s0 s) : Keeps s0 (decideSyncDetect s).1 := by
  unfold Machine.decideSyncDetect
  repeat' split
  all_goals first | exact h | exact h.beginDetection

theorem Keeps.selectSource (h : Keeps s0 s) {c : SyncSource} : Keeps s0 (s.selectSource c) := by
  unfold State.selectSource
  repeat' split
  all_goals first | exact h.withSync.runGenerator | exact h.withSync

theorem Keeps.decideSyncSelect (h : Keeps s0 s) {c : Option SyncSource} : Keeps s0 (decideSyncSelect c s).1 := by
  unfold Machine.decideSyncSelect
  repeat' split
  all_goals first | exact h | exact h.selectSource

theorem Keeps.setRate (h : Keeps s0 s) {n : Nat} : Keeps s0 (s.setRate n) := by
  unfold State.setRate
  dsimp only
  split
  · apply Keeps.beginDetection
    exact h.withSet rfl
  · exact h.withSet rfl

/-! ### RC (07) -/

theorem Keeps.setRun (h : Keeps s0 s) {st : RunState} : Keeps s0 (s.setRun st) :=
  h.withRc.notify

theorem Keeps.pauseRun (h : Keeps s0 s) {r : PauseReason} : Keeps s0 (s.pauseRun r) :=
  h.withRc.setRun

theorem Keeps.endRun (h : Keeps s0 s) {r : EndReason} : Keeps s0 (s.endRun r) :=
  h.withRc.setRun

theorem Keeps.waitRun (h : Keeps s0 s) {d : DuePart} : Keeps s0 (s.waitRun d) :=
  h.withRc

theorem Keeps.endStep (h : Keeps s0 s) : Keeps s0 s.endStep := by
  unfold State.endStep
  repeat' split
  all_goals first
    | exact h.endRun
    | exact h.waitRun
    | exact h.decideUnclamp.withRc
    | exact h.pauseRun
    | exact h.decideTurn.withRc

theorem Keeps.captureAnswered (h : Keeps s0 s) {n : Nat} {r : Result} : Keeps s0 (s.captureAnswered n r) := by
  unfold State.captureAnswered
  split
  all_goals first
    | exact h.withRc
    | exact h.endStep
    | exact h.withRc.endStep
    | exact h.endRun
    | exact h.pauseRun

theorem Keeps.runCapture (h : Keeps s0 s) : Keeps s0 s.runCapture :=
  h.decideCapture.captureAnswered

theorem Keeps.runStep (h : Keeps s0 s) : Keeps s0 s.runStep := by
  unfold State.runStep
  repeat' split
  all_goals first
    | exact h.endStep
    | exact h.waitRun
    | exact h.decideClamp.withRc
    | exact h.runCapture

theorem Keeps.activateRun (h : Keeps s0 s) : Keeps s0 s.activateRun :=
  h.withRc.setRun.runStep

theorem Keeps.hearEnd (h : Keeps s0 s) {e : HeardEnd} : Keeps s0 (s.hearEnd e) := by
  unfold State.hearEnd
  repeat' split
  all_goals first | exact h | exact h.pauseRun | exact h.runStep

theorem Keeps.hearClose (h : Keeps s0 s) {n : Nat} : Keeps s0 (s.hearClose n) := by
  unfold State.hearClose
  dsimp only
  repeat' split
  all_goals first | exact h | exact h.withRc.pauseRun | exact h.withRc.endStep | exact h.withRc

theorem Keeps.wakeRun (h : Keeps s0 s) : Keeps s0 s.wakeRun := by
  unfold State.wakeRun
  repeat' split
  all_goals first | exact h | exact h.pauseRun | exact h.endStep | exact h.runStep

theorem Keeps.serveRun (n : Nat) : ∀ {s : State}, Keeps s0 s → Keeps s0 (serveRun n s) := by
  induction n with
  | zero => exact fun h => h
  | succ n ih =>
    intro s h
    unfold Machine.serveRun
    split
    · exact ih h.withRc.hearEnd
    · exact ih h.withRc.hearClose
    · dsimp only
      split
      · exact ih h.wakeRun
      · exact h.wakeRun

theorem Keeps.decideRunStart (h : Keeps s0 s) {l p : Nat} {m : Option RunMode} :
    Keeps s0 (decideRunStart l p m s).1 := by
  unfold Machine.decideRunStart
  repeat' split
  all_goals first | exact h | exact h.withRc.activateRun

theorem Keeps.rcHalt (h : Keeps s0 s) : Keeps s0 s.rcHalt := by
  unfold State.rcHalt
  repeat' split
  all_goals first | exact h | exact h.pauseRun | exact h.withRc | exact h.setRun

theorem Keeps.decideHalt (h : Keeps s0 s) : Keeps s0 (decideHalt s).1 :=
  h.tcHalt.rcHalt

theorem Keeps.resumedByTc (h : Keeps s0 s) {r : Result} : Keeps s0 (s.resumedByTc r) := by
  unfold State.resumedByTc
  split
  all_goals first | exact h.withRc.setRun | exact h.activateRun | exact h

theorem Keeps.rcResume (h : Keeps s0 s) {r : PauseReason} : Keeps s0 (rcResume r s).1 := by
  unfold Machine.rcResume
  dsimp only
  repeat' split
  all_goals first
    | exact h.endRun
    | exact h
    | exact h.tcResume
    | exact h.tcResume.resumedByTc
    | exact h.activateRun

theorem Keeps.decideResume (h : Keeps s0 s) : Keeps s0 (decideResume s).1 := by
  unfold Machine.decideResume
  split
  · exact h.rcResume
  · exact h.tcResume

theorem Keeps.decideRunEnd (h : Keeps s0 s) : Keeps s0 (decideRunEnd s).1 := by
  unfold Machine.decideRunEnd
  split
  · exact h.endRun.runEnded
  · exact h

theorem Keeps.ticketFreed (h : Keeps s0 s) : Keeps s0 s.ticketFreed := by
  unfold State.ticketFreed
  repeat' split
  all_goals first | exact h | exact h.endRun | exact h.activateRun

theorem Keeps.rcSafeStop (h : Keeps s0 s) : Keeps s0 s.rcSafeStop := by
  unfold State.rcSafeStop
  split
  all_goals first | exact h | exact h.pauseRun | exact h.setRun

theorem Keeps.decideTicketRelease (h : Keeps s0 s) {n : Nat} {l r : Option Verdict} :
    Keeps s0 (decideTicketRelease n l r s).1 := by
  unfold Machine.decideTicketRelease
  dsimp only
  repeat' split
  all_goals first | exact h | exact (Keeps.releaseWalk _ h).retestBacklog.ticketFreed

theorem Keeps.markRead (h : Keeps s0 s) {n : Nat} : Keeps s0 (s.markRead n) := by
  unfold State.markRead
  dsimp only
  apply Keeps.retestBacklog
  refine h.withCc (by simp) (ringSound_map rfl (fun t => ?_) fun t x => ?_)
  · split <;> rfl
  · split <;> exact x

theorem Keeps.readTicket (h : Keeps s0 s) {n : Nat} : Keeps s0 (readTicket n s).1 := by
  unfold Machine.readTicket
  repeat' split
  all_goals first | exact h | exact h.markRead

theorem Keeps.decideTicketRead (h : Keeps s0 s) {r : TicketRef} : Keeps s0 (decideTicketRead r s).1 := by
  unfold Machine.decideTicketRead
  repeat' split
  all_goals first | exact h | exact h.readTicket

theorem Keeps.decideBacklogSet (h : Keeps s0 s) {a b : Nat} : Keeps s0 (decideBacklogSet a b s).1 := by
  unfold Machine.decideBacklogSet
  dsimp only [answer]
  apply Keeps.retestBacklog
  exact h.withSet rfl

/-! ### PS (07) -/

theorem Keeps.withPs (h : Keeps s0 s) {p : Ps} : Keeps s0 { s with ps := p } :=
  h.same

theorem Keeps.inputChange (h : Keeps s0 s) {k : Key} {b : Bool} : Keeps s0 (s.inputChange k b) :=
  h.same

theorem Keeps.byKey {k : Key} {q : LocalRequest} {a : State × Answer} (h : Keeps s0 a.1) : Keeps s0 (State.byKey k q a) :=
  h.withPs

theorem Keeps.recordLocal (h : Keeps s0 s) {k : Key} {r : Option (LocalRequest × Result)} : Keeps s0 (s.recordLocal k r) :=
  h.withPs

theorem Keeps.retakeSide (h : Keeps s0 s) {n : Nat} : Keeps s0 (s.retakeSide n) := by
  unfold State.retakeSide
  repeat' split
  all_goals first | exact h | exact h.supersede | exact h.setSide

theorem Keeps.actKey (h : Keeps s0 s) {k : Key} : Keeps s0 (s.actKey k) := by
  unfold State.actKey
  split
  · exact h.decideHalt.byKey
  · unfold State.pressPedal
    repeat' split
    all_goals first | exact h.decideResume.byKey | exact h.decideCapture.byKey | exact h.recordLocal
  · unfold State.pressConfirm
    split
    · rename_i hc
      exact (confirm_keeps h hc).recordLocal
    · split
      · exact (h.withTc (f := fun t => { t with j := _ })).recordLocal
      · exact h.recordLocal
  · unfold State.pressRetake
    split
    · exact h.recordLocal
    · exact h.retakeSide.retakeSide.recordLocal
  · unfold State.pressLamp
    split
    · exact h.decidePreviewOff.byKey
    · exact h.decidePreview.byKey
  · exact h.recordLocal

theorem Keeps.keyStable (h : Keeps s0 s) {k : Key} : Keeps s0 (s.keyStable k) := by
  unfold State.keyStable
  split
  · exact h
  · rename_i l n _
    dsimp only
    have h1 : Keeps s0 (s.setInput k { stable := l, candidate := none }) := h.withPs
    split
    · unfold State.pressKey State.pendantNotice
      repeat' split
      all_goals first
        | exact h1.actKey.notifyWith
        | exact h1.actKey
        | exact h1.notifyWith
        | exact h1
    · exact h1

theorem Keeps.decidePendantMode (h : Keeps s0 s) {m : Option PendantMode} : Keeps s0 (decidePendantMode m s).1 := by
  unfold Machine.decidePendantMode
  split
  · exact h
  · exact h.withSet rfl

/-! ### SAU's requests (01, 08) -/

theorem Keeps.decidePatternWrite (h : Keeps s0 s) {f : PatternFields} : Keeps s0 (decidePatternWrite f s).1 := by
  unfold Machine.decidePatternWrite
  repeat' split
  all_goals first | exact h | exact h.withSet rfl

theorem Keeps.decideClassWrite (h : Keeps s0 s) {n : Nat} {f : ClassFields} : Keeps s0 (decideClassWrite n f s).1 := by
  unfold Machine.decideClassWrite
  repeat' split
  all_goals first | exact h | exact h.withSet rfl

theorem Keeps.decideProfileWrite (h : Keeps s0 s) {n : Nat} {f : ProfileFields} :
    Keeps s0 (decideProfileWrite n f s).1 := by
  unfold Machine.decideProfileWrite
  repeat' split
  all_goals first | exact h | exact h.withSetLc rfl rfl

theorem buildOpenings_length (d : Direction) (n : Nat) (f : List Nat) (b : List (Nat × Nat)) :
    (buildOpenings d n f b).length = n + 1 := by
  simp [buildOpenings]

theorem Keeps.mountVolume (h : Keeps s0 s) {v : Volume} : Keeps s0 (s.mountVolume v) := by
  unfold State.mountVolume State.mountDose
  dsimp only
  apply Keeps.testDayDose
  refine h.doses (Nat.le_refl _) (List.length_filter_le _ _) (fun _ x => (List.mem_filter.mp x).1) rfl rfl rfl rfl rfl
    rfl rfl id rfl (fun x => Bool.noConfusion x) (fun hs => ⟨fun x => Bool.noConfusion x, ?_⟩)
    (htb := fun _ u hu => ?_)
  on_goal 2 =>
    cases hu
    exact buildOpenings_length ..
  dsimp only
  split
  · rename_i e he
    exact hs.2.2.2 e (List.mem_of_find?_eq_some he)
  · exact Nat.zero_le _

theorem Keeps.decideMount (h : Keeps s0 s) {f : MountFields} : Keeps s0 (decideMount f s).1 := by
  unfold Machine.decideMount
  dsimp only
  repeat' split
  all_goals first | exact h | exact h.mountVolume

theorem Keeps.setOneSide {p : State × SideTotals} (h : Keeps s0 p.1) {n : Nat} {st : SideState} :
    Keeps s0 (setOneSide n st p).1 := by
  unfold Machine.setOneSide
  dsimp only
  repeat' split
  all_goals first | exact h | exact h.supersede | exact h.setSide

theorem Keeps.setSides {st : SideState} (n : Nat) :
    ∀ {side : Nat} {p : State × SideTotals}, Keeps s0 p.1 → Keeps s0 (setSides st n side p).1 := by
  induction n with
  | zero => exact fun h => h
  | succ n ih =>
    intro side p h
    unfold Machine.setSides
    exact ih h.setOneSide

theorem Keeps.decideSideSet (h : Keeps s0 s) {a b : Nat} {st : Option SideState} :
    Keeps s0 (decideSideSet a b st s).1 := by
  unfold Machine.decideSideSet
  dsimp only
  repeat' split
  all_goals first | exact h | exact Keeps.setSides _ h

theorem Keeps.beginDismountRaise (h : Keeps s0 s) {f : Bool} : Keeps s0 (s.beginDismountRaise f) := by
  unfold State.beginDismountRaise
  dsimp only
  split
  · apply Keeps.notify
    apply Keeps.beginRaise
    exact h.withTc
  · apply Keeps.beginRaise
    exact h.withTc

theorem Keeps.decideDismount (h : Keeps s0 s) {f : Option Bool} : Keeps s0 (decideDismount f s).1 := by
  unfold Machine.decideDismount
  split
  · exact h
  · dsimp only
    have h1 : Keeps s0 (if f.getD false = true then (s.endPreview .cut).abandonCapture else s.endPreview .cut) := by
      split
      · exact h.endPreview.abandonCapture
      · exact h.endPreview
    split
    · exact h1.beginDismountRaise
    · exact h1.completeDismount

/-! ### Settings and fault banks (09, 10, 11) -/

theorem Keeps.decideSettingsWrite (h : Keeps s0 s) {c : SettingChange} : Keeps s0 (decideSettingsWrite c s).1 := by
  unfold Machine.decideSettingsWrite
  dsimp only
  repeat' split
  all_goals first | exact h | exact h.withSet rfl | exact h.setRate

theorem Keeps.decideNoticeMask (h : Keeps s0 s) {n : Nat} : Keeps s0 (decideNoticeMask n s).1 := by
  unfold Machine.decideNoticeMask
  split
  · exact h
  · exact h.withSet rfl

theorem Keeps.decideFaultClear (h : Keeps s0 s) {b : Option FaultBank} : Keeps s0 (decideFaultClear b s).1 := by
  unfold Machine.decideFaultClear
  split
  · exact h
  · refine h.frame (Nat.le_refl _) rfl (Nat.le_refl _) (fun b' => ?_) rfl rfl rfl rfl rfl id rfl rfl rfl rfl
    simp only [answer, setFaultBank_banks]
    rw [PerFaultBank.get_set]
    split
    · rename_i e
      subst e
      exact ⟨rfl, rfl⟩
    · exact ⟨rfl, rfl⟩

theorem Keeps.decideFaultMask (h : Keeps s0 s) {b : Option FaultBank} {n : Nat} :
    Keeps s0 (decideFaultMask b n s).1 := by
  unfold Machine.decideFaultMask
  repeat' split
  all_goals first | exact h | exact h.withSet rfl

theorem Keeps.decideThresholdSet (h : Keeps s0 s) {b : Option FaultBank} {n : Nat} :
    Keeps s0 (decideThresholdSet b n s).1 := by
  unfold Machine.decideThresholdSet
  split
  · exact h
  · rename_i b
    dsimp only [answer]
    refine ⟨fun h0 => ?_, fun h0 => by simpa using h.ring h0, fun h0 => by simpa using h.table h0, fun h0 => ?_,
      fun h0 => ?_, ?_, fun hp h0 b' hl => ?_⟩
    · have := h.bounds h0
      unfold State.bounded at *
      simpa using this
    · have hc := h.counts h0
      unfold State.countersHold at *
      rw [recount_fb]
      simp only [recount_set, recount_ss]
      refine ⟨fun b' => ?_, fun b' => ?_, hc.2.2⟩
      · have := hc.1 b'
        by_cases e : b' = b
        · subst e
          simpa [PerFaultBank.get_set] using this.1
        · simpa [PerFaultBank.get_set, e] using this
      · rw [PerFaultBank.get_set]
        split
        · unfold clampTo
          omega
        · exact hc.2.1 b'
    · have := h.sound h0
      unfold State.doseSound State.limits? at *
      simpa using this
    · simpa using h.power
    · have := h.lit hp h0 b' (by simpa using hl)
      unfold State.lampsBlocked at *
      simpa using this

theorem Keeps.decideThresholdClear (h : Keeps s0 s) {b : Option FaultBank} : Keeps s0 (decideThresholdClear b s).1 := by
  unfold Machine.decideThresholdClear
  split
  · exact h
  · exact h.recount fun _ => Nat.zero_le _

end Sys2Proof.Machine
end

