-- ==== Sys2Proof/Laws/KeepsLink.lean ====
section
/-! SUPPORT. What the guard, the resets, LK and the events keep of the invariants (02, 10, 11). -/

set_option Elab.async false

namespace Sys2Proof.Machine

variable {s0 s1 s t : State}

/-! ### The guard (02 R50) -/

theorem Keeps.guardReport (h : Keeps s0 s) {st : TcState} : Keeps s0 (s.guardReport st) :=
  h.report.notify

theorem guardReport_dark {st : TcState} (h : s.dark) : (s.guardReport st).dark := by
  intro b
  simp only [State.guardReport, State.notify, notifyWith_lc, report_lc]
  exact h b

@[simp] theorem completeDismount_lc (s : State) (c : TallyCause) : (s.completeDismount c).lc = s.lc := by
  unfold State.completeDismount
  split
  · rfl
  · dsimp only
    split <;> simp [State.handOffDose, State.forceSides, State.orphan]

theorem Keeps.stopResetStroke (h : Keeps s0 s) : Keeps s0 s.stopResetStroke :=
  h.completeResetDismount.withTc

/-- The guard's opening outside start-up ends in the dark. -/
theorem safeStop_dark (s : State) : s.safeStop.dark := by
  unfold State.safeStop
  dsimp only
  have h1 := guardReport_dark (st := s.tc.state) (banksDark_dark
    (((((s.withTc (Tc.safeStopped s.leafOnHead)).rcSafeStop).endPreview .cut).cutCapture .guardCut)))
  split
  · intro b
    simp only [State.stopResetStroke, State.completeResetDismount, withTc_lc, completeDismount_lc]
    exact h1 b
  · exact h1

theorem safeStop_data (s : State) : Keeps (s.withTc (Tc.safeStopped s.leafOnHead)) s.safeStop := by
  unfold State.safeStop
  dsimp only
  have h1 : Keeps (s.withTc (Tc.safeStopped s.leafOnHead)) ((((((s.withTc (Tc.safeStopped s.leafOnHead)).rcSafeStop).endPreview
    .cut).cutCapture .guardCut)).banksDark.guardReport s.tc.state) :=
    (Keeps.refl _).rcSafeStop.endPreview.cutCapture.banksDark.guardReport
  split
  · exact h1.stopResetStroke
  · exact h1

theorem startGuard_dark (s : State) : s.startGuard.dark := by
  have h1 := guardReport_dark (st := s.tc.state) (banksDark_dark s)
  unfold State.startGuard
  dsimp only
  split <;> exact h1

theorem startGuard_data (s : State) : Keeps s s.startGuard := by
  have h1 : Keeps s (s.banksDark.guardReport s.tc.state) := (Keeps.refl s).banksDark.guardReport
  unfold State.startGuard
  dsimp only
  split
  · exact h1.same
  · exact h1
  · exact h1
  · exact h1

/-- The opened guard keeps the invariants of a part that has them. -/
theorem guardOpened_keeps (s : State) :
    (s.bounded → s.guardOpened.bounded) ∧ (s.cc.ringSound → s.guardOpened.cc.ringSound)
      ∧ (s.sau.tableSound → s.guardOpened.sau.tableSound) ∧ (s.countersHold → s.guardOpened.countersHold)
      ∧ s.guardOpened.powered = s.powered ∧ (s.lampsSafe → s.guardOpened.lampsSafe) := by
  unfold State.guardOpened
  dsimp only
  split
  · rename_i hg
    refine ⟨id, id, id, id, rfl, fun h => ⟨fun _ => h.1 ?_, h.2⟩⟩
    simp only [Bool.or_eq_true, beq_iff_eq] at hg
    rcases hg with x | x
    · exact .inr (.inl x)
    · exact .inr (.inr (.inl x))
  · split
    · have k := startGuard_data { s with pins := { s.pins with guardOpen := true } }
      exact ⟨k.bounds, k.ring, k.table, k.counts, k.power, fun h => ⟨fun _ => startGuard_dark _, k.sound h.2⟩⟩
    · have k := safeStop_data { s with pins := { s.pins with guardOpen := true } }
      exact ⟨k.bounds, k.ring, k.table, k.counts, k.power, fun h => ⟨fun _ => safeStop_dark _, k.sound h.2⟩⟩

/-- A closing guard takes one thing out of the lamps' way. -/
theorem Keeps.guardShut (h : Keeps s0 s) : Keeps s0 { s with pins := { s.pins with guardOpen := false } } := by
  refine ⟨h.bounds, h.ring, h.table, h.counts, h.sound, h.power, fun hp h0 b hl => ?_⟩
  have himp : State.lampsBlocked { s with pins := { s.pins with guardOpen := false } } → s.lampsBlocked := by
    rintro (x | x | x | x | x)
    · exact .inl x
    · exact Bool.noConfusion x
    · exact .inr (.inr (.inl x))
    · exact .inr (.inr (.inr (.inl x)))
    · exact .inr (.inr (.inr (.inr x)))
  rcases h.lit hp h0 b hl with ⟨h1, h2⟩ | h1
  · exact .inl ⟨h1, fun x => h2 (himp x)⟩
  · exact .inr fun x => h1 (himp x)

theorem Keeps.startHoming (h : Keeps s0 s) : Keeps s0 s.startHoming := by
  unfold State.startHoming
  apply Keeps.homeFor
  exact h.same

theorem Keeps.guardClosed (h : Keeps s0 s) : Keeps s0 s.guardClosed := by
  unfold State.guardClosed
  dsimp only
  split
  · exact h.guardShut.startHoming
  · exact h.guardShut

theorem Keeps.syncWatchEnded (h : Keeps s0 s) : Keeps s0 s.syncWatchEnded := by
  unfold State.syncWatchEnded
  dsimp only
  split
  · split
    · exact h.watchEnded.same
    · exact h.watchEnded.startHoming
  · exact h.watchEnded

/-! ### The warm reset (11 R192) -/

theorem Keeps.beginResetStroke (h : Keeps s0 s) : Keeps s0 s.beginResetStroke := by
  unfold State.beginResetStroke
  dsimp only
  split
  · exact h.withTc.releaseBack.withTc.beginReturn
  · exact h.withTc

/-- An operation in the dark on TC, the pins' readings, LK's part, PS and RC, that brings no frame. -/
theorem Keeps.darkly (h : Keeps s0 s) (hd : s.dark) (hcc : t.cc.tickets.length ≤ s.cc.tickets.length)
    (hdi : t.di = s.di) (hqu : t.lk.queue.length ≤ s.lk.queue.length) (hfb : t.fb = s.fb) (hse : t.set = s.set)
    (hss : t.ss = s.ss) (hlc : t.lc = s.lc) (hpw : t.powered = s.powered) (hsa : t.sau = s.sau)
    (hrg : s.cc.ringSound → t.cc.ringSound := by exact id) : Keeps s0 t := by
  refine .ofDark (fun h0 => ?_) (fun h0 => hrg (h.ring h0)) (fun h0 => hsa ▸ h.table h0) (fun h0 => ?_) (fun h0 => ?_) (hpw.trans h.power) (fun b => by rw [hlc]; exact hd b)
  · have := h.bounds h0
    refine ⟨Nat.le_trans hcc this.1, ?_, ?_, Nat.le_trans hqu this.2.2.2⟩
    · rw [hdi]
      exact this.2.1
    · rw [hdi]
      exact this.2.2.1
  · have := h.counts h0
    unfold State.countersHold at *
    rw [hfb, hse, hss]
    exact this
  · have := h.sound h0
    unfold State.doseSound State.limits? at *
    rw [hdi, hlc, hsa]
    exact this

theorem homeAfterReset_keeps (h : Keeps s0 s) (hd : s.dark) : Keeps s0 s.homeAfterReset := by
  unfold State.homeAfterReset
  split
  · exact h.darkly hd (Nat.le_refl _) rfl (Nat.le_refl _) rfl rfl rfl rfl rfl rfl
  · split
    · exact h
    · exact h.homeFor

/-- A warm reset keeps the invariants: it puts every bank out, and what follows lights none. -/
theorem Keeps.warmReset (h : Keeps s0 s) : Keeps s0 s.warmReset := by
  unfold State.warmReset
  dsimp only
  have h1 : Keeps s0 (((s.withRc Rc.aborted).endPreview .reset).abandonCapture).banksDark :=
    h.withRc.endPreview.abandonCapture.banksDark
  have hd := banksDark_dark (((s.withRc Rc.aborted).endPreview .reset).abandonCapture)
  generalize (((s.withRc Rc.aborted).endPreview .reset).abandonCapture).banksDark = u at h1 hd
  have h2 : Keeps s0 (if s.tc.state.armStroke = true then u.beginResetStroke else u.completeResetDismount)
      ∧ (if s.tc.state.armStroke = true then u.beginResetStroke else u.completeResetDismount).dark := by
    split
    · refine ⟨h1.beginResetStroke, fun b => ?_⟩
      have : u.beginResetStroke.lc = u.lc := by
        unfold State.beginResetStroke
        dsimp only
        split <;> rfl
      rw [this]
      exact hd b
    · refine ⟨h1.completeResetDismount, fun b => ?_⟩
      simp only [State.completeResetDismount, withTc_lc, completeDismount_lc]
      exact hd b
  generalize (if s.tc.state.armStroke = true then u.beginResetStroke else u.completeResetDismount) = w at h2
  have h3 := h2.1.darkly (t := { w with
      lk := w.lk.afterReset, ps := Ps.asRead w.pins.keys w.ps.lastLocal
      rc := { w.rc with heardEnd := none, heardClose := none }, cc := { w.cc with backlog := false } })
    h2.2 (Nat.le_refl _) rfl (Nat.zero_le _) rfl rfl rfl rfl rfl rfl
  split
  · exact h3
  · exact homeAfterReset_keeps h3 h2.2

/-! ### LK (10) -/

theorem Keeps.withLk (h : Keeps s0 s) {f : Lk → Lk} (hq : (f s.lk).queue.length ≤ s.lk.queue.length) :
    Keeps s0 (s.withLk f) :=
  h.frame (Nat.le_refl _) rfl hq (fun _ => ⟨rfl, rfl⟩) rfl rfl rfl rfl rfl id rfl rfl rfl rfl

theorem Keeps.putReply (h : Keeps s0 s) {r : Reply} : Keeps s0 (s.putReply r) :=
  h.withLk (Nat.le_refl _)

theorem Keeps.beginStore (h : Keeps s0 s) : Keeps s0 s.beginStore := by
  refine ⟨h.bounds, h.ring, h.table, fun h0 => ?_, h.sound, h.power, h.lit⟩
  have := h.counts h0
  refine ⟨this.1, this.2.1, this.2.2.1, fun w hw => ?_⟩
  cases hw
  exact this.2.1

theorem Keeps.storeDone (h : Keeps s0 s) : Keeps s0 s.storeDone := by
  unfold State.storeDone
  split
  · exact h
  · rename_i c n hw
    dsimp only
    have h1 : Keeps s0 { s with ss := { copy := c, crcGood := true, writing := none, lastStore := some s.clock } } := by
      refine ⟨h.bounds, h.ring, h.table, fun h0 => ?_, h.sound, h.power, h.lit⟩
      have := h.counts h0
      exact ⟨this.1, this.2.1, this.2.2.2 _ hw, fun w x => by cases x⟩
    repeat' split
    all_goals first | exact h1 | exact h1.putReply

/-- Every decision keeps the invariants. -/
theorem Keeps.decisionOf (h : Keeps s0 s) {i : Instr} : Keeps s0 (decisionOf i s).1 := by
  unfold Machine.decisionOf
  split
  all_goals first
    | exact h.decideNoticeMask
    | exact h.decideSettingsWrite
    | exact h.decidePatternWrite
    | exact h.decideClassWrite
    | exact h.decideMount
    | exact h.decideSideSet
    | exact h.decideDismount
    | exact h.decideTurn
    | exact h.decideClamp
    | exact h.decideUnclamp
    | exact h.decideHalt
    | exact h.decideResume
    | exact h.decideDeclarePending
    | exact h.decideDeclare
    | exact h.decideRecover
    | exact h.decidePreview
    | exact h.decidePreviewOff
    | exact h.decideProfileLevel
    | exact h.decideLampClear
    | exact h.decideDayMark
    | exact h.decideCarryRead
    | exact h.decideCarryDrop
    | exact h.decideProfileWrite
    | exact h.decideCapture
    | exact h.decideSyncDetect
    | exact h.decideSyncSelect
    | exact h.decideTicketRead
    | exact h.decideTicketRelease
    | exact h.decideBacklogSet
    | exact h.decideRunStart
    | exact h.decideRunEnd
    | exact h.decidePendantMode
    | exact h.decideFaultClear
    | exact h.decideFaultMask
    | exact h.decideThresholdSet
    | exact h.decideThresholdClear
    | exact h
    | skip
  · exact Keeps.withLk h (f := fun l => { l with resetTaken := true }) (Nat.le_refl _)
  · unfold decideSettingsRead
    repeat' split
    all_goals exact h
  · unfold decidePatternRead
    split <;> exact h
  · unfold decideClassify
    split <;> exact h
  · unfold decideClassRead
    split <;> exact h
  · unfold decideOpeningRead
    repeat' split
    all_goals exact h
  · unfold decideTallyRead
    split <;> exact h
  · unfold decideProfileRead
    split <;> exact h
  · unfold decideFaultRead
    split <;> exact h

theorem Keeps.decideFrame (h : Keeps s0 s) {f : RxFrame} : Keeps s0 (s.decideFrame f) := by
  unfold State.decideFrame
  dsimp only
  repeat' split
  all_goals first | exact h.putReply | exact h.beginStore | exact h.decisionOf.putReply

theorem Keeps.tryTake (h : Keeps s0 s) : Keeps s0 s.tryTake := by
  unfold State.tryTake
  split
  · exact h
  · split
    · exact h
    · rename_i hq
      exact Keeps.serveRun _ (Keeps.decideFrame (h.withLk (by simp [hq])))

theorem Keeps.kick (h : Keeps s0 s) : Keeps s0 s.kick := by
  have := kick_frame s
  unfold sameOutsideLink at this
  rw [this]
  exact h.frame (Nat.le_refl _) rfl (by simp) (fun _ => ⟨rfl, rfl⟩) rfl rfl rfl rfl rfl id rfl rfl rfl rfl

theorem Keeps.pump (n : Nat) : ∀ {s : State}, Keeps s0 s → Keeps s0 (pump n s) := by
  induction n with
  | zero => exact fun h => h
  | succ n ih => exact fun h => ih h.tryTake.kick

theorem Keeps.settle (h : Keeps s0 s) : Keeps s0 s.settle :=
  Keeps.pump _ (Keeps.serveRun _ h)

theorem Keeps.joinQueue (h : Keeps s0 s) {f : RxFrame} : Keeps s0 (s.joinQueue f) := by
  unfold State.joinQueue
  split
  · rename_i hq
    refine ⟨fun h0 => ⟨(h.bounds h0).1, (h.bounds h0).2.1, (h.bounds h0).2.2.1, ?_⟩, h.ring, h.table, h.counts, h.sound, h.power, h.lit⟩
    simp only [withLk_lk, List.length_append, List.length_singleton]
    omega
  · exact h.report

theorem Keeps.submit (h : Keeps s0 s) {i : Instr} : Keeps s0 (s.submit i) := by
  unfold State.submit
  split
  · exact h.joinQueue
  · exact h

theorem Keeps.hunt (h : Keeps s0 s) : Keeps s0 s.hunt :=
  h.withLk (Nat.le_refl _)

theorem Keeps.frameComplete (h : Keeps s0 s) {l : List Byte} : Keeps s0 (s.frameComplete l) := by
  unfold State.frameComplete
  split
  · exact h.hunt.joinQueue
  · exact h.hunt.report

theorem Keeps.rxByte (h : Keeps s0 s) {b : Byte} : Keeps s0 (s.rxByte b) := by
  unfold State.rxByte
  dsimp only
  split
  · split
    · exact h.withLk (Nat.le_refl _)
    · exact h
  · split
    · exact h.hunt.report.settle
    · split
      · exact h.frameComplete.settle
      · exact h.withLk (Nat.le_refl _)

theorem Keeps.rxBytes (l : List Byte) : ∀ {s : State}, Keeps s0 s → Keeps s0 (l.foldl State.rxByte s) := by
  induction l with
  | nil => exact fun h => h
  | cons b l ih => exact fun h => ih h.rxByte

theorem Keeps.rxTimedOut (h : Keeps s0 s) : Keeps s0 s.rxTimedOut := by
  unfold State.rxTimedOut
  split
  · exact h
  · exact h.hunt.report

theorem Keeps.bytesReceived (h : Keeps s0 s) {l : List Byte} : Keeps s0 (s.bytesReceived l) := by
  unfold State.bytesReceived
  dsimp only
  apply Keeps.rxBytes
  split
  · split
    · exact h.rxTimedOut.settle
    · exact h
  · exact h

theorem Keeps.frameEnded (h : Keeps s0 s) : Keeps s0 s.frameEnded := by
  unfold State.frameEnded
  split
  · exact h
  · dsimp only
    split
    · exact (h.withLk (Nat.le_refl _)).warmReset
    · exact h.withLk (Nat.le_refl _)

theorem Keeps.homeLimit (h : Keeps s0 s) : Keeps s0 s.homeLimit := by
  unfold State.homeLimit
  split
  · exact h.homingFailed
  · exact h

theorem Keeps.compare (h : Keeps s0 s) : Keeps s0 s.compare := by
  unfold State.compare
  split
  · exact h.compareAt
  · exact h

theorem Keeps.sensorReading (h : Keeps s0 s) {r : Nat} : Keeps s0 (s.sensorReading r) := by
  unfold State.sensorReading
  split
  · exact h.setSensor
  · split
    · exact h.milli.settle.setSensor.goTo.readSensor
    · exact h.setSensor.readSensor

theorem Keeps.tenthSaturated (h : Keeps s0 s) : Keeps s0 s.tenthSaturated := by
  unfold State.tenthSaturated
  split
  · exact h.sensorReading
  · exact h

theorem Keeps.fiftiethDark (h : Keeps s0 s) : Keeps s0 s.fiftiethDark := by
  unfold State.fiftiethDark
  split
  · exact h.sensorReading
  · exact h

/-! ### Events -/

/-- An event whose effect keeps the invariants keeps them with all it brings. -/
theorem event_keeps {f : State → State} (hf : Keeps s (f s)) : Keeps s (s.event f) := by
  unfold State.event
  split
  · exact hf.settle
  · exact .refl s

theorem Keeps.passMs (h : Keeps s0 s) {n : Nat} : Keeps s0 (s.passMs n) :=
  h.goTo.milli.settle

theorem Keeps.passTimer {d : State → Option Nat} {f : State → State} (hf : ∀ {u : State}, Keeps s0 u → Keeps s0 (f u))
    (n : Nat) : ∀ {s : State}, Keeps s0 s → Keeps s0 (passTimer d f n s) := by
  induction n with
  | zero => exact fun h => h
  | succ n ih =>
    intro s h
    unfold Machine.passTimer
    split
    · exact h
    · split
      · exact hf h.goTo
      · exact ih h.passMs

/-- A timer keeps the invariants where its effect keeps them, with the milliseconds it is carried over. -/
theorem Keeps.atDue {d : State → Option Nat} {f : State → State} (hf : ∀ {u : State}, Keeps s0 u → Keeps s0 (f u))
    (h : Keeps s0 s) : Keeps s0 (s.atDue d f) := by
  unfold State.atDue
  split
  · exact h
  · split
    · exact hf h.goTo
    · exact Keeps.passTimer hf _ h.milli.settle

theorem Keeps.ambientTick (h : Keeps s0 s) : Keeps s0 s.ambientTick := by
  unfold State.ambientTick
  split
  · exact h.milli
  · exact h.atDue fun k => k.milli

end Sys2Proof.Machine
end

