-- ==== Sys2Proof/Laws/CaptureFrames.lean ====
section
/-! SUPPORT. What the end of a capture and of a volume leave unchanged (05 R122, R124, 08 R165). -/

set_option Elab.async false

namespace Sys2Proof.Machine

variable (s : State)

/-- Every bank goes dark at once; DI's two counts go to 0 where a bank was lit (04 R76 to R78). -/
theorem banksDark_eq (s : State) :
    s.banksDark = { s with
      lc := { s.lc with banks := s.lc.banks.map BankRec.dark }
      di := if s.anyLit then { s.di with satCount := 0, darkCount := 0 } else s.di } := by
  have h : ∀ d : Di, State.anyLit { s with lc := { s.lc with banks := s.lc.banks.map BankRec.dark }, di := d } = false := by
    intro d
    simp [State.anyLit, PerBank.any, BankRec.dark]
  unfold State.banksDark State.litTimeEnded
  dsimp only
  cases hl : s.anyLit
  · simp only [Bool.false_and, Bool.false_eq_true, if_false]
  · rw [h]
    simp only [Bool.true_and, Bool.not_false, if_true]

/-- The end of a LIT preview whose window is the one in progress (03 R70 to R72). -/
theorem endPreview_lit {s : State} {p : Preview} {r : PreviewEnd} (hp : s.lc.preview = some p)
    (hw : (s.lc.window.map Window.kind) = some .preview) :
    s.endPreview r = { s with
      lc := { s.lc with
        banks := s.lc.banks.map BankRec.dark, window := none, preview := none, lastEnd := some r }
      di := if s.anyLit then { s.di with satCount := 0, darkCount := 0 } else s.di } := by
  cases hw' : s.lc.window with
  | none => simp [hw'] at hw
  | some w =>
    simp only [hw', Option.map_some, Option.some.injEq] at hw
    unfold State.endPreview State.endWindow
    simp only [hp, hw', hw]
    rw [banksDark_eq]

section retestBacklog
@[simp] theorem retestBacklog_now : s.retestBacklog.now = s.now := by
  unfold State.retestBacklog
  dsimp only
  split <;> simp
@[simp] theorem retestBacklog_powered : s.retestBacklog.powered = s.powered := by
  unfold State.retestBacklog
  dsimp only
  split <;> simp
@[simp] theorem retestBacklog_start : s.retestBacklog.start = s.start := by
  unfold State.retestBacklog
  dsimp only
  split <;> simp
@[simp] theorem retestBacklog_pins : s.retestBacklog.pins = s.pins := by
  unfold State.retestBacklog
  dsimp only
  split <;> simp
@[simp] theorem retestBacklog_set : s.retestBacklog.set = s.set := by
  unfold State.retestBacklog
  dsimp only
  split <;> simp
@[simp] theorem retestBacklog_sau : s.retestBacklog.sau = s.sau := by
  unfold State.retestBacklog
  dsimp only
  split <;> simp
@[simp] theorem retestBacklog_tc : s.retestBacklog.tc = s.tc := by
  unfold State.retestBacklog
  dsimp only
  split <;> simp
@[simp] theorem retestBacklog_lc : s.retestBacklog.lc = s.lc := by
  unfold State.retestBacklog
  dsimp only
  split <;> simp
@[simp] theorem retestBacklog_di : s.retestBacklog.di = s.di := by
  unfold State.retestBacklog
  dsimp only
  split <;> simp
@[simp] theorem retestBacklog_rc : s.retestBacklog.rc = s.rc := by
  unfold State.retestBacklog
  dsimp only
  split <;> simp
@[simp] theorem retestBacklog_ps : s.retestBacklog.ps = s.ps := by
  unfold State.retestBacklog
  dsimp only
  split <;> simp
@[simp] theorem retestBacklog_fb : s.retestBacklog.fb = s.fb := by
  unfold State.retestBacklog
  dsimp only
  split <;> simp
@[simp] theorem retestBacklog_ss : s.retestBacklog.ss = s.ss := by
  unfold State.retestBacklog
  dsimp only
  split <;> simp
@[simp] theorem retestBacklog_pending : s.retestBacklog.pending = s.pending := by
  unfold State.retestBacklog
  dsimp only
  split <;> simp
@[simp] theorem retestBacklog_capture : s.retestBacklog.cc.state = s.cc.state := by
  unfold State.retestBacklog
  dsimp only
  split <;> simp
@[simp] theorem retestBacklog_openedAt : s.retestBacklog.cc.openedAt = s.cc.openedAt := by
  unfold State.retestBacklog
  dsimp only
  split <;> simp
@[simp] theorem retestBacklog_triggeredAt : s.retestBacklog.cc.triggeredAt = s.cc.triggeredAt := by
  unfold State.retestBacklog
  dsimp only
  split <;> simp
@[simp] theorem retestBacklog_lampsOffAt : s.retestBacklog.cc.lampsOffAt = s.cc.lampsOffAt := by
  unfold State.retestBacklog
  dsimp only
  split <;> simp
@[simp] theorem retestBacklog_elapsed : s.retestBacklog.cc.elapsed = s.cc.elapsed := by
  unfold State.retestBacklog
  dsimp only
  split <;> simp
@[simp] theorem retestBacklog_limitPassed : s.retestBacklog.cc.limitPassed = s.cc.limitPassed := by
  unfold State.retestBacklog
  dsimp only
  split <;> simp
@[simp] theorem retestBacklog_cut : s.retestBacklog.cc.cut = s.cc.cut := by
  unfold State.retestBacklog
  dsimp only
  split <;> simp
@[simp] theorem retestBacklog_camA : s.retestBacklog.cc.camA = s.cc.camA := by
  unfold State.retestBacklog
  dsimp only
  split <;> simp
@[simp] theorem retestBacklog_camB : s.retestBacklog.cc.camB = s.cc.camB := by
  unfold State.retestBacklog
  dsimp only
  split <;> simp
@[simp] theorem retestBacklog_oldest : s.retestBacklog.cc.oldest = s.cc.oldest := by
  unfold State.retestBacklog
  dsimp only
  split <;> simp
@[simp] theorem retestBacklog_nextSerial : s.retestBacklog.cc.nextSerial = s.cc.nextSerial := by
  unfold State.retestBacklog
  dsimp only
  split <;> simp
@[simp] theorem retestBacklog_tickets : s.retestBacklog.cc.tickets = s.cc.tickets := by
  unfold State.retestBacklog
  dsimp only
  split <;> simp
@[simp] theorem retestBacklog_sync : s.retestBacklog.cc.sync = s.cc.sync := by
  unfold State.retestBacklog
  dsimp only
  split <;> simp
@[simp] theorem retestBacklog_queue : s.retestBacklog.lk.queue = s.lk.queue := by
  unfold State.retestBacklog
  dsimp only
  split <;> simp
@[simp] theorem retestBacklog_rate : s.retestBacklog.lk.rate = s.lk.rate := by
  unfold State.retestBacklog
  dsimp only
  split <;> simp
@[simp] theorem retestBacklog_slot : s.retestBacklog.lk.slot = s.lk.slot := by
  unfold State.retestBacklog
  dsimp only
  split <;> simp
@[simp] theorem retestBacklog_inHand : s.retestBacklog.lk.inHand = s.lk.inHand := by
  unfold State.retestBacklog
  dsimp only
  split <;> simp
@[simp] theorem retestBacklog_resetTaken : s.retestBacklog.lk.resetTaken = s.lk.resetTaken := by
  unfold State.retestBacklog
  dsimp only
  split <;> simp
@[simp] theorem retestBacklog_sending : s.retestBacklog.lk.sending = s.lk.sending := by
  unfold State.retestBacklog
  dsimp only
  split <;> simp
end retestBacklog

section closeTicket
@[simp] theorem closeTicket_now : s.closeTicket.now = s.now := by
  unfold State.closeTicket
  split <;> simp [State.onOpenTicket, State.notify]
@[simp] theorem closeTicket_powered : s.closeTicket.powered = s.powered := by
  unfold State.closeTicket
  split <;> simp [State.onOpenTicket, State.notify]
@[simp] theorem closeTicket_start : s.closeTicket.start = s.start := by
  unfold State.closeTicket
  split <;> simp [State.onOpenTicket, State.notify]
@[simp] theorem closeTicket_pins : s.closeTicket.pins = s.pins := by
  unfold State.closeTicket
  split <;> simp [State.onOpenTicket, State.notify]
@[simp] theorem closeTicket_set : s.closeTicket.set = s.set := by
  unfold State.closeTicket
  split <;> simp [State.onOpenTicket, State.notify]
@[simp] theorem closeTicket_sau : s.closeTicket.sau = s.sau := by
  unfold State.closeTicket
  split <;> simp [State.onOpenTicket, State.notify]
@[simp] theorem closeTicket_tc : s.closeTicket.tc = s.tc := by
  unfold State.closeTicket
  split <;> simp [State.onOpenTicket, State.notify]
@[simp] theorem closeTicket_lc : s.closeTicket.lc = s.lc := by
  unfold State.closeTicket
  split <;> simp [State.onOpenTicket, State.notify]
@[simp] theorem closeTicket_di : s.closeTicket.di = s.di := by
  unfold State.closeTicket
  split <;> simp [State.onOpenTicket, State.notify]
@[simp] theorem closeTicket_ps : s.closeTicket.ps = s.ps := by
  unfold State.closeTicket
  split <;> simp [State.onOpenTicket, State.notify]
@[simp] theorem closeTicket_fb : s.closeTicket.fb = s.fb := by
  unfold State.closeTicket
  split <;> simp [State.onOpenTicket, State.notify]
@[simp] theorem closeTicket_ss : s.closeTicket.ss = s.ss := by
  unfold State.closeTicket
  split <;> simp [State.onOpenTicket, State.notify]
@[simp] theorem closeTicket_pending : s.closeTicket.pending = s.pending := by
  unfold State.closeTicket
  split <;> simp [State.onOpenTicket, State.notify]
@[simp] theorem closeTicket_nextSerial : s.closeTicket.cc.nextSerial = s.cc.nextSerial := by
  unfold State.closeTicket
  split <;> simp [State.onOpenTicket, State.notify]
@[simp] theorem closeTicket_sync : s.closeTicket.cc.sync = s.cc.sync := by
  unfold State.closeTicket
  split <;> simp [State.onOpenTicket, State.notify]
@[simp] theorem closeTicket_oldest : s.closeTicket.cc.oldest = s.cc.oldest := by
  unfold State.closeTicket
  split <;> simp [State.onOpenTicket, State.notify]
@[simp] theorem closeTicket_openedAt : s.closeTicket.cc.openedAt = s.cc.openedAt := by
  unfold State.closeTicket
  split <;> simp [State.onOpenTicket, State.notify]
@[simp] theorem closeTicket_run : s.closeTicket.rc.state = s.rc.state := by
  unfold State.closeTicket
  split <;> simp [State.onOpenTicket, State.notify]
@[simp] theorem closeTicket_volumeSkips : s.closeTicket.rc.volumeSkips = s.rc.volumeSkips := by
  unfold State.closeTicket
  split <;> simp [State.onOpenTicket, State.notify]
@[simp] theorem closeTicket_heardEnd : s.closeTicket.rc.heardEnd = s.rc.heardEnd := by
  unfold State.closeTicket
  split <;> simp [State.onOpenTicket, State.notify]
@[simp] theorem closeTicket_phase : s.closeTicket.rc.phase = s.rc.phase := by
  unfold State.closeTicket
  split <;> simp [State.onOpenTicket, State.notify]
@[simp] theorem closeTicket_queue : s.closeTicket.lk.queue = s.lk.queue := by
  unfold State.closeTicket
  split <;> simp [State.onOpenTicket, State.notify]
@[simp] theorem closeTicket_rate : s.closeTicket.lk.rate = s.lk.rate := by
  unfold State.closeTicket
  split <;> simp [State.onOpenTicket, State.notify]
@[simp] theorem closeTicket_slot : s.closeTicket.lk.slot = s.lk.slot := by
  unfold State.closeTicket
  split <;> simp [State.onOpenTicket, State.notify]
@[simp] theorem closeTicket_inHand : s.closeTicket.lk.inHand = s.lk.inHand := by
  unfold State.closeTicket
  split <;> simp [State.onOpenTicket, State.notify]
@[simp] theorem closeTicket_resetTaken : s.closeTicket.lk.resetTaken = s.lk.resetTaken := by
  unfold State.closeTicket
  split <;> simp [State.onOpenTicket, State.notify]
@[simp] theorem closeTicket_sending : s.closeTicket.lk.sending = s.lk.sending := by
  unfold State.closeTicket
  split <;> simp [State.onOpenTicket, State.notify]
end closeTicket

section abandonCapture
@[simp] theorem abandonCapture_now : s.abandonCapture.now = s.now := by
  unfold State.abandonCapture
  split <;> simp [State.onOpenTicket]
@[simp] theorem abandonCapture_powered : s.abandonCapture.powered = s.powered := by
  unfold State.abandonCapture
  split <;> simp [State.onOpenTicket]
@[simp] theorem abandonCapture_start : s.abandonCapture.start = s.start := by
  unfold State.abandonCapture
  split <;> simp [State.onOpenTicket]
@[simp] theorem abandonCapture_pins : s.abandonCapture.pins = s.pins := by
  unfold State.abandonCapture
  split <;> simp [State.onOpenTicket]
@[simp] theorem abandonCapture_set : s.abandonCapture.set = s.set := by
  unfold State.abandonCapture
  split <;> simp [State.onOpenTicket]
@[simp] theorem abandonCapture_sau : s.abandonCapture.sau = s.sau := by
  unfold State.abandonCapture
  split <;> simp [State.onOpenTicket]
@[simp] theorem abandonCapture_tc : s.abandonCapture.tc = s.tc := by
  unfold State.abandonCapture
  split <;> simp [State.onOpenTicket]
@[simp] theorem abandonCapture_ps : s.abandonCapture.ps = s.ps := by
  unfold State.abandonCapture
  split <;> simp [State.onOpenTicket]
@[simp] theorem abandonCapture_fb : s.abandonCapture.fb = s.fb := by
  unfold State.abandonCapture
  split <;> simp [State.onOpenTicket]
@[simp] theorem abandonCapture_ss : s.abandonCapture.ss = s.ss := by
  unfold State.abandonCapture
  split <;> simp [State.onOpenTicket]
@[simp] theorem abandonCapture_pending : s.abandonCapture.pending = s.pending := by
  unfold State.abandonCapture
  split <;> simp [State.onOpenTicket]
@[simp] theorem abandonCapture_nextSerial : s.abandonCapture.cc.nextSerial = s.cc.nextSerial := by
  unfold State.abandonCapture
  split <;> simp [State.onOpenTicket]
@[simp] theorem abandonCapture_sync : s.abandonCapture.cc.sync = s.cc.sync := by
  unfold State.abandonCapture
  split <;> simp [State.onOpenTicket]
@[simp] theorem abandonCapture_oldest : s.abandonCapture.cc.oldest = s.cc.oldest := by
  unfold State.abandonCapture
  split <;> simp [State.onOpenTicket]
@[simp] theorem abandonCapture_dayStart : s.abandonCapture.di.dayStart = s.di.dayStart := by
  unfold State.abandonCapture
  split <;> simp [State.onOpenTicket]
@[simp] theorem abandonCapture_alarm : s.abandonCapture.di.alarm = s.di.alarm := by
  unfold State.abandonCapture
  split <;> simp [State.onOpenTicket]
@[simp] theorem abandonCapture_remainder : s.abandonCapture.di.remainder = s.di.remainder := by
  unfold State.abandonCapture
  split <;> simp [State.onOpenTicket]
@[simp] theorem abandonCapture_dayDose : s.abandonCapture.di.dayDose = s.di.dayDose := by
  unfold State.abandonCapture
  split <;> simp [State.onOpenTicket]
@[simp] theorem abandonCapture_carry : s.abandonCapture.di.carry = s.di.carry := by
  unfold State.abandonCapture
  split <;> simp [State.onOpenTicket]
@[simp] theorem abandonCapture_carriedIn : s.abandonCapture.di.carriedIn = s.di.carriedIn := by
  unfold State.abandonCapture
  split <;> simp [State.onOpenTicket]
@[simp] theorem abandonCapture_volumeSkips : s.abandonCapture.rc.volumeSkips = s.rc.volumeSkips := by
  unfold State.abandonCapture
  split <;> simp [State.onOpenTicket]
@[simp] theorem abandonCapture_run : s.abandonCapture.rc.state = s.rc.state := by
  unfold State.abandonCapture
  split <;> simp [State.onOpenTicket]
@[simp] theorem abandonCapture_heardEnd : s.abandonCapture.rc.heardEnd = s.rc.heardEnd := by
  unfold State.abandonCapture
  split <;> simp [State.onOpenTicket]
@[simp] theorem abandonCapture_phase : s.abandonCapture.rc.phase = s.rc.phase := by
  unfold State.abandonCapture
  split <;> simp [State.onOpenTicket]
@[simp] theorem abandonCapture_queue : s.abandonCapture.lk.queue = s.lk.queue := by
  unfold State.abandonCapture
  split <;> simp [State.onOpenTicket]
@[simp] theorem abandonCapture_rate : s.abandonCapture.lk.rate = s.lk.rate := by
  unfold State.abandonCapture
  split <;> simp [State.onOpenTicket]
@[simp] theorem abandonCapture_slot : s.abandonCapture.lk.slot = s.lk.slot := by
  unfold State.abandonCapture
  split <;> simp [State.onOpenTicket]
@[simp] theorem abandonCapture_inHand : s.abandonCapture.lk.inHand = s.lk.inHand := by
  unfold State.abandonCapture
  split <;> simp [State.onOpenTicket]
@[simp] theorem abandonCapture_resetTaken : s.abandonCapture.lk.resetTaken = s.lk.resetTaken := by
  unfold State.abandonCapture
  split <;> simp [State.onOpenTicket]
@[simp] theorem abandonCapture_sending : s.abandonCapture.lk.sending = s.lk.sending := by
  unfold State.abandonCapture
  split <;> simp [State.onOpenTicket]
/-- An abandoned capture leaves CC idle. -/
@[simp] theorem abandonCapture_capture : s.abandonCapture.cc.state = .idle := by
  unfold State.abandonCapture
  split
  · assumption
  · rfl
@[simp] theorem abandonCapture_preview : s.abandonCapture.lc.preview = s.lc.preview := by
  unfold State.abandonCapture
  split
  · rfl
  · simp [State.onOpenTicket, endWindow_previewOf]
end abandonCapture

section handOffDose
variable (v : Volume)
@[simp] theorem handOffDose_now : (s.handOffDose v).now = s.now := by
  simp [State.handOffDose]
@[simp] theorem handOffDose_powered : (s.handOffDose v).powered = s.powered := by
  simp [State.handOffDose]
@[simp] theorem handOffDose_start : (s.handOffDose v).start = s.start := by
  simp [State.handOffDose]
@[simp] theorem handOffDose_pins : (s.handOffDose v).pins = s.pins := by
  simp [State.handOffDose]
@[simp] theorem handOffDose_set : (s.handOffDose v).set = s.set := by
  simp [State.handOffDose]
@[simp] theorem handOffDose_sau : (s.handOffDose v).sau = s.sau := by
  simp [State.handOffDose]
@[simp] theorem handOffDose_tc : (s.handOffDose v).tc = s.tc := by
  simp [State.handOffDose]
@[simp] theorem handOffDose_lc : (s.handOffDose v).lc = s.lc := by
  simp [State.handOffDose]
@[simp] theorem handOffDose_cc : (s.handOffDose v).cc = s.cc := by
  simp [State.handOffDose]
@[simp] theorem handOffDose_rc : (s.handOffDose v).rc = s.rc := by
  simp [State.handOffDose]
@[simp] theorem handOffDose_ps : (s.handOffDose v).ps = s.ps := by
  simp [State.handOffDose]
@[simp] theorem handOffDose_ss : (s.handOffDose v).ss = s.ss := by
  simp [State.handOffDose]
@[simp] theorem handOffDose_pending : (s.handOffDose v).pending = s.pending := by
  simp [State.handOffDose]
@[simp] theorem handOffDose_dayStart : (s.handOffDose v).di.dayStart = s.di.dayStart := by
  unfold State.handOffDose
  dsimp only
  rw [appendCarry_di]
@[simp] theorem handOffDose_alarm : (s.handOffDose v).di.alarm = s.di.alarm := by
  unfold State.handOffDose
  dsimp only
  rw [appendCarry_di]
@[simp] theorem handOffDose_remainder : (s.handOffDose v).di.remainder = s.di.remainder := by
  unfold State.handOffDose
  dsimp only
  rw [appendCarry_di]
@[simp] theorem handOffDose_sensorDark : (s.handOffDose v).di.sensorDark = s.di.sensorDark := by
  unfold State.handOffDose
  dsimp only
  rw [appendCarry_di]
@[simp] theorem handOffDose_raw : (s.handOffDose v).di.raw = s.di.raw := by
  unfold State.handOffDose
  dsimp only
  rw [appendCarry_di]
@[simp] theorem handOffDose_lux : (s.handOffDose v).di.lux = s.di.lux := by
  unfold State.handOffDose
  dsimp only
  rw [appendCarry_di]
@[simp] theorem handOffDose_queue : (s.handOffDose v).lk.queue = s.lk.queue := by
  simp [State.handOffDose]
@[simp] theorem handOffDose_rate : (s.handOffDose v).lk.rate = s.lk.rate := by
  simp [State.handOffDose]
@[simp] theorem handOffDose_slot : (s.handOffDose v).lk.slot = s.lk.slot := by
  simp [State.handOffDose]
@[simp] theorem handOffDose_inHand : (s.handOffDose v).lk.inHand = s.lk.inHand := by
  simp [State.handOffDose]
@[simp] theorem handOffDose_resetTaken : (s.handOffDose v).lk.resetTaken = s.lk.resetTaken := by
  simp [State.handOffDose]
@[simp] theorem handOffDose_sending : (s.handOffDose v).lk.sending = s.lk.sending := by
  simp [State.handOffDose]
end handOffDose

section completeDismount
variable (c : TallyCause)
@[simp] theorem completeDismount_now : (s.completeDismount c).now = s.now := by
  unfold State.completeDismount
  split
  · rfl
  · dsimp only
    split <;> simp [State.forceSides, State.orphan]
@[simp] theorem completeDismount_powered : (s.completeDismount c).powered = s.powered := by
  unfold State.completeDismount
  split
  · rfl
  · dsimp only
    split <;> simp [State.forceSides, State.orphan]
@[simp] theorem completeDismount_start : (s.completeDismount c).start = s.start := by
  unfold State.completeDismount
  split
  · rfl
  · dsimp only
    split <;> simp [State.forceSides, State.orphan]
@[simp] theorem completeDismount_pins : (s.completeDismount c).pins = s.pins := by
  unfold State.completeDismount
  split
  · rfl
  · dsimp only
    split <;> simp [State.forceSides, State.orphan]
@[simp] theorem completeDismount_set : (s.completeDismount c).set = s.set := by
  unfold State.completeDismount
  split
  · rfl
  · dsimp only
    split <;> simp [State.forceSides, State.orphan]
@[simp] theorem completeDismount_ps : (s.completeDismount c).ps = s.ps := by
  unfold State.completeDismount
  split
  · rfl
  · dsimp only
    split <;> simp [State.forceSides, State.orphan]
@[simp] theorem completeDismount_ss : (s.completeDismount c).ss = s.ss := by
  unfold State.completeDismount
  split
  · rfl
  · dsimp only
    split <;> simp [State.forceSides, State.orphan]
@[simp] theorem completeDismount_pending : (s.completeDismount c).pending = s.pending := by
  unfold State.completeDismount
  split
  · rfl
  · dsimp only
    split <;> simp [State.forceSides, State.orphan]
@[simp] theorem completeDismount_mountCounter : (s.completeDismount c).sau.mountCounter = s.sau.mountCounter := by
  unfold State.completeDismount
  split
  · rfl
  · dsimp only
    split <;> simp [State.forceSides, State.orphan]
@[simp] theorem completeDismount_dayStart : (s.completeDismount c).di.dayStart = s.di.dayStart := by
  unfold State.completeDismount
  split
  · rfl
  · dsimp only
    split <;> simp [State.forceSides, State.orphan]
@[simp] theorem completeDismount_alarm : (s.completeDismount c).di.alarm = s.di.alarm := by
  unfold State.completeDismount
  split
  · rfl
  · dsimp only
    split <;> simp [State.forceSides, State.orphan]
@[simp] theorem completeDismount_remainder : (s.completeDismount c).di.remainder = s.di.remainder := by
  unfold State.completeDismount
  split
  · rfl
  · dsimp only
    split <;> simp [State.forceSides, State.orphan]
@[simp] theorem completeDismount_sensorDark : (s.completeDismount c).di.sensorDark = s.di.sensorDark := by
  unfold State.completeDismount
  split
  · rfl
  · dsimp only
    split <;> simp [State.forceSides, State.orphan]
@[simp] theorem completeDismount_heardClose : (s.completeDismount c).rc.heardClose = s.rc.heardClose := by
  unfold State.completeDismount
  split
  · rfl
  · dsimp only
    split <;> simp [State.forceSides, State.orphan]
@[simp] theorem completeDismount_capture : (s.completeDismount c).cc.state = s.cc.state := by
  unfold State.completeDismount
  split
  · rfl
  · dsimp only
    split <;> simp [State.forceSides, State.orphan]
@[simp] theorem completeDismount_nextSerial : (s.completeDismount c).cc.nextSerial = s.cc.nextSerial := by
  unfold State.completeDismount
  split
  · rfl
  · dsimp only
    split <;> simp [State.forceSides, State.orphan]
@[simp] theorem completeDismount_sync : (s.completeDismount c).cc.sync = s.cc.sync := by
  unfold State.completeDismount
  split
  · rfl
  · dsimp only
    split <;> simp [State.forceSides, State.orphan]
@[simp] theorem completeDismount_oldest : (s.completeDismount c).cc.oldest = s.cc.oldest := by
  unfold State.completeDismount
  split
  · rfl
  · dsimp only
    split <;> simp [State.forceSides, State.orphan]
@[simp] theorem completeDismount_backlog : (s.completeDismount c).cc.backlog = s.cc.backlog := by
  unfold State.completeDismount
  split
  · rfl
  · dsimp only
    split <;> simp [State.forceSides, State.orphan]
@[simp] theorem completeDismount_run : (s.completeDismount c).rc.state = s.rc.state := by
  unfold State.completeDismount
  split
  · rfl
  · dsimp only
    split <;> simp [State.forceSides, State.orphan]
@[simp] theorem completeDismount_heardEnd : (s.completeDismount c).rc.heardEnd = s.rc.heardEnd := by
  unfold State.completeDismount
  split
  · rfl
  · dsimp only
    split <;> simp [State.forceSides, State.orphan]
@[simp] theorem completeDismount_phase : (s.completeDismount c).rc.phase = s.rc.phase := by
  unfold State.completeDismount
  split
  · rfl
  · dsimp only
    split <;> simp [State.forceSides, State.orphan]
@[simp] theorem completeDismount_queue : (s.completeDismount c).lk.queue = s.lk.queue := by
  unfold State.completeDismount
  split
  · rfl
  · dsimp only
    split <;> simp [State.forceSides, State.orphan]
@[simp] theorem completeDismount_rate : (s.completeDismount c).lk.rate = s.lk.rate := by
  unfold State.completeDismount
  split
  · rfl
  · dsimp only
    split <;> simp [State.forceSides, State.orphan]
@[simp] theorem completeDismount_slot : (s.completeDismount c).lk.slot = s.lk.slot := by
  unfold State.completeDismount
  split
  · rfl
  · dsimp only
    split <;> simp [State.forceSides, State.orphan]
@[simp] theorem completeDismount_inHand : (s.completeDismount c).lk.inHand = s.lk.inHand := by
  unfold State.completeDismount
  split
  · rfl
  · dsimp only
    split <;> simp [State.forceSides, State.orphan]
@[simp] theorem completeDismount_resetTaken : (s.completeDismount c).lk.resetTaken = s.lk.resetTaken := by
  unfold State.completeDismount
  split
  · rfl
  · dsimp only
    split <;> simp [State.forceSides, State.orphan]
@[simp] theorem completeDismount_sending : (s.completeDismount c).lk.sending = s.lk.sending := by
  unfold State.completeDismount
  split
  · rfl
  · dsimp only
    split <;> simp [State.forceSides, State.orphan]
end completeDismount

section completeResetDismount
@[simp] theorem completeResetDismount_now : s.completeResetDismount.now = s.now := by
  simp [State.completeResetDismount]
@[simp] theorem completeResetDismount_powered : s.completeResetDismount.powered = s.powered := by
  simp [State.completeResetDismount]
@[simp] theorem completeResetDismount_start : s.completeResetDismount.start = s.start := by
  simp [State.completeResetDismount]
@[simp] theorem completeResetDismount_pins : s.completeResetDismount.pins = s.pins := by
  simp [State.completeResetDismount]
@[simp] theorem completeResetDismount_set : s.completeResetDismount.set = s.set := by
  simp [State.completeResetDismount]
@[simp] theorem completeResetDismount_lc : s.completeResetDismount.lc = s.lc := by
  simp [State.completeResetDismount]
@[simp] theorem completeResetDismount_ps : s.completeResetDismount.ps = s.ps := by
  simp [State.completeResetDismount]
@[simp] theorem completeResetDismount_ss : s.completeResetDismount.ss = s.ss := by
  simp [State.completeResetDismount]
@[simp] theorem completeResetDismount_pending : s.completeResetDismount.pending = s.pending := by
  simp [State.completeResetDismount]
@[simp] theorem completeResetDismount_mountCounter : s.completeResetDismount.sau.mountCounter = s.sau.mountCounter := by
  simp [State.completeResetDismount]
@[simp] theorem completeResetDismount_dayStart : s.completeResetDismount.di.dayStart = s.di.dayStart := by
  simp [State.completeResetDismount]
@[simp] theorem completeResetDismount_alarm : s.completeResetDismount.di.alarm = s.di.alarm := by
  simp [State.completeResetDismount]
@[simp] theorem completeResetDismount_remainder : s.completeResetDismount.di.remainder = s.di.remainder := by
  simp [State.completeResetDismount]
@[simp] theorem completeResetDismount_sensorDark : s.completeResetDismount.di.sensorDark = s.di.sensorDark := by
  simp [State.completeResetDismount]
@[simp] theorem completeResetDismount_heardClose : s.completeResetDismount.rc.heardClose = s.rc.heardClose := by
  simp [State.completeResetDismount]
@[simp] theorem completeResetDismount_capture : s.completeResetDismount.cc.state = s.cc.state := by
  simp [State.completeResetDismount]
@[simp] theorem completeResetDismount_nextSerial : s.completeResetDismount.cc.nextSerial = s.cc.nextSerial := by
  simp [State.completeResetDismount]
@[simp] theorem completeResetDismount_sync : s.completeResetDismount.cc.sync = s.cc.sync := by
  simp [State.completeResetDismount]
@[simp] theorem completeResetDismount_oldest : s.completeResetDismount.cc.oldest = s.cc.oldest := by
  simp [State.completeResetDismount]
@[simp] theorem completeResetDismount_backlog : s.completeResetDismount.cc.backlog = s.cc.backlog := by
  simp [State.completeResetDismount]
@[simp] theorem completeResetDismount_run : s.completeResetDismount.rc.state = s.rc.state := by
  simp [State.completeResetDismount]
@[simp] theorem completeResetDismount_heardEnd : s.completeResetDismount.rc.heardEnd = s.rc.heardEnd := by
  simp [State.completeResetDismount]
@[simp] theorem completeResetDismount_phase : s.completeResetDismount.rc.phase = s.rc.phase := by
  simp [State.completeResetDismount]
@[simp] theorem completeResetDismount_queue : s.completeResetDismount.lk.queue = s.lk.queue := by
  simp [State.completeResetDismount]
@[simp] theorem completeResetDismount_rate : s.completeResetDismount.lk.rate = s.lk.rate := by
  simp [State.completeResetDismount]
@[simp] theorem completeResetDismount_slot : s.completeResetDismount.lk.slot = s.lk.slot := by
  simp [State.completeResetDismount]
@[simp] theorem completeResetDismount_inHand : s.completeResetDismount.lk.inHand = s.lk.inHand := by
  simp [State.completeResetDismount]
@[simp] theorem completeResetDismount_resetTaken : s.completeResetDismount.lk.resetTaken = s.lk.resetTaken := by
  simp [State.completeResetDismount]
@[simp] theorem completeResetDismount_sending : s.completeResetDismount.lk.sending = s.lk.sending := by
  simp [State.completeResetDismount]
end completeResetDismount

/-! ### Regulation (03 R61) -/

section step
variable (e target now shown : Nat) (b : BankRec)
@[simp] theorem step_kind : (b.step e target now shown).kind = b.kind := by
  unfold BankRec.step
  dsimp only
  split <;> rfl

/-- A lit bank takes the stepped level; a dark one keeps its own. -/
theorem step_level : (b.step e target now shown).level = if b.lit then steppedLevel e target b.level else b.level := by
  unfold BankRec.step
  dsimp only
  generalize steppedLevel e target b.level = l
  cases hb : b.lit
  · simp
  · by_cases hl : l = b.level
    · simp [hl]
    · simp [hl]
end step

/-- With no raise deferred there is none to begin (02 R41). -/
theorem deferredRaise_none {s : State} (h1 : s.tc.pendingOverforce = false) (h2 : s.tc.pendingDwell = false) :
    s.deferredRaise = s := by
  simp [State.deferredRaise, h1, h2]

/-- With no raise deferred, a close is the ticket's close alone. -/
theorem closeCapture_plain {s : State} (h1 : s.tc.pendingOverforce = false) (h2 : s.tc.pendingDwell = false) :
    s.closeCapture = s.closeTicket := by
  rw [State.closeCapture, deferredRaise_none]
  · simpa using h1
  · simpa using h2

/-! ### Cuts with no raise deferred (05 R121) -/

section cutCapture
variable {s : State} (h1 : s.tc.pendingOverforce = false) (h2 : s.tc.pendingDwell = false) (r : SideResult)
include h1 h2

theorem cutCapture_now : (s.cutCapture r).now = s.now := by
  unfold State.cutCapture
  split
  · rfl
  · rw [closeCapture_plain (by simpa using h1) (by simpa using h2)]
    simp [State.onOpenTicket]
  · rw [closeCapture_plain (by simpa using h1) (by simpa using h2)]
    simp [State.onOpenTicket]
  · simp [State.onOpenTicket]
  · split
    · unfold State.tryClose
      dsimp only
      split
      · rw [closeCapture_plain (by simpa using h1) (by simpa using h2)]
        simp [State.onOpenTicket]
      · rfl
    · rfl
theorem cutCapture_powered : (s.cutCapture r).powered = s.powered := by
  unfold State.cutCapture
  split
  · rfl
  · rw [closeCapture_plain (by simpa using h1) (by simpa using h2)]
    simp [State.onOpenTicket]
  · rw [closeCapture_plain (by simpa using h1) (by simpa using h2)]
    simp [State.onOpenTicket]
  · simp [State.onOpenTicket]
  · split
    · unfold State.tryClose
      dsimp only
      split
      · rw [closeCapture_plain (by simpa using h1) (by simpa using h2)]
        simp [State.onOpenTicket]
      · rfl
    · rfl
theorem cutCapture_start : (s.cutCapture r).start = s.start := by
  unfold State.cutCapture
  split
  · rfl
  · rw [closeCapture_plain (by simpa using h1) (by simpa using h2)]
    simp [State.onOpenTicket]
  · rw [closeCapture_plain (by simpa using h1) (by simpa using h2)]
    simp [State.onOpenTicket]
  · simp [State.onOpenTicket]
  · split
    · unfold State.tryClose
      dsimp only
      split
      · rw [closeCapture_plain (by simpa using h1) (by simpa using h2)]
        simp [State.onOpenTicket]
      · rfl
    · rfl
theorem cutCapture_pins : (s.cutCapture r).pins = s.pins := by
  unfold State.cutCapture
  split
  · rfl
  · rw [closeCapture_plain (by simpa using h1) (by simpa using h2)]
    simp [State.onOpenTicket]
  · rw [closeCapture_plain (by simpa using h1) (by simpa using h2)]
    simp [State.onOpenTicket]
  · simp [State.onOpenTicket]
  · split
    · unfold State.tryClose
      dsimp only
      split
      · rw [closeCapture_plain (by simpa using h1) (by simpa using h2)]
        simp [State.onOpenTicket]
      · rfl
    · rfl
theorem cutCapture_set : (s.cutCapture r).set = s.set := by
  unfold State.cutCapture
  split
  · rfl
  · rw [closeCapture_plain (by simpa using h1) (by simpa using h2)]
    simp [State.onOpenTicket]
  · rw [closeCapture_plain (by simpa using h1) (by simpa using h2)]
    simp [State.onOpenTicket]
  · simp [State.onOpenTicket]
  · split
    · unfold State.tryClose
      dsimp only
      split
      · rw [closeCapture_plain (by simpa using h1) (by simpa using h2)]
        simp [State.onOpenTicket]
      · rfl
    · rfl
theorem cutCapture_sau : (s.cutCapture r).sau = s.sau := by
  unfold State.cutCapture
  split
  · rfl
  · rw [closeCapture_plain (by simpa using h1) (by simpa using h2)]
    simp [State.onOpenTicket]
  · rw [closeCapture_plain (by simpa using h1) (by simpa using h2)]
    simp [State.onOpenTicket]
  · simp [State.onOpenTicket]
  · split
    · unfold State.tryClose
      dsimp only
      split
      · rw [closeCapture_plain (by simpa using h1) (by simpa using h2)]
        simp [State.onOpenTicket]
      · rfl
    · rfl
theorem cutCapture_tc : (s.cutCapture r).tc = s.tc := by
  unfold State.cutCapture
  split
  · rfl
  · rw [closeCapture_plain (by simpa using h1) (by simpa using h2)]
    simp [State.onOpenTicket]
  · rw [closeCapture_plain (by simpa using h1) (by simpa using h2)]
    simp [State.onOpenTicket]
  · simp [State.onOpenTicket]
  · split
    · unfold State.tryClose
      dsimp only
      split
      · rw [closeCapture_plain (by simpa using h1) (by simpa using h2)]
        simp [State.onOpenTicket]
      · rfl
    · rfl
theorem cutCapture_ps : (s.cutCapture r).ps = s.ps := by
  unfold State.cutCapture
  split
  · rfl
  · rw [closeCapture_plain (by simpa using h1) (by simpa using h2)]
    simp [State.onOpenTicket]
  · rw [closeCapture_plain (by simpa using h1) (by simpa using h2)]
    simp [State.onOpenTicket]
  · simp [State.onOpenTicket]
  · split
    · unfold State.tryClose
      dsimp only
      split
      · rw [closeCapture_plain (by simpa using h1) (by simpa using h2)]
        simp [State.onOpenTicket]
      · rfl
    · rfl
theorem cutCapture_fb : (s.cutCapture r).fb = s.fb := by
  unfold State.cutCapture
  split
  · rfl
  · rw [closeCapture_plain (by simpa using h1) (by simpa using h2)]
    simp [State.onOpenTicket]
  · rw [closeCapture_plain (by simpa using h1) (by simpa using h2)]
    simp [State.onOpenTicket]
  · simp [State.onOpenTicket]
  · split
    · unfold State.tryClose
      dsimp only
      split
      · rw [closeCapture_plain (by simpa using h1) (by simpa using h2)]
        simp [State.onOpenTicket]
      · rfl
    · rfl
theorem cutCapture_ss : (s.cutCapture r).ss = s.ss := by
  unfold State.cutCapture
  split
  · rfl
  · rw [closeCapture_plain (by simpa using h1) (by simpa using h2)]
    simp [State.onOpenTicket]
  · rw [closeCapture_plain (by simpa using h1) (by simpa using h2)]
    simp [State.onOpenTicket]
  · simp [State.onOpenTicket]
  · split
    · unfold State.tryClose
      dsimp only
      split
      · rw [closeCapture_plain (by simpa using h1) (by simpa using h2)]
        simp [State.onOpenTicket]
      · rfl
    · rfl
theorem cutCapture_pending : (s.cutCapture r).pending = s.pending := by
  unfold State.cutCapture
  split
  · rfl
  · rw [closeCapture_plain (by simpa using h1) (by simpa using h2)]
    simp [State.onOpenTicket]
  · rw [closeCapture_plain (by simpa using h1) (by simpa using h2)]
    simp [State.onOpenTicket]
  · simp [State.onOpenTicket]
  · split
    · unfold State.tryClose
      dsimp only
      split
      · rw [closeCapture_plain (by simpa using h1) (by simpa using h2)]
        simp [State.onOpenTicket]
      · rfl
    · rfl
theorem cutCapture_run : (s.cutCapture r).rc.state = s.rc.state := by
  unfold State.cutCapture
  split
  · rfl
  · rw [closeCapture_plain (by simpa using h1) (by simpa using h2)]
    simp [State.onOpenTicket]
  · rw [closeCapture_plain (by simpa using h1) (by simpa using h2)]
    simp [State.onOpenTicket]
  · simp [State.onOpenTicket]
  · split
    · unfold State.tryClose
      dsimp only
      split
      · rw [closeCapture_plain (by simpa using h1) (by simpa using h2)]
        simp [State.onOpenTicket]
      · rfl
    · rfl
theorem cutCapture_queue : (s.cutCapture r).lk.queue = s.lk.queue := by
  unfold State.cutCapture
  split
  · rfl
  · rw [closeCapture_plain (by simpa using h1) (by simpa using h2)]
    simp [State.onOpenTicket]
  · rw [closeCapture_plain (by simpa using h1) (by simpa using h2)]
    simp [State.onOpenTicket]
  · simp [State.onOpenTicket]
  · split
    · unfold State.tryClose
      dsimp only
      split
      · rw [closeCapture_plain (by simpa using h1) (by simpa using h2)]
        simp [State.onOpenTicket]
      · rfl
    · rfl
theorem cutCapture_rate : (s.cutCapture r).lk.rate = s.lk.rate := by
  unfold State.cutCapture
  split
  · rfl
  · rw [closeCapture_plain (by simpa using h1) (by simpa using h2)]
    simp [State.onOpenTicket]
  · rw [closeCapture_plain (by simpa using h1) (by simpa using h2)]
    simp [State.onOpenTicket]
  · simp [State.onOpenTicket]
  · split
    · unfold State.tryClose
      dsimp only
      split
      · rw [closeCapture_plain (by simpa using h1) (by simpa using h2)]
        simp [State.onOpenTicket]
      · rfl
    · rfl
theorem cutCapture_preview : (s.cutCapture r).lc.preview = s.lc.preview := by
  unfold State.cutCapture
  split
  · rfl
  · rw [closeCapture_plain (by simpa using h1) (by simpa using h2)]
    simp [State.onOpenTicket, endWindow_previewOf]
  · rw [closeCapture_plain (by simpa using h1) (by simpa using h2)]
    simp [State.onOpenTicket, endWindow_previewOf]
  · simp [State.onOpenTicket, endWindow_previewOf]
  · split
    · unfold State.tryClose
      dsimp only
      split
      · rw [closeCapture_plain (by simpa using h1) (by simpa using h2)]
        simp [State.onOpenTicket]
      · rfl
    · rfl
theorem cutCapture_sync : (s.cutCapture r).cc.sync = s.cc.sync := by
  unfold State.cutCapture
  split
  · rfl
  · rw [closeCapture_plain (by simpa using h1) (by simpa using h2)]
    simp [State.onOpenTicket]
  · rw [closeCapture_plain (by simpa using h1) (by simpa using h2)]
    simp [State.onOpenTicket]
  · simp [State.onOpenTicket]
  · split
    · unfold State.tryClose
      dsimp only
      split
      · rw [closeCapture_plain (by simpa using h1) (by simpa using h2)]
        simp [State.onOpenTicket]
      · rfl
    · rfl
theorem cutCapture_nextSerial : (s.cutCapture r).cc.nextSerial = s.cc.nextSerial := by
  unfold State.cutCapture
  split
  · rfl
  · rw [closeCapture_plain (by simpa using h1) (by simpa using h2)]
    simp [State.onOpenTicket]
  · rw [closeCapture_plain (by simpa using h1) (by simpa using h2)]
    simp [State.onOpenTicket]
  · simp [State.onOpenTicket]
  · split
    · unfold State.tryClose
      dsimp only
      split
      · rw [closeCapture_plain (by simpa using h1) (by simpa using h2)]
        simp [State.onOpenTicket]
      · rfl
    · rfl
end cutCapture

end Sys2Proof.Machine
end

