-- ==== Sys2Proof/Laws/Accounts.lean ====
section
/-! SUPPORT. What the operations on a volume's account do: the opening table (01 R18), the side states, the doses charged
below the warning level (04 R80, R84), the search of the pattern table (01 R3), the end of a lit preview (03 R70), and the
tally of a volume (08 R166, R167). -/

set_option Elab.async false

namespace Sys2Proof.Machine

/-! ### The opening table -/

/-- The entry of an opening after one entry has been changed. -/
theorem openingAt_update (l : List Opening) (i j : Nat) (g : Opening → Opening) :
    openingAt (updateOpening i g l) j = if j = i ∧ i < l.length then g (openingAt l i) else openingAt l j := by
  unfold updateOpening openingAt
  rw [List.getD_eq_getElem?_getD, List.getElem?_set]
  split
  · rename_i h
    subst h
    split
    · simp_all
    · simp_all
  · rename_i h
    rw [if_neg (by omega)]
    simp

/-- Changing an entry, as the list's own operation. -/
theorem updateOpening_modify (l : List Opening) (i : Nat) (g : Opening → Opening) :
    updateOpening i g l = l.modify i g := by
  apply List.ext_getElem?
  intro j
  unfold updateOpening openingAt
  rw [List.getElem?_set, List.getElem?_modify]
  split
  · rename_i h
    subst h
    split
    · rename_i h
      simp [List.getD_eq_getElem?_getD, List.getElem?_eq_getElem h]
    · rename_i h
      simp [List.getElem?_eq_none (Nat.le_of_not_lt h)]
  · simp

/-- Setting a side, as the list's own operation. -/
theorem setSideIn_modify (d : Direction) (l : List Opening) (side : Nat) (st : SideState) :
    setSideIn d l side st = l.modify (side / 2) (withSide d side st) :=
  updateOpening_modify l _ _

/-- A change that leaves the entry as it is. -/
theorem modify_same {α : Type} {l : List α} {i : Nat} {g : α → α} (h : ∀ o, l[i]? = some o → g o = o) :
    l.modify i g = l := by
  apply List.ext_getElem?
  intro j
  rw [List.getElem?_modify]
  split
  · rename_i e
    subst e
    cases ho : l[i]? with
    | none => rfl
    | some o => simp [h o ho]
  · simp

/-- Setting a side to the state it has changes nothing. -/
theorem setSide_same (d : Direction) (l : List Opening) (side : Nat) {st : SideState} (h : sideStateIn d l side = st) :
    l.modify (side / 2) (withSide d side st) = l := by
  apply modify_same
  intro o ho
  have : openingAt l (side / 2) = o := by
    rw [openingAt, List.getD_eq_getElem?_getD, ho]
    rfl
  subst h
  simp only [sideStateIn, this, withSide]
  split <;> rfl

/-- The state of a side after one side has been set (R18). -/
theorem sideState_set (d : Direction) (l : List Opening) (a b : Nat) (st : SideState) :
    sideStateIn d (setSideIn d l a st) b = if b = a ∧ a / 2 < l.length then st else sideStateIn d l b := by
  have e : openingAt (updateOpening (a / 2) (fun o => if onLeft d a then { o with left := st }
      else { o with right := st }) l) (b / 2) = _ := openingAt_update _ _ _ _
  unfold sideStateIn setSideIn
  dsimp only
  rw [e]
  by_cases hb : b / 2 = a / 2 ∧ a / 2 < l.length
  · rw [if_pos hb]
    have hab : (b = a ∧ a / 2 < l.length) ↔ b % 2 = a % 2 := by omega
    rw [hb.1]
    cases d <;> rcases Nat.mod_two_eq_zero_or_one a with ha | ha <;>
      rcases Nat.mod_two_eq_zero_or_one b with hb2 | hb2 <;> simp [onLeft, ha, hb2, hab]
  · have hn : ¬ (b = a ∧ a / 2 < l.length) := fun x => hb ⟨by rw [x.1], x.2⟩
    rw [if_neg hb, if_neg hn]

/-! ### Doses (04) -/

/-- Below the warning level a credit tests nothing further (R84, R85). -/
theorem testDayDose_below {s : State} {c : ClassRec} (h : s.limits? = some c)
    (hd : s.di.dayDose < warningLevel c.dayBudget) : s.testDayDose = s := by
  have h1 : ¬ c.dayBudget ≤ s.di.dayDose := by
    unfold warningLevel at hd
    omega
  simp [State.testDayDose, h, State.testWarning, State.testBudget, h1,
    show ¬ warningLevel c.dayBudget ≤ s.di.dayDose by omega]

/-- A credit of lit units outside a capture window, below the warning level: the day dose and the current opening (R80). -/
theorem creditLit_below {s : State} {u : Nat} {v : Volume} (hv : s.sau.volume = some v) (hw : s.captureWindow = false)
    (hb : u = 0 ∨ min 4294967295 (s.di.dayDose + u) < warningLevel v.limits.dayBudget) :
    s.creditLit u = { s with
      di := { s.di with dayDose := if u = 0 then s.di.dayDose else min 4294967295 (s.di.dayDose + u) }
      sau := { s.sau with openings := if u = 0 then s.sau.openings
        else s.sau.openings.modify s.tc.j fun o => { o with dose := min 4294967295 (o.dose + u) } } } := by
  by_cases hu : u = 0
  · subst hu
    simp [State.creditLit]
  · have hb' := hb.resolve_left hu
    unfold State.creditLit
    rw [if_neg (by simp [State.mounted, hv, hu])]
    have hc : (s.chargeDay u).captureWindow = false := hw
    simp only [State.chargeTicket, hc, Bool.false_eq_true, if_false, if_neg hu]
    rw [testDayDose_below (c := v.limits)]
    · simp only [State.chargeDay, updateOpening_modify, addDose, satAdd, maxDose]
    · simp [State.limits?, State.chargeDay, hv]
    · simpa only [State.chargeDay, addDose, satAdd, maxDose] using hb'

/-! ### Previews (03) -/

/-- The end of a lit preview: only a capture window, which no preview has, would teach the profile its levels (R60, R70). -/
theorem endPreview_some {s : State} {p : Preview} (r : PreviewEnd) (hp : s.lc.preview = some p) :
    ∃ learned, ((s.lc.window.map Window.kind) ≠ some .capture → learned = s.lc.learned)
      ∧ s.endPreview r = { s with
          lc := { s.lc with
            banks := s.lc.banks.map BankRec.dark, window := none, preview := none, lastEnd := some r
            learned := learned }
          di := if s.anyLit then { s.di with satCount := 0, darkCount := 0 } else s.di } := by
  unfold State.endPreview State.endWindow
  simp only [hp]
  cases hw : s.lc.window with
  | none =>
    refine ⟨s.lc.learned, fun _ => rfl, ?_⟩
    dsimp only
    rw [banksDark_eq, ← hw]
  | some w =>
    obtain ⟨x, hx⟩ : ∃ x, x = s.learn w := ⟨_, rfl⟩
    have hl : ∃ l, x = { s with lc := { s.lc with learned := l } } := by
      rw [hx]
      unfold State.learn
      split
      · exact ⟨_, rfl⟩
      · exact ⟨_, rfl⟩
    obtain ⟨l, hl⟩ := hl
    cases hk : w.kind with
    | capture =>
      refine ⟨l, fun h => absurd (by simp [hk]) h, ?_⟩
      simp only [hk]
      rw [← hx, banksDark_eq, hl]
      rfl
    | preview =>
      refine ⟨s.lc.learned, fun _ => rfl, ?_⟩
      simp only [hk]
      rw [banksDark_eq]

/-! ### Patterns (01 R3) -/

/-- The search of the pattern table passes what does not match, and stops at the first that does. -/
theorem matchFrom_first (mark : Text) : ∀ (l : List PatternEntry) (n i : Nat) (e : PatternEntry), l[i]? = some e →
    e.enabled = true → matchesPattern e.pattern mark = true →
    (∀ k e', k < i → l[k]? = some e' → ¬ (e'.enabled = true ∧ matchesPattern e'.pattern mark = true)) →
    matchFrom mark n l = (e.cls, some (n + i)) := by
  intro l
  induction l with
  | nil =>
    intro n i e h
    simp at h
  | cons a l ih =>
    intro n i e h h1 h2 h3
    cases i with
    | zero =>
      simp only [List.getElem?_cons_zero, Option.some.injEq] at h
      subst h
      simp [matchFrom, h1, h2]
    | succ i =>
      have := h3 0 a (by omega) rfl
      rw [matchFrom, if_neg (by simpa using this),
        ih (n + 1) i e h h1 h2 (fun k e' hk he' => h3 (k + 1) e' (by omega) he')]
      congr 2
      omega

/-- With no enabled match the class is 0 and there is no position. -/
theorem matchFrom_none (mark : Text) : ∀ (l : List PatternEntry) (n : Nat),
    (∀ e' ∈ l, ¬ (e'.enabled = true ∧ matchesPattern e'.pattern mark = true)) → matchFrom mark n l = (0, none) := by
  intro l
  induction l with
  | nil =>
    intros
    rfl
  | cons a l ih =>
    intro n h
    have := h a List.mem_cons_self
    rw [matchFrom, if_neg (by simpa using this), ih _ (fun e he => h e (List.mem_cons_of_mem _ he))]

/-! ### Threshold counts (09 R176) -/

/-- A recount sets the count and the crossed flag of one bank, and LK's part. -/
theorem recount_eq (s : State) (b : FaultBank) (n : Nat) :
    s.recount b n = { s with
      fb := { banks := s.fb.banks.set b { (s.fb.banks.get b) with
        count := n, crossed := decide (s.set.thresholds.get b ≤ n) } }
      lk := (s.recount b n).lk } := by
  apply State.ext_fields <;> try simp
  have := recount_fb s b n
  cases h : (s.recount b n).fb
  rw [h] at this
  simp at this
  rw [this]

/-! ### Releases (06 R135) -/

/-- A release changes the ring and the opening table alone. -/
theorem releaseWalk_frame (l r : Verdict) : ∀ (n : Nat) (s : State) (done : List Nat),
    (releaseWalk l r n s done).1
      = { s with cc := (releaseWalk l r n s done).1.cc, sau := (releaseWalk l r n s done).1.sau } := by
  intro n
  induction n with
  | zero =>
    intros
    rfl
  | succ n ih =>
    intro u d
    unfold releaseWalk
    split
    · rfl
    · split
      · have hh : ∀ (w : State) v h, (w.applyHalf v h) = { w with sau := (w.applyHalf v h).sau } := by
          intro w v h
          unfold State.applyHalf
          split
          · split
            · rfl
            · unfold State.setSide
              split <;> rfl
          · rfl
        have hv : ∀ (w : State) t, (w.applyVerdicts t l r) = { w with sau := (w.applyVerdicts t l r).sau } := by
          intro w t
          unfold State.applyVerdicts
          split
          · split
            · rw [hh (w.applyHalf l t.left) r t.right, hh w l t.left]
            · rfl
          · rfl
        rw [ih, hv u]
        rfl
      · rfl

/-! ### The OPEN ticket and the sync edges (05, 06) -/

/-- A change of the OPEN ticket that leaves it open. -/
theorem openTicket_on {s : State} {k : Ticket} {f : Ticket → Ticket} (hf : ∀ t, (f t).closed = t.closed)
    (h : s.openTicket? = some k) : (s.onOpenTicket f).openTicket? = some (f k) := by
  unfold State.openTicket? at *
  simp only [onOpenTicket_tickets, mapOpen, List.getLast?_map]
  cases hl : s.cc.tickets.getLast? with
  | none =>
    rw [hl] at h
    cases h
  | some t =>
    rw [hl] at h
    cases hc : t.closed <;> simp_all

/-- With CC idle, a delivered edge only starts a frame, shaped by the banks' present levels (03 R57). -/
theorem deliverEdge_idle {s : State} (src : SyncSource) (h : s.cc.state = .idle) :
    s.deliverEdge src = { s with
      cc := { s.cc with sync := { s.cc.sync with delivered := some s.now } }
      lc := { s.lc with frameEdge := some s.now, banks := s.lc.banks.map BankRec.atEdge } } := by
  unfold State.deliverEdge
  simp [h, State.withSync]

/-! ### The sides of a volume and the gap runs (08 R166, R167) -/

theorem pairs_even {α β : Type} (f g : α → β) : ∀ (l : List α) (k : Nat),
    (l.flatMap fun o => [f o, g o])[2 * k]? = l[k]?.map f := by
  intro l
  induction l with
  | nil => simp
  | cons o l ih =>
    intro k
    cases k with
    | zero => simp
    | succ k =>
      rw [show 2 * (k + 1) = 2 * k + 2 by omega]
      simpa using ih k

theorem pairs_odd {α β : Type} (f g : α → β) : ∀ (l : List α) (k : Nat),
    (l.flatMap fun o => [f o, g o])[2 * k + 1]? = l[k]?.map g := by
  intro l
  induction l with
  | nil => simp
  | cons o l ih =>
    intro k
    cases k with
    | zero => simp
    | succ k =>
      rw [show 2 * (k + 1) + 1 = 2 * k + 1 + 2 by omega]
      simpa using ih k

/-- The walk over the opening table meets each side at its own opening. -/
theorem sidesInOrder_eq (d : Direction) (n : Nat) (l : List Opening) (h : l.length = n + 1) :
    sidesInOrder d n l = (List.range (2 * n)).map fun i => sideStateIn d l (i + 1) := by
  apply List.ext_getElem?
  intro i
  unfold sidesInOrder
  rw [List.getElem?_take, List.getElem?_drop, List.getElem?_map]
  by_cases hi : i < 2 * n
  · have hr : (List.range (2 * n))[i]? = some i := by simp [hi]
    rw [if_pos hi, hr, Nat.add_comm 1 i]
    have hk : (i + 1) / 2 < l.length := by omega
    have ho : l[(i + 1) / 2]? = some (openingAt l ((i + 1) / 2)) := by
      rw [openingAt, List.getD_eq_getElem?_getD, List.getElem?_eq_getElem hk]
      rfl
    unfold sideStateIn
    dsimp only [Option.map_some]
    rcases Nat.mod_two_eq_zero_or_one (i + 1) with hm | hm
    · conv_lhs => rw [show i + 1 = 2 * ((i + 1) / 2) by omega]
      cases d <;> simp only [pairs_even, ho, onLeft, hm] <;> rfl
    · conv_lhs => rw [show i + 1 = 2 * ((i + 1) / 2) + 1 by omega]
      cases d <;> simp only [pairs_odd, ho, onLeft, hm] <;> rfl
  · simp [hi]

theorem gapAt_iff {sides : List SideState} {pre rest : List SideState} {st : SideState} (h : sides = pre ++ st :: rest) :
    gapAt sides (pre.length + 1) ↔ isGap st = true := by
  subst h
  unfold gapAt
  cases st <;> simp [isGap]

theorem gapAt_above {sides : List SideState} {k : Nat} (h : sides.length < k) : ¬ gapAt sides k := by
  rintro ⟨-, h1 | h1⟩ <;> (rw [List.getElem?_eq_none (by omega)] at h1; cases h1)

/-- A gap run that begins where another one does is that one. -/
theorem gapRun_from {sides : List SideState} {a b f : Nat} (h : gapRun sides a b) (hf : f ≤ b)
    (hg : ∀ k, f ≤ k → k ≤ b → gapAt sides k) (h0 : ¬ gapAt sides (f - 1)) (h1 : 1 ≤ f) : a = f := by
  obtain ⟨hab, hall, hlo, -⟩ := h
  rcases Nat.lt_trichotomy a f with hlt | rfl | hgt
  · exact absurd (hall (f - 1) (by omega) (by omega)) h0
  · rfl
  · exact absurd (hg (a - 1) (by omega) (by omega)) hlo

/-- What the gap walk knows of the run under way as it comes to a side. -/
def walkKnows (sides : List SideState) (side : Nat) : Option Nat → Prop
  | none => ¬ gapAt sides (side - 1)
  | some f => 1 ≤ f ∧ f < side ∧ (∀ k, f ≤ k → k < side → gapAt sides k) ∧ ¬ gapAt sides (f - 1)

/-- The gap walk finds the maximal runs that end at the side before it or later (08 R167). -/
theorem gapRuns_mem (sides : List SideState) : ∀ (rest pre : List SideState) (began : Option Nat), sides = pre ++ rest →
    walkKnows sides (pre.length + 1) began → ∀ a b,
    ((a, b) ∈ gapRuns (pre.length + 1) began rest ↔ gapRun sides a b ∧ pre.length ≤ b) := by
  intro rest
  induction rest with
  | nil =>
    intro pre began hs hk a b
    have hl : sides.length = pre.length := by simp [hs]
    cases began with
    | none =>
      simp only [gapRuns, List.not_mem_nil, false_iff, not_and]
      intro h hb
      rcases Nat.lt_or_ge sides.length b with hlt | hge
      · exact gapAt_above hlt (h.2.1 b h.1 (Nat.le_refl _))
      · have : b = pre.length := by omega
        subst this
        exact hk (by simpa using h.2.1 pre.length h.1 (Nat.le_refl _))
    | some f =>
      obtain ⟨h1, h2, h3, h4⟩ := hk
      simp only [gapRuns, List.mem_singleton, Prod.mk.injEq, Nat.add_sub_cancel]
      constructor
      · rintro ⟨rfl, rfl⟩
        exact ⟨⟨by omega, fun k ha hb => h3 k ha (by omega), h4, gapAt_above (by omega)⟩, Nat.le_refl _⟩
      · rintro ⟨h, hb⟩
        have hb' : b = pre.length := by
          rcases Nat.lt_or_ge sides.length b with hlt | hge
          · exact absurd (h.2.1 b h.1 (Nat.le_refl _)) (gapAt_above hlt)
          · omega
        subst hb'
        exact ⟨gapRun_from h (by omega) (fun k ha hb => h3 k ha (by omega)) h4 h1, rfl⟩
  | cons st rest ih =>
    intro pre began hs hk a b
    have hg := gapAt_iff hs
    have hs' : sides = (pre ++ [st]) ++ rest := by simp [hs]
    have hl : (pre ++ [st]).length = pre.length + 1 := by simp
    have step := fun c => ih (pre ++ [st]) c hs'
    rw [hl] at step
    by_cases hst : isGap st = true
    · have hga := hg.2 hst
      have hb : ∀ a b, (gapRun sides a b ∧ pre.length + 1 ≤ b) ↔ (gapRun sides a b ∧ pre.length ≤ b) := by
        intro a b
        refine ⟨fun h => ⟨h.1, by omega⟩, fun h => ⟨h.1, ?_⟩⟩
        by_contra hc
        have : b = pre.length := by omega
        subst this
        exact h.1.2.2.2 hga
      have hw : walkKnows sides (pre.length + 1 + 1) (some (began.getD (pre.length + 1))) := by
        cases began with
        | none =>
          refine ⟨Nat.le_add_left _ _, Nat.lt_succ_self _, fun k ha hb => ?_, by simpa [walkKnows] using hk⟩
          have : k = pre.length + 1 := by simp at ha; omega
          rw [this]
          exact hga
        | some f =>
          obtain ⟨h1, h2, h3, h4⟩ := hk
          refine ⟨h1, by simp; omega, fun k ha hb => ?_, h4⟩
          rcases Nat.lt_or_ge k (pre.length + 1) with hlt | hge
          · exact h3 k ha hlt
          · have : k = pre.length + 1 := by omega
            rw [this]
            exact hga
      have e : gapRuns (pre.length + 1) began (st :: rest)
          = gapRuns (pre.length + 1 + 1) (some (began.getD (pre.length + 1))) rest := by
        cases began <;> simp [gapRuns, hst]
      rw [e, step _ hw, hb]
    · have hga : ¬ gapAt sides (pre.length + 1) := fun h => hst (hg.1 h)
      have hw : walkKnows sides (pre.length + 1 + 1) none := by simpa [walkKnows] using hga
      cases began with
      | none =>
        have e : gapRuns (pre.length + 1) none (st :: rest) = gapRuns (pre.length + 1 + 1) none rest := by
          simp [gapRuns, hst]
        rw [e, step _ hw]
        refine ⟨fun h => ⟨h.1, by omega⟩, fun h => ⟨h.1, ?_⟩⟩
        by_contra hc
        have : b = pre.length := by omega
        subst this
        exact hk (by simpa using h.1.2.1 _ h.1.1 (Nat.le_refl _))
      | some f =>
        obtain ⟨h1, h2, h3, h4⟩ := hk
        have e : gapRuns (pre.length + 1) (some f) (st :: rest)
            = (f, pre.length) :: gapRuns (pre.length + 1 + 1) none rest := by
          simp [gapRuns, hst]
        rw [e, List.mem_cons, step _ hw, Prod.mk.injEq]
        constructor
        · rintro (⟨rfl, rfl⟩ | h)
          · exact ⟨⟨by omega, fun k ha hb => h3 k ha (by omega), h4, hga⟩, Nat.le_refl _⟩
          · exact ⟨h.1, by omega⟩
        · rintro ⟨h, hb⟩
          rcases Nat.lt_or_ge pre.length b with hlt | hge
          · exact .inr ⟨h, hlt⟩
          · have : b = pre.length := by omega
            subst this
            exact .inl ⟨gapRun_from h (by omega) (fun k ha hb => h3 k ha (by omega)) h4 h1, rfl⟩

/-- The gap walk finds runs in ascending order. -/
theorem gapRuns_ascend : ∀ (rest : List SideState) (side : Nat) (began : Option Nat), (∀ f, began = some f → f < side) →
    (gapRuns side began rest).Pairwise (fun p q => p.2 < q.1)
      ∧ ∀ p ∈ gapRuns side began rest, began.getD side ≤ p.1 := by
  intro rest
  induction rest with
  | nil => intro side began _; cases began <;> simp [gapRuns]
  | cons st rest ih =>
    intro side began hb
    by_cases hst : isGap st = true
    · have e : gapRuns side began (st :: rest) = gapRuns (side + 1) (some (began.getD side)) rest := by
        cases began <;> simp [gapRuns, hst]
      rw [e]
      have := ih (side + 1) (some (began.getD side)) (by
        rintro f hf
        cases began with
        | none => simp at hf; omega
        | some g => have := hb g rfl; simp at hf; omega)
      simpa using this
    · obtain ⟨i1, i2⟩ := ih (side + 1) none (by rintro _ ⟨⟩)
      cases began with
      | none =>
        have e : gapRuns side none (st :: rest) = gapRuns (side + 1) none rest := by simp [gapRuns, hst]
        rw [e]
        exact ⟨i1, fun p hp => by have := i2 p hp; simp at this ⊢; omega⟩
      | some f =>
        have e : gapRuns side (some f) (st :: rest) = (f, side - 1) :: gapRuns (side + 1) none rest := by
          simp [gapRuns, hst]
        have hf := hb f rfl
        rw [e]
        refine ⟨List.pairwise_cons.2 ⟨fun p hp => ?_, i1⟩, fun p hp => ?_⟩
        · have := i2 p hp; simp at this ⊢; omega
        · rcases List.mem_cons.1 hp with rfl | hp
          · simp
          · have := i2 p hp; simp at this ⊢; omega

/-- The runs hold every PENDING and RETAKE side once. -/
theorem gapRuns_sides : ∀ (rest : List SideState) (side : Nat) (began : Option Nat), (∀ f, began = some f → f < side) →
    1 ≤ side → gapSidesOf (gapRuns side began rest)
      = (side - began.getD side) + (rest.count .pending + rest.count .retake) := by
  intro rest
  induction rest with
  | nil =>
    intro side began hb h1
    cases began with
    | none => simp [gapRuns, gapSidesOf]
    | some f => have := hb f rfl; simp [gapRuns, gapSidesOf]; omega
  | cons st rest ih =>
    intro side began hb h1
    by_cases hst : isGap st = true
    · have e : gapRuns side began (st :: rest) = gapRuns (side + 1) (some (began.getD side)) rest := by
        cases began <;> simp [gapRuns, hst]
      have hlt : began.getD side < side + 1 := by
        cases began with
        | none => simp
        | some g => have := hb g rfl; simp; omega
      rw [e, ih (side + 1) (some (began.getD side)) (by rintro f hf; cases hf; exact hlt) (by omega)]
      cases st <;> simp [isGap] at hst <;> simp <;> omega
    · have hc : (st :: rest).count .pending + (st :: rest).count .retake = rest.count .pending + rest.count .retake := by
        cases st <;> simp [isGap] at hst <;> simp
      have i := ih (side + 1) none (by rintro _ ⟨⟩) (by omega)
      simp only [Option.getD_none, Nat.sub_self, Nat.zero_add] at i
      rw [hc]
      cases began with
      | none =>
        have e : gapRuns side none (st :: rest) = gapRuns (side + 1) none rest := by simp [gapRuns, hst]
        rw [e, i]
        simp
      | some f =>
        have e : gapRuns side (some f) (st :: rest) = (f, side - 1) :: gapRuns (side + 1) none rest := by
          simp [gapRuns, hst]
        have hf := hb f rfl
        rw [e, gapSidesOf, i]
        simp
        omega

/-- The sides a forced dismount leaves (08 R165 step 2). -/
theorem sidesInOrder_unhold (d : Direction) (n : Nat) (l : List Opening) :
    sidesInOrder d n (unholdAll l) = (sidesInOrder d n l).map fun st => if st = .held then .retake else st := by
  have hu : ∀ st, unhold st = if st = .held then .retake else st := by intro st; cases st <;> rfl
  unfold sidesInOrder unholdAll
  rw [List.map_take, List.map_drop, List.flatMap_map, List.map_flatMap]
  cases d <;> simp [hu]

/-- The tally of a volume, from the state after the forced steps, as 08 Table 8-2 gives it. -/
theorem buildTally_closes {s x : State} {v : Volume} {c : TallyCause} (hv : s.sau.volume = some v)
    (hl : s.sau.openings.length = v.n + 1)
    (ho : x.sau.openings = if c = .dismount then s.sau.openings else unholdAll s.sau.openings)
    (hn : x.now = s.now) (hd : x.di.dayDose = s.di.dayDose ∧ x.di.carriedIn = s.di.carriedIn)
    (ht : x.tc.turnsDone = s.tc.turnsDone ∧ x.tc.missRetries = s.tc.missRetries
      ∧ x.tc.doubleRetries = s.tc.doubleRetries) (hr : x.rc.volumeSkips = s.rc.volumeSkips) :
    (x.buildTally v c (if c = .dismount then 0 else heldCount v s.sau.openings)).closes v c s := by
  have hs : s.sideStates v = sidesInOrder v.direction v.n s.sau.openings := by
    rw [sidesInOrder_eq _ _ _ hl]
    simp [State.sideStates, State.sideState, hv]
  have hx : sidesInOrder v.direction v.n x.sau.openings = s.sidesAtClose v c := by
    unfold State.sidesAtClose
    rw [ho, hs]
    split
    · rfl
    · exact sidesInOrder_unhold _ _ _
  refine ⟨rfl, rfl, rfl, rfl, rfl, rfl, rfl, ?_, hd.1, hd.2, ht.1, ht.2.1, ht.2.2, hr, ?_, ?_, ?_⟩
  · simp [State.buildTally, State.clock, hn]
  · rw [← hx]
    rfl
  · refine ⟨gapRuns 1 none (s.sidesAtClose v c), fun a b => ?_, (gapRuns_ascend _ _ _ (by rintro _ ⟨⟩)).1, ?_, ?_, ?_, ?_⟩
    · simpa using gapRuns_mem (s.sidesAtClose v c) (s.sidesAtClose v c) [] none rfl (by simp [walkKnows, gapAt]) a b
    all_goals rw [← hx]
    · rfl
    · rfl
    · rfl
    · have := gapRuns_sides (sidesInOrder v.direction v.n x.sau.openings) 1 none (by rintro _ ⟨⟩) (Nat.le_refl _)
      simpa [State.buildTally] using this
  · show (if c = .dismount then 0 else heldCount v s.sau.openings) = _
    rw [heldCount, hs]

end Sys2Proof.Machine
end

