-- ==== Sys2Proof/Laws/Frames.lean ====
section
/-! SUPPORT. What the body layouts of chapter 12 carry and read back, and what the receiver makes of a frame's bytes (10 R181
to R183, 12). -/

set_option Elab.async false

namespace Sys2Proof

/-! ### Numbers and enumerations -/

theorem byte_toNat {v : Nat} (h : fits 1 v = true) : (BitVec.ofNat 8 v).toNat = v := by
  simp only [fits, decide_eq_true_eq] at h
  simp only [BitVec.toNat_ofNat]
  omega

theorem beBytes_two (v : Nat) : beBytes 2 v = [BitVec.ofNat 8 (v / 256), BitVec.ofNat 8 v] := by
  simp [beBytes]

theorem beBytes_four (v : Nat) :
    beBytes 4 v
      = [BitVec.ofNat 8 (v / 16777216), BitVec.ofNat 8 (v / 65536), BitVec.ofNat 8 (v / 256), BitVec.ofNat 8 v] := by
  simp [beBytes]

theorem beNat_two {v : Nat} (h : fits 2 v = true) : beNat [BitVec.ofNat 8 (v / 256), BitVec.ofNat 8 v] = v := by
  simp only [fits, decide_eq_true_eq] at h
  simp only [beNat, List.foldl_cons, List.foldl_nil, BitVec.toNat_ofNat]
  omega

theorem beNat_four {v : Nat} (h : fits 4 v = true) :
    beNat [BitVec.ofNat 8 (v / 16777216), BitVec.ofNat 8 (v / 65536), BitVec.ofNat 8 (v / 256), BitVec.ofNat 8 v] = v := by
  simp only [fits, decide_eq_true_eq] at h
  simp only [beNat, List.foldl_cons, List.foldl_nil, BitVec.toNat_ofNat]
  omega

theorem beNat_beBytes_two {v : Nat} (h : fits 2 v = true) : beNat (beBytes 2 v) = v := by
  rw [beBytes_two, beNat_two h]

theorem yesNo_byte (o : Option Bool) : yesNo (enumByte Bool.toNat o) = o := by
  rcases o with _ | _ | _ <;> rfl

theorem overrideOf_byte {o : ClassOverride} (h : o.wf = true) : overrideOf (overrideByte o) = o := by
  cases o with
  | absent => rfl
  | cls c =>
    simp only [ClassOverride.wf, decide_eq_true_eq] at h
    have hn : (BitVec.ofNat 8 c).toNat = c := by
      simp only [BitVec.toNat_ofNat]
      omega
    have : BitVec.ofNat 8 c ≠ 0xFF#8 := by
      intro e
      have := congrArg BitVec.toNat e
      rw [hn] at this
      simp at this
      omega
    simp [overrideOf, overrideByte, this]
    omega

theorem faultBankOf_byte (o : Option FaultBank) : faultBankOf (enumByte faultBankNumber o) = o := by
  rcases o with _ | b
  · rfl
  · cases b <;> rfl

/-! ### Records -/

theorem parsePattern_body {f : PatternFields} (h : f.wf = true) : parsePattern f.body = some f := by
  simp only [PatternFields.wf, Bool.and_eq_true, decide_eq_true_eq] at h
  obtain ⟨⟨h1, h2⟩, h3⟩ := h
  have hp : (BitVec.ofNat 8 f.pattern.length).toNat = f.pattern.length := by
    simp only [BitVec.toNat_ofNat]
    omega
  simp only [PatternFields.body, List.cons_append, List.nil_append, parsePattern, hp, h3, byte_toNat h1, byte_toNat h2,
    yesNo_byte, and_self, if_true]

theorem parseClassRecord_body {f : ClassFields} (h : f.wf = true) : parseClassRecord f.body = some f := by
  simp only [ClassFields.wf, Bool.and_eq_true] at h
  obtain ⟨⟨⟨⟨⟨h1, h2⟩, h3⟩, h4⟩, h5⟩, h6⟩ := h
  have ht : turningOf (enumByte turningNumber f.turning) = f.turning := by
    rcases f.turning with _ | _ | _ <;> rfl
  have hp : policyOf (enumByte policyNumber f.policy) = f.policy := by
    rcases f.policy with _ | _ | _ <;> rfl
  simp only [ClassFields.body, beBytes_four, beBytes_two, List.cons_append, List.nil_append, parseClassRecord,
    beNat_four h1, beNat_four h2, byte_toNat h3, byte_toNat h4, beNat_two h5, beNat_two h6, yesNo_byte, ht, hp]

theorem parseProfileRecord_body {f : ProfileFields} (h : f.wf = true) : parseProfileRecord f.body = some f := by
  simp only [ProfileFields.wf, Bool.and_eq_true] at h
  obtain ⟨⟨⟨⟨⟨⟨⟨⟨h1, h2⟩, h3⟩, h4⟩, h5⟩, h6⟩, h7⟩, h8⟩, h9⟩ := h
  have hm : lampModeOf (enumByte lampModeNumber f.mode) = f.mode := by
    rcases f.mode with _ | _ | _ <;> rfl
  have hs : selectionOf (enumByte selectionNumber f.selection) = f.selection := by
    rcases f.selection with _ | r
    · rfl
    · cases r <;> rfl
  simp only [ProfileFields.body, beBytes_two, List.cons_append, List.nil_append, parseProfileRecord, byte_toNat h1,
    byte_toNat h2, byte_toNat h3, byte_toNat h4, byte_toNat h5, beNat_two h6, beNat_two h7, byte_toNat h8, beNat_two h9,
    yesNo_byte, hm, hs]

theorem wordsOf_bytes (l : List Nat) (h : l.all (fits 2) = true) : wordsOf (l.flatMap (beBytes 2)) = l := by
  induction l with
  | nil => rfl
  | cons a l ih =>
    simp only [List.all_cons, Bool.and_eq_true] at h
    simp only [List.flatMap_cons, beBytes_two, List.cons_append, List.nil_append, wordsOf, beNat_two h.1, List.cons.injEq,
      true_and]
    simpa only [beBytes_two] using ih h.2

theorem words_length (l : List Nat) : (l.flatMap (beBytes 2)).length = 2 * l.length := by
  induction l with
  | nil => rfl
  | cons a l ih =>
    rw [List.flatMap_cons, List.length_append, ih, beBytes_two, List.length_cons]
    simp only [List.length_cons, List.length_nil]
    omega

theorem rangesOf_bytes (l : List (Nat × Nat)) (h : (l.all fun r => fits 2 r.1 && fits 2 r.2) = true) :
    rangesOf (l.flatMap fun r => beBytes 2 r.1 ++ beBytes 2 r.2) = l := by
  induction l with
  | nil => rfl
  | cons a l ih =>
    simp only [List.all_cons, Bool.and_eq_true] at h
    simp only [List.flatMap_cons, beBytes_two, List.cons_append, List.nil_append, rangesOf, beNat_two h.1.1,
      beNat_two h.1.2, List.cons.injEq, true_and]
    have := ih (by simpa using h.2)
    simpa only [beBytes_two, List.cons_append, List.nil_append] using this

theorem ranges_length (l : List (Nat × Nat)) :
    (l.flatMap fun r => beBytes 2 r.1 ++ beBytes 2 r.2).length = 4 * l.length := by
  induction l with
  | nil => rfl
  | cons a l ih =>
    rw [List.flatMap_cons, List.length_append, ih, List.length_append, beBytes_two, beBytes_two, List.length_cons]
    simp only [List.length_cons, List.length_nil]
    omega

theorem parseBlanks_body (l : List (Nat × Nat)) (hl : l.length ≤ 16) (h : (l.all fun r => fits 2 r.1 && fits 2 r.2) = true) :
    parseBlanks (BitVec.ofNat 8 l.length :: l.flatMap fun r => beBytes 2 r.1 ++ beBytes 2 r.2) = some l := by
  have hp : (BitVec.ofNat 8 l.length).toNat = l.length := by
    simp only [BitVec.toNat_ofNat]
    omega
  simp only [parseBlanks, hp, ranges_length, hl, and_self, if_true, rangesOf_bytes l h]

theorem parseMount_body {f : MountFields} (h : f.wf = true) : parseMount f.body = some f := by
  simp only [MountFields.wf, Bool.and_eq_true, decide_eq_true_eq] at h
  obtain ⟨⟨⟨⟨⟨⟨⟨⟨h1, h2⟩, h3⟩, h4⟩, h5⟩, h6⟩, h7⟩, h8⟩, h9⟩ := h
  have hr : (BitVec.ofNat 8 f.raw.length).toNat = f.raw.length := by
    simp only [BitVec.toNat_ofNat]
    omega
  have hf : (BitVec.ofNat 8 f.foldouts.length).toNat = f.foldouts.length := by
    simp only [BitVec.toNat_ofNat]
    omega
  have hd : directionOf (enumByte directionNumber f.direction) = f.direction := by
    rcases f.direction with _ | _ | _ <;> rfl
  unfold parseMount MountFields.body
  simp only [List.cons_append, List.append_assoc, hr, List.nil_append, List.length_append]
  rw [if_neg (by omega), List.drop_left, beBytes_two, beBytes_two]
  simp only [List.cons_append, List.nil_append, hf, List.length_append, words_length]
  rw [if_neg (by omega), ← words_length f.foldouts, List.drop_left, List.take_left, List.take_left,
    parseBlanks_body _ h8 h9, wordsOf_bytes _ h7, hd, beNat_two h3, beNat_two h4, overrideOf_byte h5]
  rfl

/-! ### Lengths -/

theorem body_length {i : Instr} {body : List Byte} (h : i.wf = true) (hb : i.body? = some body) : body.length ≤ 250 := by
  cases i <;> cases hb <;> try exact Nat.zero_le _
  case noticeMask => simp [beBytes_two]
  case patternWrite f =>
    simp only [Instr.wf, PatternFields.wf, Bool.and_eq_true, decide_eq_true_eq] at h
    simp only [PatternFields.body, List.length_append, List.length_cons, List.length_nil]
    omega
  case classWrite f => simp [ClassFields.body, beBytes_four, beBytes_two]
  case mount f =>
    simp only [Instr.wf, MountFields.wf, Bool.and_eq_true, decide_eq_true_eq] at h
    have two (v : Nat) : (beBytes 2 v).length = 2 := by rw [beBytes_two]; rfl
    simp only [MountFields.body, List.length_append, List.length_cons, List.length_nil, words_length, two]
    have := ranges_length f.blanks
    omega
  case profileWrite f => simp [ProfileFields.body, beBytes_two]
  case faultMask => simp
  all_goals exact Nat.le_of_ble_eq_true rfl

namespace Machine

variable {s : State}

/-! ### The receiver (10 R183) -/

/-- Bytes inside a frame whose LEN has been taken are collected, up to the last one. -/
theorem collects (rest : List Byte) : ∀ (pre : List Byte) (s : State) (n : Nat), s.lk.receiver = .inFrame pre n →
    2 ≤ pre.length → pre.length + rest.length < (pre.getD 1 0#8).toNat + 6 →
    rest.foldl State.rxByte s
      = s.withLk fun l => { l with receiver := match rest with
          | [] => .inFrame pre n
          | _ :: _ => .inFrame (pre ++ rest) s.now } := by
  induction rest with
  | nil =>
    intro pre s n h _ _
    simp only [List.foldl_nil, State.withLk, ← h]
  | cons b rest ih =>
    intro pre s n h h2 hl
    have hget : (pre ++ [b]).getD 1 0#8 = pre.getD 1 0#8 := by
      match pre, h2 with
      | x :: y :: l, _ => rfl
    have hs : s.rxByte b = s.withLk fun l => { l with receiver := .inFrame (pre ++ [b]) s.now } := by
      unfold State.rxByte
      rw [h]
      simp only [hget, List.length_append, List.length_singleton]
      rw [if_neg (by omega), if_neg (by simp only [List.length_cons] at hl; omega)]
    rw [List.foldl_cons, hs, ih (pre ++ [b]) _ s.now rfl (by simp; omega)
      (by rw [hget]; simp only [List.length_append, List.length_cons, List.length_nil] at *; omega)]
    cases rest with
    | nil => rfl
    | cons c rest => simp [State.withLk]

@[simp] theorem hunt_withLk (s : State) (r : Receiver) :
    (s.withLk fun l => { l with receiver := r }).hunt = s.hunt := rfl

theorem hunt_hunting (h : s.lk.receiver = .hunting) : s.hunt = s := by
  simp [State.hunt, State.withLk, ← h]

/-- A whole frame of LEN up to 250 reaches its last byte. -/
theorem collectsFrame (h : s.lk.receiver = .hunting) (len kind tag last : Byte) (body : List Byte) (hl : len.toNat ≤ 250)
    (hb : body.length = len.toNat + 1) :
    (0xC3#8 :: len :: kind :: tag :: (body ++ [last])).foldl State.rxByte s
      = (s.frameComplete (0xC3#8 :: len :: kind :: tag :: (body ++ [last]))).settle := by
  have h1 : s.rxByte 0xC3#8 = s.withLk fun l => { l with receiver := .inFrame [0xC3#8] s.now } := by
    simp [State.rxByte, h]
  have h2 : (s.withLk fun l => { l with receiver := .inFrame [0xC3#8] s.now }).rxByte len
      = s.withLk fun l => { l with receiver := .inFrame [0xC3#8, len] s.now } := by
    simp only [State.rxByte, withLk_lk, List.cons_append, List.nil_append, List.length_cons, List.length_nil]
    rw [if_neg (by omega), if_neg (by omega)]
    rfl
  rw [List.foldl_cons, h1, List.foldl_cons, h2]
  have : kind :: tag :: (body ++ [last]) = (kind :: tag :: body) ++ [last] := rfl
  rw [this, List.foldl_append, collects (kind :: tag :: body) [0xC3#8, len] _ s.now rfl (Nat.le_refl _)
    (by simp only [List.length_cons, List.length_nil, List.getD_cons_succ, List.getD_cons_zero]; omega)]
  simp only [List.foldl_cons, List.foldl_nil]
  unfold State.rxByte
  simp only [withLk_lk, List.cons_append, List.nil_append, List.length_cons, List.length_append, List.length_nil,
    List.getD_cons_succ, List.getD_cons_zero]
  rw [if_neg (by omega), if_pos (by omega)]
  rfl

theorem bytesReceived_hunting (h : s.lk.receiver = .hunting) (l : List Byte) :
    s.bytesReceived l = l.foldl State.rxByte s := by
  simp [State.bytesReceived, State.rxDue?, h]

/-- The CRC of a frame's bytes covers LEN to the end of BODY (R182). -/
theorem crcChecks_frame (len kind tag c1 c0 : Byte) (body : List Byte) :
    crcChecks (0xC3#8 :: len :: kind :: tag :: (body ++ [c1, c0]))
      = ([c1, c0] == [(crc16 (len :: kind :: tag :: body)).extractLsb' 8 8,
                      (crc16 (len :: kind :: tag :: body)).extractLsb' 0 8]) := by
  have h1 : ((0xC3#8 :: len :: kind :: tag :: (body ++ [c1, c0])).drop 1).take
      ((0xC3#8 :: len :: kind :: tag :: (body ++ [c1, c0])).length - 3) = len :: kind :: tag :: body := by
    simp
  have h2 : (0xC3#8 :: len :: kind :: tag :: (body ++ [c1, c0])).drop
      ((0xC3#8 :: len :: kind :: tag :: (body ++ [c1, c0])).length - 2) = [c1, c0] := by
    have : (0xC3#8 :: len :: kind :: tag :: (body ++ [c1, c0])) = (0xC3#8 :: len :: kind :: tag :: body) ++ [c1, c0] := rfl
    rw [this]
    simp
  unfold crcChecks
  rw [h1, h2]

theorem rxFrameOf_frame (len kind tag c1 c0 : Byte) (body : List Byte) :
    rxFrameOf (0xC3#8 :: len :: kind :: tag :: (body ++ [c1, c0]))
      = { kind := kind, tag := tag, request := parseRequest kind tag body } := by
  simp [rxFrameOf]

end Machine

end Sys2Proof
end

