-- ==== Sys2Proof/Laws/Lights.lean ====
section
/-! SUPPORT. A lit bank and a settled cradle (02 R22): what TC's and CC's operations keep of `lightSound`. `Dusk` is what
holds before and after every operation that moves TC: no bank is lit, and start-up has ended. -/

set_option Elab.async false

namespace Sys2Proof.Machine

variable {s t : State}

/-- `lightSound` as a bundle. -/
structure Lights (s : State) : Prop where
  lit  : ∀ b, (s.lc.banks.get b).lit = true → s.settled = true ∧ (s.lc.preview.isSome = true ∨ s.capturing)
  home : s.starting = true → s.tc.state = .homing ∧ s.tc.pendingOverforce = false ∧ s.tc.pendingDwell = false

theorem lightSound_iff : s.lightSound ↔ Lights s :=
  ⟨fun h => ⟨h.1, h.2⟩, fun h => ⟨h.lit, h.home⟩⟩

/-- No bank is lit, and start-up has ended. -/
structure Dusk (s : State) : Prop where
  dark : s.dark
  up   : s.starting = false

theorem lit_false {b : LampBank} {P : Prop} (hd : s.dark) (h : (s.lc.banks.get b).lit = true) : P := by
  rw [hd b] at h
  exact Bool.noConfusion h

theorem Dusk.lights (h : Dusk s) : Lights s :=
  ⟨fun _ hb => lit_false h.dark hb, fun hs => by rw [h.up] at hs; exact Bool.noConfusion hs⟩

theorem Lights.ofDark (hd : s.dark)
    (hh : s.starting = true → s.tc.state = .homing ∧ s.tc.pendingOverforce = false ∧ s.tc.pendingDwell = false) :
    Lights s :=
  ⟨fun _ hb => lit_false hd hb, hh⟩

theorem Lights.dark_of (h : Lights s) (hs : s.settled = false) : s.dark := by
  intro b
  cases hl : (s.lc.banks.get b).lit
  · rfl
  · rw [(h.lit b hl).1] at hs
    exact Bool.noConfusion hs

theorem Lights.up_of (h : Lights s) (hs : s.tc.state ≠ .homing) : s.starting = false := by
  cases hl : s.starting
  · rfl
  · exact absurd (h.home hl).1 hs

/-- TC in a state that is neither at rest nor HOMING. -/
theorem Lights.dusk (h : Lights s) (h1 : s.tc.state ≠ .unclamped) (h2 : s.tc.state ≠ .clamped)
    (h3 : s.tc.state ≠ .homing) : Dusk s :=
  ⟨h.dark_of (by simp [State.settled, h1, h2]), h.up_of h3⟩

/-- With no ticket OPEN, the end of a preview leaves every bank dark. -/
theorem Lights.endPreview_dark (h : Lights s) (ho : s.ticketOpen = false) {r : PreviewEnd} : (s.endPreview r).dark := by
  unfold State.endPreview
  split
  · rename_i hp
    intro b
    cases hl : (s.lc.banks.get b).lit
    · rfl
    · rcases (h.lit b hl).2 with x | ⟨-, -, v, k, -, x, -⟩
      · rw [hp] at x
        exact Bool.noConfusion x
      · simp [State.ticketOpen, x] at ho
  · exact endWindow_dark s

theorem Dusk.same (h : Dusk s) (hl : t.lc = s.lc := by first | rfl | simp)
    (hs : t.start = s.start := by first | rfl | simp) : Dusk t :=
  ⟨fun b => by rw [hl]; exact h.dark b, by unfold State.starting; rw [hs]; exact h.up⟩

/-- An operation that lights no bank, keeps the cradle settled, and leaves the preview and the capture. -/
theorem Lights.frame (h : Lights s) (hb : ∀ b, (t.lc.banks.get b).lit = true → (s.lc.banks.get b).lit = true)
    (hse : s.settled = true → t.settled = true) (hpv : t.lc.preview = s.lc.preview) (hca : s.capturing → t.capturing)
    (hst : t.start = s.start := by first | rfl | simp) (htc : t.tc = s.tc := by first | rfl | simp) : Lights t := by
  refine ⟨fun b hl => ?_, fun hs => ?_⟩
  · obtain ⟨h1, h2⟩ := h.lit b (hb b hl)
    refine ⟨hse h1, ?_⟩
    rw [hpv]
    exact h2.imp id hca
  · rw [htc]
    exact h.home (by unfold State.starting at *; rw [← hst]; exact hs)

theorem settled_of (h1 : t.tc.state = s.tc.state) (h2 : t.pins.armPark = s.pins.armPark)
    (h3 : t.pins.guardOpen = s.pins.guardOpen) (h : s.settled = true) : t.settled = true := by
  unfold State.settled at *
  rw [h1, h2, h3]
  exact h

theorem capturing_of (h1 : t.cc.state = s.cc.state) (h2 : t.cc.tickets = s.cc.tickets) (h3 : t.sau.volume = s.sau.volume)
    (h : s.capturing) : t.capturing := by
  unfold State.capturing State.openTicket? at *
  rw [h1, h2, h3]
  exact h

/-- An operation that leaves everything `lightSound` speaks of. -/
theorem Lights.same (h : Lights s) (hlc : t.lc = s.lc := by first | rfl | simp) (htc : t.tc = s.tc := by first | rfl | simp)
    (hap : t.pins.armPark = s.pins.armPark := by first | rfl | simp)
    (hgu : t.pins.guardOpen = s.pins.guardOpen := by first | rfl | simp)
    (hst : t.start = s.start := by first | rfl | simp) (hcs : t.cc.state = s.cc.state := by first | rfl | simp)
    (hct : t.cc.tickets = s.cc.tickets := by first | rfl | simp)
    (hvo : t.sau.volume = s.sau.volume := by first | rfl | simp) : Lights t :=
  h.frame (fun b => by rw [hlc]; exact id) (settled_of (by rw [htc]) hap hgu) (by rw [hlc])
    (capturing_of hcs hct hvo) hst htc

/-! ### TC in the dark (02) -/

theorem Dusk.tellEnd (h : Dusk s) {k : OpKind} {r : OpResult} : Dusk (s.tellEnd k r) := h.same
theorem Dusk.withTc (h : Dusk s) {f : Tc → Tc} : Dusk (s.withTc f) := h.same
theorem Dusk.finishOp (h : Dusk s) {st : TcState} {r : OpResult} : Dusk (s.finishOp st r) := h.same
theorem Dusk.haltOp (h : Dusk s) {d : Bool} : Dusk (s.haltOp d) := h.same
theorem Dusk.recovered (h : Dusk s) {st : TcState} : Dusk (s.recovered st) := h.same
theorem Dusk.toAttention (h : Dusk s) : Dusk s.toAttention := h.same
theorem Dusk.beginRaise (h : Dusk s) {g : RaiseGoal} : Dusk (s.beginRaise g) := h.same
theorem Dusk.beginLowering (h : Dusk s) : Dusk s.beginLowering := h.same
theorem Dusk.beginAttempt (h : Dusk s) {a b : Nat} : Dusk (s.beginAttempt a b) := h.same
theorem Dusk.beginLeaf (h : Dusk s) : Dusk s.beginLeaf := h.same
theorem Dusk.beginReturn (h : Dusk s) {g : ReturnGoal} : Dusk (s.beginReturn g) := h.same
theorem Dusk.releaseBack (h : Dusk s) : Dusk s.releaseBack := h.same
theorem Dusk.haltLift (h : Dusk s) : Dusk s.haltLift := h.same
theorem Dusk.report (h : Dusk s) {c : FaultCode} {d : List Nat} : Dusk (s.report c d) := h.same
theorem Dusk.notifyWith (h : Dusk s) {k : NoticeKind} {f : Gathered → Gathered} : Dusk (s.notifyWith k f) := h.same
theorem Dusk.notify (h : Dusk s) {k : NoticeKind} : Dusk (s.notify k) := h.notifyWith

theorem Dusk.exhaustLeaf (h : Dusk s) {c : FaultCode} : Dusk (s.exhaustLeaf c) := by
  unfold State.exhaustLeaf
  exact h.report.withTc.beginReturn

theorem Dusk.retryLeaf (h : Dusk s) {f : Tc → Tc} {c : FaultCode} : Dusk (s.retryLeaf f c) := by
  unfold State.retryLeaf
  split
  · exact h.withTc.beginAttempt
  · exact h.exhaustLeaf

theorem Dusk.liftReport (h : Dusk s) {r : LeafReport} : Dusk (s.liftReport r) := by
  unfold State.liftReport
  dsimp only
  have h1 := h.releaseBack.report (c := .doubleDetected) (d := [s.tc.nextLeaf, s.tc.attempt])
  repeat' split
  all_goals first
    | exact h.haltLift
    | exact h.withTc
    | exact h.withTc.retryLeaf
    | exact h1.haltLift
    | exact h1.retryLeaf

theorem Dusk.nextLeafOrFoldout (h : Dusk s) : Dusk s.nextLeafOrFoldout := by
  unfold State.nextLeafOrFoldout
  split
  · exact h.finishOp
  · exact h.beginLeaf

theorem Dusk.turnReturned (h : Dusk s) : Dusk s.turnReturned := by
  unfold State.turnReturned
  split
  · exact h.finishOp
  · split
    · exact h.withTc.finishOp
    · split
      · exact h.haltOp
      · split
        · exact h.nextLeafOrFoldout
        · split
          · exact h.beginLowering
          · exact h.finishOp

/-- The end of a homing ends a start-up. -/
theorem tellHoming_up (s : State) (o : HomingOutcome) (r : OpResult) : (s.tellHoming o r).starting = false := by
  unfold State.tellHoming
  split
  · simp [State.endStart, State.starting]
  · rename_i hs
    unfold State.starting at *
    rw [tellEnd_start]
    simpa using hs

/-- Homing has ended: TC has left HOMING, and start-up is over. -/
theorem homing_ends (hd : s.dark) : Dusk s.homingDone := by
  refine ⟨fun b => by rw [homingDone_lc]; exact hd b, ?_⟩
  unfold State.homingDone
  exact tellHoming_up _ _ _

theorem homing_fails (hd : s.dark) {p : HomePart} : Dusk (s.homingFailed p) := by
  refine ⟨fun b => by rw [homingFailed_lc]; exact hd b, ?_⟩
  unfold State.homingFailed
  exact tellHoming_up _ _ _

/-- Homing in the dark: it lights nothing, and start-up that was over stays over. -/
theorem Dusk.homeFor (h : Dusk s) {c : HomeCause} {b : Bool} : Dusk (s.homeFor c b) := by
  unfold State.homeFor State.beginHoming
  dsimp only
  have h1 : Dusk ((s.withTc fun t => { t with homeCause := c, homeByRecover := b }).withTc fun t =>
      { t with
        state := .homing, homePhase := some .platen
        phaseStart := (s.withTc fun t => { t with homeCause := c, homeByRecover := b }).now
        vacuum := false, knife := 0, atForce := false
        dwellStart := none, raiseGoal := none, returnGoal := none, recover := none, origin := none
        faultPending := false, attempt := 0, air := 0, haltMark := false, stopMark := false, leafInHand := false
        attention := none }) := h.withTc.withTc
  split
  · unfold State.homeArm
    dsimp only
    split
    · exact homing_ends h1.withTc.dark
    · exact h1.withTc
  · exact h1

theorem Dusk.completeDismount (h : Dusk s) {c : TallyCause} : Dusk (s.completeDismount c) := h.same

theorem Dusk.completeResetDismount (h : Dusk s) : Dusk s.completeResetDismount :=
  h.completeDismount.withTc

theorem Dusk.recoveredHalted (h : Dusk s) : Dusk s.recoveredHalted := by
  unfold State.recoveredHalted
  dsimp only
  split
  · exact h.recovered.withTc.finishOp
  · exact h.recovered

theorem Dusk.recoveryReturned (h : Dusk s) : Dusk s.recoveryReturned := by
  unfold State.recoveryReturned
  split
  · exact h.recovered.withTc
  · exact h.withTc.recoveredHalted

theorem Dusk.returned (h : Dusk s) : Dusk s.returned := by
  unfold State.returned
  split
  · exact h.completeResetDismount.homeFor
  · split
    · exact h.recoveryReturned
    · exact h.toAttention
    · exact h.turnReturned

theorem Dusk.recoveryRaised (h : Dusk s) : Dusk s.recoveryRaised := by
  unfold State.recoveryRaised
  split
  · exact h.recovered.withTc
  · exact h.recoveredHalted

theorem Dusk.dismountRaised (h : Dusk s) {f : Bool} : Dusk (s.dismountRaised f) := by
  unfold State.dismountRaised
  exact h.completeDismount.tellEnd.withTc

theorem Dusk.raised (h : Dusk s) : Dusk s.raised := by
  unfold State.raised
  split
  · exact h.toAttention
  · exact h.dismountRaised
  · exact h.recoveryRaised
  · split
    · exact h.withTc.finishOp
    · exact h.withTc
  · split
    · exact h.withTc.finishOp
    · split
      · exact h.haltOp
      · exact h.beginLeaf
  · split
    · exact h.withTc.finishOp
    · split
      · exact h.haltOp
      · exact h.finishOp
  all_goals
    split <;> exact h.finishOp

theorem Dusk.raiseNow (h : Dusk s) {g : RaiseGoal} : Dusk (s.raiseNow g) := by
  unfold State.raiseNow
  dsimp only
  split
  · exact h.beginRaise.raised
  · exact h.beginRaise

theorem Dusk.faultRaise (h : Dusk s) {c : FaultCode} : Dusk (s.faultRaise c) := by
  unfold State.faultRaise
  exact h.withTc.raiseNow

theorem Dusk.lowered (h : Dusk s) : Dusk s.lowered := by
  unfold State.lowered
  dsimp only
  repeat' split
  all_goals first | exact h.withTc.finishOp | exact h.withTc.haltOp

theorem Dusk.dwellRaise (h : Dusk s) (hp : s.lc.preview = none) : Dusk s.dwellRaise := by
  unfold State.dwellRaise
  rw [endPreview_none hp]
  exact h.withTc.beginRaise.notify

theorem Dusk.resolveStop (h : Dusk s) : Dusk s.resolveStop := by
  unfold State.resolveStop State.recoverReturn State.recoverRaise State.recoverStroke
  repeat' split
  all_goals first
    | exact h.homeFor
    | exact h.recovered
    | exact h.releaseBack.withTc.beginReturn
    | exact h.withTc.releaseBack.withTc.beginReturn
    | exact h.withTc
    | exact h.withTc.raiseNow
    | exact h.withTc.withTc.raiseNow

/-! ### TC's events (02) -/

/-- The end of a preview with no ticket OPEN, TC at rest. -/
theorem Lights.endPreview_dusk (h : Lights s) (ho : s.ticketOpen = false) (hs : s.tc.state ≠ .homing) {r : PreviewEnd} :
    Dusk (s.endPreview r) :=
  ⟨h.endPreview_dark ho, by
    unfold State.starting
    rw [endPreview_start]
    exact h.up_of hs⟩

theorem Lights.leafReport (h : Lights s) {r : LeafReport} : Lights (s.leafReport r) := by
  unfold State.leafReport
  dsimp only
  split
  · rename_i hs
    have hd := h.dusk (by simp [hs]) (by simp [hs]) (by simp [hs])
    exact (Dusk.liftReport hd.same).lights
  · rename_i hs
    have hd := h.dusk (by simp [hs]) (by simp [hs]) (by simp [hs])
    split
    · exact (Dusk.withTc hd.same).lights
    · exact h.same
  · exact h.same

theorem Lights.endCarry (h : Lights s) : Lights s.endCarry := by
  unfold State.endCarry
  split
  · rename_i hs _
    exact (h.dusk (by simp [hs]) (by simp [hs]) (by simp [hs])).withTc.lights
  · exact h

theorem Lights.headUp (h : Lights s) : Lights s.headUp := by
  unfold State.headUp
  split
  · rename_i hs
    exact (h.dusk (by simp [hs]) (by simp [hs]) (by simp [hs])).releaseBack.beginReturn.lights
  · exact h

theorem Lights.unsettled (h : Lights s) (hs : s.tc.state = .homing) : s.dark :=
  h.dark_of (by simp [State.settled, hs])

/-- A closed park switch or a raised platen unsettles nothing. -/
theorem Lights.parkPin (h : Lights s) : Lights { s with pins := { s.pins with armPark := true } } := by
  refine h.frame (fun _ => id) (fun hs => ?_) rfl id
  simp only [State.settled, Bool.and_eq_true] at *
  exact ⟨⟨hs.1.1, trivial⟩, hs.2⟩

theorem Lights.parkMade (h : Lights s) : Lights s.parkMade := by
  unfold State.parkMade
  dsimp only
  split
  · rename_i hs
    have hd := h.dusk (by simp [hs]) (by simp [hs]) (by simp [hs])
    exact (Dusk.returned hd.same).lights
  · rename_i hs
    have hd := h.dusk (by simp [hs]) (by simp [hs]) (by simp [hs])
    have h1 : Dusk { s with pins := { s.pins with armPark := true } } := hd.same
    split
    · exact h1.releaseBack.withTc.turnReturned.lights
    · exact h1.lights
  · rename_i hs
    split
    · exact (homing_ends (s := { s with pins := { s.pins with armPark := true } }) (h.unsettled hs)).lights
    · exact h.parkPin
  · exact h.parkPin

theorem Lights.upPin (h : Lights s) :
    Lights { s with pins := { s.pins with platenUp := true }, tc := { s.tc with atForce := false } } :=
  ⟨fun b hb => h.lit b hb, h.home⟩

/-- The platen phase of homing ends. -/
theorem Lights.homeArm (h : Lights s) (hs : s.tc.state = .homing) : Lights s.homeArm := by
  unfold State.homeArm
  dsimp only
  split
  · exact (homing_ends (s := s.withTc _) (h.unsettled hs)).lights
  · exact .ofDark (h.unsettled hs) h.home

theorem Lights.upMade (h : Lights s) : Lights s.upMade := by
  unfold State.upMade
  dsimp only
  split
  · rename_i hs
    have hd := h.dusk (by simp [hs]) (by simp [hs]) (by simp [hs])
    exact (Dusk.raised hd.same).lights
  · rename_i hs
    split
    · exact h.upPin.homeArm hs
    · exact h.upPin
  · exact h.upPin

theorem Lights.faultFrom (h : Lights s) (h1 : s.tc.state ≠ .unclamped) (h2 : s.tc.state ≠ .clamped)
    (h3 : s.tc.state ≠ .homing) {c : FaultCode} : Lights (s.faultRaise c) :=
  (h.dusk h1 h2 h3).faultRaise.lights

theorem Lights.overforce (h : Lights s) : Lights s.overforce := by
  unfold State.overforce
  split
  · exact h
  · exact h
  iterate 4
    rename_i hs
    have hd := (h.dusk (by simp [hs]) (by simp [hs]) (by simp [hs])).faultRaise (c := .platenOverforce)
    split
    · exact hd.completeResetDismount.lights
    · exact hd.lights
  · rename_i hs
    have hd := (h.dusk (by simp [hs]) (by simp [hs]) (by simp [hs])).faultRaise (c := .platenOverforce)
    split
    · exact h
    · exact h
    · exact hd.lights
  iterate 2
    rename_i hs
    split
    · refine ⟨h.lit, fun x => ?_⟩
      have := (h.home x).1
      rw [hs] at this
      exact TcState.noConfusion this
    · rename_i ho
      exact (h.endPreview_dusk (by simpa using ho) (by simp [hs])).faultRaise.lights
  all_goals
    rename_i hs
    exact h.faultFrom (by simp [hs]) (by simp [hs]) (by simp [hs])

theorem Lights.report (h : Lights s) {c : FaultCode} {d : List Nat} : Lights (s.report c d) := h.same
theorem Lights.notifyWith (h : Lights s) {k : NoticeKind} {f : Gathered → Gathered} : Lights (s.notifyWith k f) := h.same
theorem Lights.notify (h : Lights s) {k : NoticeKind} : Lights (s.notify k) := h.notifyWith
theorem Lights.recount (h : Lights s) {b : FaultBank} {n : Nat} : Lights (s.recount b n) := h.same
theorem Lights.goTo (h : Lights s) {n : Nat} : Lights (s.goTo n) := h.same

theorem Lights.forcePin (h : Lights s) {v : Nat} : Lights (s.withTc fun t => { t with force := v }) :=
  ⟨h.lit, h.home⟩

theorem Lights.forceRead (h : Lights s) {v : Nat} : Lights (s.forceRead v) := by
  unfold State.forceRead
  dsimp only
  split
  · exact h.forcePin.report.overforce
  · split
    · rename_i hc
      have hd := h.dusk (by simp [hc.1]) (by simp [hc.1]) (by simp [hc.1])
      exact hd.withTc.lowered.lights
    · exact h.forcePin

theorem Lights.phaseTimeout (h : Lights s) {n : Nat} (hn : s.phaseDue? = some n) : Lights s.phaseTimeout := by
  have hm : Dusk s := by
    unfold State.phaseDue? at hn
    split at hn
    · cases hn
    · rename_i hh
      refine h.dusk ?_ ?_ hh <;> intro x <;> simp [x, phaseLimit] at hn
  unfold State.phaseTimeout
  dsimp only
  have h1 := (hm.report (c := .strokeTimeout)
    (d := [s.tc.state.code, s.tc.j, s.tc.directionCode, s.tc.attempt, s.tc.air, s.tc.force])).withTc
    (f := fun t => { t with attention := some (t.attentionFor .strokeTimeout) })
  repeat' split
  all_goals first
    | exact h1.finishOp.beginRaise.lights
    | exact h1.toAttention.completeResetDismount.lights
    | exact h1.toAttention.lights

theorem Lights.homeLimit (h : Lights s) : Lights s.homeLimit := by
  unfold State.homeLimit
  split
  · rename_i d p hd
    unfold State.homeDue? at hd
    split at hd
    · rename_i hs _
      exact (homing_fails (h.unsettled hs)).lights
    · cases hd
  · exact h

theorem Lights.dwellRaise (h : Lights s) (ho : s.ticketOpen = false) (hs : s.tc.state ≠ .homing) : Dusk s.dwellRaise := by
  unfold State.dwellRaise
  exact (h.endPreview_dusk ho hs).withTc.beginRaise.notify

theorem Lights.dwellExpired (h : Lights s) : Lights s.dwellExpired := by
  unfold State.dwellExpired
  split
  · rename_i hs
    split
    · refine ⟨h.lit, fun x => ?_⟩
      have := (h.home x).1
      rw [hs] at this
      exact TcState.noConfusion this
    · rename_i ho
      exact (h.dwellRaise (by simpa using ho) (by simp [hs])).lights
  · rename_i hs
    exact (h.dusk (by simp [hs]) (by simp [hs]) (by simp [hs])).beginRaise.notify.lights
  · exact h

/-- The raise deferred to a close, with no ticket OPEN any more. -/
theorem Lights.deferredRaise (h : Lights s) (ho : s.ticketOpen = false) : Lights s.deferredRaise := by
  have hs : s.tc.pendingOverforce = true ∨ s.tc.pendingDwell = true → s.starting = false := by
    intro x
    cases e : s.starting
    · rfl
    · rcases x with x | x
      · rw [(h.home e).2.1] at x
        exact Bool.noConfusion x
      · rw [(h.home e).2.2] at x
        exact Bool.noConfusion x
  have hd : s.starting = false → Dusk (s.endPreview .cut) := fun x =>
    ⟨h.endPreview_dark ho, by unfold State.starting at *; rw [endPreview_start]; exact x⟩
  unfold State.deferredRaise
  split
  · exact h
  · rename_i h2
    unfold State.dwellRaise
    exact (hd (hs (.inr h2))).withTc.beginRaise.notify.lights
  · rename_i h1
    dsimp only
    split
    · exact (hd (hs (.inl h1))).faultRaise.notify.lights
    · exact (hd (hs (.inl h1))).faultRaise.lights

/-! ### TC's requests (02) -/

theorem Lights.decideTurn (h : Lights s) {n : Int} {c : Option Bool} {b : Bool} : Lights (decideTurn n c b s).1 := by
  unfold Machine.decideTurn
  split
  · exact h
  · rename_i hr
    have hx : s.tc.state ≠ .homing ∧ s.ticketOpen = false := by
      unfold State.turnRefusal at hr
      dsimp only at hr
      repeat' split at hr
      all_goals cases hr
      rename_i h1 h2 _ _ _
      refine ⟨fun x => ?_, by simpa using h2⟩
      rw [x] at h1
      exact h1 ⟨TcState.noConfusion, TcState.noConfusion⟩
    have hd := (h.endPreview_dusk hx.2 hx.1 (r := .cut)).withTc (f := fun t =>
      { t with op := some { kind := .turn, forward := decide (0 < n), remaining := n.natAbs, turned := 0
                            clampAfter := c.getD false, fromClamped := decide (s.tc.state = .clamped), byRun := !b } })
    simp only [answer]
    unfold State.beginTurn
    dsimp only
    repeat' split
    all_goals first | exact hd.finishOp.lights | exact hd.beginRaise.lights | exact hd.beginLeaf.lights

theorem Lights.decideClamp (h : Lights s) {b : Bool} : Lights (decideClamp b s).1 := by
  unfold Machine.decideClamp
  split
  · exact h
  split
  · exact h
  split
  · exact h
  split
  · exact h
  rename_i h3 h4
  have h3 : s.tc.state = .unclamped := by simpa using h3
  exact (h.endPreview_dusk (by simpa using h4) (by simp [h3])).withTc.beginLowering.lights

theorem Lights.decideUnclamp (h : Lights s) {b : Bool} : Lights (decideUnclamp b s).1 := by
  unfold Machine.decideUnclamp
  split
  · exact h
  split
  · exact h
  split
  · exact h
  rename_i h3 h4
  have h3 : s.tc.state = .clamped := by simpa using h3
  exact (h.endPreview_dusk (by simpa using h4) (by simp [h3])).withTc.beginRaise.lights

theorem Lights.tcHalt (h : Lights s) : Lights (tcHalt s).1 := by
  unfold Machine.tcHalt answer
  repeat' split
  · exact h
  · exact ⟨h.lit, h.home⟩
  · exact h

theorem Lights.tcResume (h : Lights s) : Lights (tcResume s).1 := by
  unfold Machine.tcResume answer refuse
  split
  · exact h
  · rename_i hs
    have hs : s.tc.state = .halted := by simpa using hs
    have hd := h.dusk (by simp [hs]) (by simp [hs]) (by simp [hs])
    refine Dusk.lights ?_
    split
    · split
      · dsimp only
        split
        · exact hd.beginRaise
        · exact hd.finishOp
      · dsimp only
        split
        · exact hd.beginRaise
        · exact hd.beginLeaf
    · split
      · exact hd.beginLowering
      · exact (hd.same : Dusk s.restHalted)

theorem Lights.runEnded (h : Lights s) : Lights s.runEnded := by
  unfold State.runEnded
  dsimp only
  repeat' split
  all_goals first
    | exact h
    | exact ⟨h.lit, h.home⟩
    | (rename_i hs
       exact (h.dusk (by simp [hs]) (by simp [hs]) (by simp [hs])).withTc.finishOp.lights)

theorem Lights.decideDeclarePending (h : Lights s) : Lights (decideDeclarePending s).1 := by
  unfold Machine.decideDeclarePending
  split
  · exact h
  split
  · exact h
  split
  · exact h
  split
  · exact h
  rename_i h3 h4
  refine (Dusk.withTc (h.endPreview_dusk (by simpa using h4) fun x => h3 ?_)).lights
  simp [x]

theorem Lights.decideDeclare (h : Lights s) {j : Nat} : Lights (decideDeclare j s).1 := by
  unfold Machine.decideDeclare answer
  split
  · exact h
  split
  · exact h
  split
  · exact h
  split
  · exact h
  rename_i hd
  dsimp only
  by_cases hu : s.tc.state = .unclamped
  · refine ⟨fun b hb => ?_, fun x => ?_⟩
    · obtain ⟨h1, h2⟩ := h.lit b hb
      refine ⟨?_, h2⟩
      simp only [State.settled, withTc_tc, withTc_pins, hu, if_true] at h1 ⊢
      exact h1
    · have := (h.home x).1
      rw [hu] at this
      exact TcState.noConfusion this
  · refine (Dusk.withTc (h.dusk hu (fun x => hd ?_) fun x => hd ?_)).lights
    · simp [State.declarable, x]
    · simp [State.declarable, x]

theorem Lights.confirm (h : Lights s) (ht : s.confirm? = some t) : Lights t := by
  unfold State.confirm? at ht
  split at ht
  · rename_i hs
    cases ht
    exact (h.dusk (by simp [hs]) (by simp [hs]) (by simp [hs])).withTc.lights
  · rename_i hs
    split at ht
    · cases ht
      exact (h.dusk (by simp [hs]) (by simp [hs]) (by simp [hs])).withTc.lights
    · cases ht
  · cases ht

theorem Lights.decideRecover (h : Lights s) : Lights (decideRecover s).1 := by
  unfold Machine.decideRecover
  split
  · rename_i hs
    split
    · exact h
    · split
      · exact h
      · exact (h.dusk (by simp [hs]) (by simp [hs]) (by simp [hs])).resolveStop.lights
  · rename_i hs
    split
    · exact h
    · split
      · exact h
      · exact (h.dusk (by simp [hs]) (by simp [hs]) (by simp [hs])).withTc.homeFor.lights
  · exact h

end Sys2Proof.Machine
end

