-- ==== Sys2Proof/Laws/LightsCapture.lean ====
section
/-! SUPPORT. What LC's, CC's, DI's and the selector's operations keep of `lightSound` (03, 04, 05). -/

set_option Elab.async false

namespace Sys2Proof.Machine

variable {s t : State}

/-! ### Tickets -/

/-- A change of the tickets one by one that leaves each open, of its mount, and not orphaned. -/
theorem capturing_map {g : Ticket → Ticket} (h : s.capturing) (ht : t.cc.tickets = s.cc.tickets.map g)
    (hg : ∀ k, (g k).closed = k.closed ∧ (g k).mountNo = k.mountNo ∧ (g k).orphaned = k.orphaned)
    (hs : t.cc.state ≠ .idle ∧ t.cc.state ≠ .collect) (hv : t.sau.volume = s.sau.volume) : t.capturing := by
  obtain ⟨-, -, v, k, h1, h2, h3⟩ := h
  refine ⟨hs.1, hs.2, v, g k, hv.trans h1, ?_, ?_⟩
  · unfold State.openTicket? at *
    rw [ht, List.getLast?_map]
    cases hl : s.cc.tickets.getLast? with
    | none =>
      rw [hl] at h2
      cases h2
    | some u =>
      rw [hl] at h2
      dsimp only at h2
      simp only [Option.map_some, (hg u).1]
      split at h2
      · simp at h2
      · rename_i hu
        rw [if_neg hu]
        injection h2 with h2
        rw [h2]
  · unfold Ticket.ofMount at *
    rw [(hg k).2.1, (hg k).2.2]
    exact h3

theorem capturing_onOpen {f : Ticket → Ticket} (h : s.capturing)
    (hf : ∀ k, (f k).closed = k.closed ∧ (f k).mountNo = k.mountNo ∧ (f k).orphaned = k.orphaned) :
    (s.onOpenTicket f).capturing := by
  refine capturing_map (g := fun t => if t.closed then t else f t) h rfl (fun k => ?_) ⟨h.1, h.2.1⟩ rfl
  split
  · exact ⟨rfl, rfl, rfl⟩
  · exact hf k

theorem Lights.onOpenTicket (h : Lights s) {f : Ticket → Ticket}
    (hf : ∀ k, (f k).closed = k.closed ∧ (f k).mountNo = k.mountNo ∧ (f k).orphaned = k.orphaned := by
      exact fun _ => ⟨rfl, rfl, rfl⟩) : Lights (s.onOpenTicket f) :=
  h.frame (fun _ => id) id rfl (fun x => capturing_onOpen x hf)

theorem giveHalf_keeps (c : Camera) (r : SideResult) (k : Ticket) :
    (k.giveHalf c r).closed = k.closed ∧ (k.giveHalf c r).mountNo = k.mountNo
      ∧ (k.giveHalf c r).orphaned = k.orphaned := by
  cases c <;> exact ⟨rfl, rfl, rfl⟩

theorem Lights.setSide (h : Lights s) {n : Nat} {st : SideState} : Lights (s.setSide n st) := by
  rw [setSide_frame]
  exact h.same

theorem Lights.supersede (h : Lights s) {n : Nat} : Lights (s.supersede n) := by
  unfold State.supersede
  split
  · refine h.setSide.frame (fun _ => id) id rfl fun x => capturing_map x rfl (fun k => ?_) ⟨x.1, x.2.1⟩ rfl
    unfold Ticket.supersede
    split <;> exact ⟨rfl, rfl, rfl⟩
  · exact h

theorem Lights.retestBacklog (h : Lights s) : Lights s.retestBacklog := h.same

theorem Lights.applyHalf (h : Lights s) {v : Verdict} {x : Option Half} : Lights (s.applyHalf v x) := by
  unfold State.applyHalf
  split
  · split
    · exact h
    · exact h.setSide
  · exact h

theorem Lights.applyVerdicts (h : Lights s) {k : Ticket} {l r : Verdict} : Lights (s.applyVerdicts k l r) := by
  unfold State.applyVerdicts
  split
  · split
    · exact h.applyHalf.applyHalf
    · exact h
  · exact h

theorem applyHalf_tickets (s : State) (v : Verdict) (x : Option Half) :
    (s.applyHalf v x).cc.tickets = s.cc.tickets := by
  unfold State.applyHalf
  split
  · split
    · rfl
    · rw [setSide_frame]
  · rfl

theorem applyVerdicts_tickets (s : State) (k : Ticket) (l r : Verdict) :
    (s.applyVerdicts k l r).cc.tickets = s.cc.tickets := by
  unfold State.applyVerdicts
  split
  · split
    · rw [applyHalf_tickets, applyHalf_tickets]
    · rfl
  · rfl

/-- The oldest ticket, where it is CLOSED, is not the one of a capture in progress. -/
theorem Lights.freeOldest (h : Lights s) {k : Ticket} {rest : List Ticket} (ht : s.cc.tickets = k :: rest)
    (hk : k.closed = true) : Lights s.freeOldest := by
  refine h.frame (fun _ => id) id rfl fun x => ?_
  obtain ⟨h1, h2, v, u, h3, h4, h5⟩ := x
  refine ⟨h1, h2, v, u, h3, ?_, h5⟩
  unfold State.openTicket? at *
  rw [ht] at h4
  cases rest with
  | nil => simp [hk] at h4
  | cons a l =>
    simp only [State.freeOldest, ht, List.drop_succ_cons, List.drop_zero]
    rw [List.getLast?_cons_cons] at h4
    exact h4

theorem Lights.releaseWalk {l r : Verdict} (n : Nat) :
    ∀ {s : State} {done : List Nat}, Lights s → Lights (releaseWalk l r n s done).1 := by
  induction n with
  | zero => exact fun h => h
  | succ n ih =>
    intro s done h
    unfold Machine.releaseWalk
    split
    · exact h
    · rename_i k rest hk
      split
      · rename_i hc
        exact ih (h.applyVerdicts.freeOldest ((applyVerdicts_tickets s k l r).trans hk) hc)
      · exact h

/-! ### LC (03) -/

theorem Lights.ofDarkFrom (h : Lights s) (hd : t.dark) (hst : t.start = s.start := by first | rfl | simp)
    (htc : t.tc = s.tc := by first | rfl | simp) : Lights t :=
  .ofDark hd fun x => by
    rw [htc]
    exact h.home (by unfold State.starting at *; rw [← hst]; exact x)

theorem Lights.banksDark (h : Lights s) : Lights s.banksDark :=
  h.ofDarkFrom (banksDark_dark s)

theorem Lights.endWindow (h : Lights s) : Lights s.endWindow :=
  h.ofDarkFrom (endWindow_dark s)

/-- A lit preview ends in the dark. -/
theorem endPreview_darkOf (h : s.lc.preview.isSome = true) (r : PreviewEnd) : (s.endPreview r).dark := by
  unfold State.endPreview
  split
  · rename_i e
    rw [e] at h
    exact Bool.noConfusion h
  · exact endWindow_dark s

theorem Lights.endPreview (h : Lights s) {r : PreviewEnd} : Lights (s.endPreview r) := by
  cases hp : s.lc.preview with
  | none =>
    rw [endPreview_none hp]
    exact h
  | some _ => exact h.ofDarkFrom (endPreview_darkOf (by simp [hp]) r)

/-- An operation that puts banks out, or leaves them. -/
theorem Lights.dim (h : Lights s) {l : Lc} (hb : ∀ b, (l.banks.get b).lit = true → (s.lc.banks.get b).lit = true)
    (hp : l.preview = s.lc.preview := by rfl) : Lights { s with lc := l } :=
  h.frame hb id hp id

theorem Lights.withDi (h : Lights s) {d : Di} : Lights { s with di := d } := h.same
theorem Lights.withSet (h : Lights s) {c : Settings} : Lights { s with set := c } := h.same

/-- A change of the settings and of LC's part but for its banks and its preview. -/
theorem Lights.setLc (h : Lights s) {c : Settings} {l : Lc} (hb : l.banks = s.lc.banks)
    (hp : l.preview = s.lc.preview) : Lights { s with set := c, lc := l } :=
  Lights.dim (h.withSet (c := c)) (fun b x => by rw [hb] at x; exact x) hp

theorem Lights.litTimeEnded (h : Lights s) {w : Bool} : Lights (s.litTimeEnded w) := by
  rw [litTimeEnded_frame]
  exact h.withDi

theorem Lights.compareAt (h : Lights s) {d : Nat} {w : Window} : Lights (s.compareAt d w) := by
  unfold State.compareAt
  refine h.dim fun b hb => ?_
  rwa [PerBank.get_map, step_lit] at hb

theorem Lights.compare (h : Lights s) : Lights s.compare := by
  unfold State.compare
  split
  · exact h.compareAt
  · exact h

theorem Lights.bankFault (h : Lights s) {b : LampBank} {r : CurrentReport} : Lights (s.bankFault b r) := by
  unfold State.bankFault
  dsimp only
  split
  · have h1 : Lights { s with lc := { s.lc with
        banks := s.lc.banks.set b { (s.lc.banks.get b).dark with faulted := true, kind := some (reportCode r) } } } := by
      refine h.dim fun b' hb => ?_
      rw [PerBank.get_set] at hb
      split at hb
      · exact Bool.noConfusion hb
      · exact hb
    have h2 := (h1.litTimeEnded (w := true)).report (c := reportCode r) (d := [bankCode b])
    split
    · split
      · exact h2.onOpenTicket
      · exact h2.onOpenTicket.endPreview
    · split
      · exact h2
      · exact h2.endPreview
  · exact h

theorem previewRefusal_settled {p d : Nat} (h : s.previewRefusal p d = none) : s.settled = true :=
  (previewRefusal_none h).1

theorem Lights.decidePreview (h : Lights s) {p d : Nat} : Lights (decidePreview p d s).1 := by
  unfold Machine.decidePreview
  split
  · exact h
  · rename_i hr
    have hs : s.settled = true := previewRefusal_settled hr
    exact ⟨fun _ _ => ⟨hs, .inl rfl⟩, h.home⟩

theorem Lights.decidePreviewOff (h : Lights s) : Lights (decidePreviewOff s).1 := by
  unfold Machine.decidePreviewOff
  split
  · exact h.endPreview
  · exact h

theorem Lights.decideProfileLevel (h : Lights s) {p : Nat} {b : Option LampBank} {a : Option LevelAction} :
    Lights (decideProfileLevel p b a s).1 := by
  unfold Machine.decideProfileLevel
  split
  · split
    · exact h
    · exact h.setLc rfl rfl
  · exact h

theorem Lights.decideLampClear (h : Lights s) {x : Option LampTarget} : Lights (decideLampClear x s).1 := by
  unfold Machine.decideLampClear
  split
  · exact h
  · exact h.withDi
  · refine h.dim fun b' hb => ?_
    rw [PerBank.get_set] at hb
    split at hb
    · rename_i e
      subst e
      exact hb
    · exact hb

/-! ### CC (05) -/

/-- After a close no ticket is OPEN. -/
theorem closeTicket_ticketOpen (s : State) : s.closeTicket.ticketOpen = false := by
  unfold State.closeTicket
  split
  · rename_i h
    simp [State.ticketOpen, h]
  · dsimp only
    unfold State.ticketOpen State.openTicket?
    simp only [retestBacklog_tickets, State.notify, notifyWith_cc, onOpenTicket_tickets, mapOpen, List.getLast?_map]
    cases s.cc.tickets.getLast? with
    | none => rfl
    | some u => cases hc : u.closed <;> simp [hc]

/-- The close of a ticket in the dark, or with no capture's window open. -/
theorem Lights.closeTicket (h : Lights s) (hn : s.dark ∨ ¬ s.capturing) : Lights s.closeTicket := by
  rcases hn with hd | hn
  · refine h.ofDarkFrom fun b => ?_
    rw [closeTicket_lc]
    exact hd b
  · refine ⟨fun b hb => ?_, fun x => ?_⟩
    · rw [closeTicket_lc] at hb
      obtain ⟨h1, h2⟩ := h.lit b hb
      refine ⟨settled_of (by rw [closeTicket_tc]) (by rw [closeTicket_pins]) (by rw [closeTicket_pins]) h1, .inl ?_⟩
      rw [closeTicket_lc]
      exact h2.resolve_right hn
    · rw [closeTicket_tc]
      exact h.home (by unfold State.starting at *; rw [closeTicket_start] at x; exact x)

theorem Lights.closeCapture (h : Lights s) (hn : s.dark ∨ ¬ s.capturing) : Lights s.closeCapture :=
  (h.closeTicket hn).deferredRaise (closeTicket_ticketOpen s)

theorem Lights.tryClose (h : Lights s) : Lights s.tryClose := by
  unfold State.tryClose
  split
  · rename_i hc
    exact h.closeCapture (.inr fun x => x.2.1 hc.1)
  · exact h

theorem Lights.lampsOff (h : Lights s) : Lights s.lampsOff := by
  unfold State.lampsOff
  apply Lights.tryClose
  exact h.ofDarkFrom (t := { s.endWindow with cc := _ }) (endWindow_dark s) (endWindow_start s) (endWindow_tc s)

theorem Lights.tryLampsOff (h : Lights s) : Lights s.tryLampsOff := by
  unfold State.tryLampsOff
  split
  · exact h.lampsOff
  · exact h

/-- A cut puts a capture's window out. -/
theorem Lights.cutCapture (h : Lights s) {r : SideResult} : Lights (s.cutCapture r) := by
  unfold State.cutCapture
  dsimp only
  have h1 : Lights { s.onOpenTicket (Ticket.giveAll r) with cc :=
      { (s.onOpenTicket (Ticket.giveAll r)).cc with cut := some (s.cc.cut.getD r) } } :=
    Lights.same (h.onOpenTicket (f := Ticket.giveAll r))
  split
  · exact h
  · exact h1.endWindow.closeCapture (.inl (endWindow_dark _))
  · exact h1.endWindow.closeCapture (.inl (endWindow_dark _))
  · exact h1.endWindow
  · split
    · exact h1.tryClose
    · exact h

/-- What the abandonment of a capture leaves lit is what was lit with no capture in progress. -/
theorem abandonCapture_lit (s : State) (b : LampBank) (hb : (s.abandonCapture.lc.banks.get b).lit = true) :
    (s.lc.banks.get b).lit = true ∧ s.cc.state = .idle := by
  unfold State.abandonCapture at hb
  split at hb
  · exact ⟨hb, by assumption⟩
  · simp only [closeTicket_lc, onOpenTicket_lc] at hb
    rw [endWindow_dark s b] at hb
    exact Bool.noConfusion hb

/-- A preview's end and a capture's abandonment leave every bank dark. -/
theorem Lights.abandon_dark (h : Lights s) {r : PreviewEnd} : ((s.endPreview r).abandonCapture).dark := by
  intro b
  cases hl : (((s.endPreview r).abandonCapture).lc.banks.get b).lit
  · rfl
  · obtain ⟨h1, h2⟩ := abandonCapture_lit _ _ hl
    rcases (h.endPreview (r := r)).lit b h1 with ⟨-, x | x⟩
    · rw [endPreview_preview] at x
      exact Bool.noConfusion x
    · exact absurd h2 x.1

theorem Lights.testTarget (h : Lights s) {k : Ticket} {n : Nat} : Lights (s.testTarget k n) := by
  unfold State.testTarget
  split
  · exact h
  · dsimp only
    split
    · split
      · exact h.onOpenTicket.report
      · exact h.report
    · split
      · exact h.onOpenTicket
      · exact h

theorem Lights.trigger (h : Lights s) {c : SyncSource} : Lights (s.trigger c) := by
  unfold State.trigger
  split
  · exact h
  · rename_i k hk
    dsimp only
    refine Lights.testTarget ?_
    refine Lights.dim (s := State.onOpenTicket _ _) (Lights.onOpenTicket (s := { s with cc := s.cc.fire k s.now }) ?_)
      fun _ => id
    refine h.frame (fun _ => id) id rfl fun x => ?_
    exact capturing_map (g := id) x (by simp [Cc.fire]) (fun _ => ⟨rfl, rfl, rfl⟩) ⟨nofun, nofun⟩ rfl

section untouched
variable (s : State) (c : SyncSource)
theorem testTarget_start (k : Ticket) (n : Nat) : (s.testTarget k n).start = s.start := by
  unfold State.testTarget
  repeat' split
  all_goals simp
theorem testTarget_tc (k : Ticket) (n : Nat) : (s.testTarget k n).tc = s.tc := by
  unfold State.testTarget
  repeat' split
  all_goals simp
theorem trigger_start : (s.trigger c).start = s.start := by
  unfold State.trigger
  split
  · rfl
  · rw [testTarget_start]
    rfl
theorem trigger_tc : (s.trigger c).tc = s.tc := by
  unfold State.trigger
  split
  · rfl
  · rw [testTarget_tc]
    rfl
theorem deliverEdge_start : (s.deliverEdge c).start = s.start := by
  unfold State.deliverEdge
  dsimp only
  repeat' split
  all_goals first | rfl | exact trigger_start _ c
theorem deliverEdge_tc : (s.deliverEdge c).tc = s.tc := by
  unfold State.deliverEdge
  dsimp only
  repeat' split
  all_goals first | rfl | exact trigger_tc _ c
end untouched

theorem Lights.camCc (h : Lights s) {k : Camera} {v : Cam} : Lights { s with cc := s.cc.setCam k v } := by
  cases k <;> exact h.same

theorem Lights.exposureElapsed (h : Lights s) : Lights s.exposureElapsed := by
  unfold State.exposureElapsed
  apply Lights.tryLampsOff
  exact h.same

theorem Lights.camDone (h : Lights s) {k : Camera} : Lights (s.camDone k) := by
  unfold State.camDone
  exact h.camCc.tryLampsOff

theorem Lights.cameraPins (h : Lights s) {k : Camera} {l r : Bool} :
    Lights { s with pins := (s.pins.setReady k r).setExposing k l } := by
  cases k <;> exact h.same

theorem Lights.readyPin (h : Lights s) {k : Camera} {r : Bool} : Lights { s with pins := s.pins.setReady k r } := by
  cases k <;> exact h.same

theorem Lights.cameraExposing (h : Lights s) {k : Camera} {l r : Bool} : Lights (s.cameraExposing k l r) := by
  unfold State.cameraExposing
  dsimp only
  have h1 : Lights { s with pins := (s.pins.setReady k r).setExposing k l } := h.cameraPins
  split
  · split
    · exact h1.camCc
    · split
      · exact h1.camDone
      · exact h1
  · exact h1

theorem Lights.cameraStored (h : Lights s) {k : Camera} {r : Bool} : Lights (s.cameraStored k r) := by
  unfold State.cameraStored
  dsimp only
  have h1 : Lights { s with pins := s.pins.setReady k r } := h.readyPin
  split
  · apply Lights.tryClose
    refine Lights.onOpenTicket ?_ (giveHalf_keeps k .stored)
    cases k <;> exact h1.same
  · exact h1.camCc

theorem Lights.frameTimeout (h : Lights s) {k : Camera} : Lights (s.frameTimeout k) := by
  unfold State.frameTimeout
  dsimp only
  split
  · exact h.report.onOpenTicket (giveHalf_keeps k .noFrame)
  · exact h

theorem Lights.framePassed (h : Lights s) : Lights s.framePassed := by
  unfold State.framePassed
  dsimp only
  have h1 := h.frameTimeout (k := .a) |>.frameTimeout (k := .b)
  split
  · apply Lights.lampsOff
    exact h1.same
  · apply Lights.tryClose
    exact h1.same

/-- An accepted CAPTURE opens its own ticket on the mounted volume, with the cradle settled (05 R116, R117). -/
theorem Lights.openCapture (h : Lights s) {p : Nat} {sel : Selection} (hm : s.mounted = true) (hs : s.settled = true) :
    Lights (s.openCapture p sel) := by
  unfold State.openCapture
  dsimp only
  rw [hold_frame, hold_frame]
  cases hv : s.sau.volume with
  | none =>
    unfold State.mounted at hm
    rw [hv] at hm
    exact Bool.noConfusion hm
  | some v =>
    refine ⟨fun b _ => ⟨?_, .inr ⟨nofun, nofun, v, ?_⟩⟩, fun x => ?_⟩
    · exact settled_of (s := s) (by simp [State.openWindow]) (by simp [State.openWindow]) (by simp [State.openWindow]) hs
    · simp [State.openWindow, State.openTicket?, State.newTicket, hv, Ticket.ofMount]
    · have hx : s.starting = true := by
        unfold State.starting at *
        simpa [State.openWindow] using x
      simpa [State.openWindow] using h.home hx

theorem captureRefusal_mounted {p : Nat} {r : Option SideSelection} {sel : Selection} {f : Bool}
    (h : s.captureRefusal p r sel f = none) : s.mounted = true := by
  unfold State.captureRefusal at h
  dsimp only at h
  split at h
  · cases h
  · rename_i hm
    simpa using hm

theorem Lights.decideCapture (h : Lights s) {p : Nat} {x : SidesOverride} {f : Bool} :
    Lights (decideCapture p x f s).1 := by
  unfold Machine.decideCapture
  dsimp only
  split
  · exact h.report
  · exact h
  · rename_i hr
    exact h.openCapture (captureRefusal_mounted hr) (captureRefusal_none hr).1

/-! ### DI (04) -/

theorem Lights.doseNotice (h : Lights s) {r : DoseReason} : Lights (s.doseNotice r) := h.notifyWith

theorem Lights.cutLight (h : Lights s) {r : SideResult} : Lights (s.cutLight r) :=
  h.endPreview.cutCapture.banksDark

theorem Lights.testWarning (h : Lights s) {c : ClassRec} : Lights (s.testWarning c) := by
  unfold State.testWarning
  split
  · exact h.withDi.doseNotice
  · exact h

theorem Lights.testBudget (h : Lights s) {c : ClassRec} : Lights (s.testBudget c) := by
  unfold State.testBudget
  split
  · exact h.withDi.cutLight.report.doseNotice
  · exact h

theorem Lights.testDayDose (h : Lights s) : Lights s.testDayDose := by
  unfold State.testDayDose
  split
  · exact h.testWarning.testBudget
  · exact h

theorem Lights.chargeDay (h : Lights s) {u : Nat} : Lights (s.chargeDay u) := h.same

theorem Lights.chargeTicket (h : Lights s) {u : Nat} : Lights (s.chargeTicket u) := by
  unfold State.chargeTicket
  split
  · exact h.onOpenTicket
  · exact h

theorem Lights.creditLit (h : Lights s) {u : Nat} : Lights (s.creditLit u) := by
  unfold State.creditLit
  split
  · exact h
  · exact h.chargeDay.chargeTicket.testDayDose

theorem Lights.creditAmbient (h : Lights s) {u : Nat} : Lights (s.creditAmbient u) := by
  unfold State.creditAmbient
  split
  · exact h
  · exact h.chargeDay.testDayDose

theorem Lights.integrate (h : Lights s) : Lights s.integrate := by
  unfold State.integrate
  exact h.withDi.creditLit

theorem Lights.sensorFailed (h : Lights s) : Lights s.sensorFailed := by
  unfold State.sensorFailed
  exact h.withDi.cutLight.report

theorem Lights.litSample (h : Lights s) : Lights s.litSample := by
  unfold State.litSample
  dsimp only
  have h1 : Lights { s with di := { s.di with
      satCount := nextCount (s.di.raw == 4095) s.di.satCount, darkCount := nextCount (s.di.raw == 0) s.di.darkCount } } :=
    h.withDi
  split
  · split
    · exact h1.report.integrate.sensorFailed
    · exact h1.integrate.sensorFailed
  · split
    · exact h1.report.integrate
    · exact h1.integrate

theorem Lights.readSensor (h : Lights s) : Lights s.readSensor := by
  unfold State.readSensor
  dsimp only
  split
  · exact h.withDi.litSample
  · exact h.withDi

theorem Lights.setSensor (h : Lights s) {r : Nat} : Lights (s.setSensor r) := h.same

theorem Lights.accrue (h : Lights s) : Lights s.accrue := by
  unfold State.accrue
  dsimp only
  have h1 : Lights { s with di := { s.di with lastAmbient := some (s.clock / 1000) } } := h.withDi
  split
  · split
    · exact h1.creditAmbient
    · exact h1
  · exact h1

theorem Lights.milli (h : Lights s) : Lights s.milli := by
  have h1 : Lights s.readOnce := by
    unfold State.readOnce
    split
    · exact h
    · exact h.readSensor
  unfold State.milli
  dsimp only
  split
  · exact h1.accrue
  · exact h1

theorem Lights.rollover (h : Lights s) : Lights s.rollover := by
  unfold State.rollover
  dsimp only
  apply Lights.doseNotice
  split <;> exact h.same

theorem Lights.alarmExpired (h : Lights s) : Lights s.alarmExpired := by
  unfold State.alarmExpired
  exact h.withDi.rollover

theorem Lights.decideDayMark (h : Lights s) {l : Nat} : Lights (decideDayMark l s).1 := by
  unfold Machine.decideDayMark
  split
  · exact h
  · dsimp only [answer]
    apply Lights.rollover
    exact h.same

theorem Lights.decideCarryDrop (h : Lights s) {r : Text} : Lights (decideCarryDrop r s).1 := by
  unfold Machine.decideCarryDrop
  repeat' split
  all_goals first | exact h | exact h.withDi

theorem Lights.decideCarryRead (h : Lights s) {n : Nat} : Lights (decideCarryRead n s).1 := by
  unfold Machine.decideCarryRead
  repeat' split
  all_goals exact h

/-! ### The sync selector (05) -/

theorem Lights.withSync (h : Lights s) {f : Sync → Sync} : Lights (s.withSync f) := h.same

theorem Lights.deliverEdge (h : Lights s) {c : SyncSource} : Lights (s.deliverEdge c) := by
  unfold State.deliverEdge
  dsimp only
  have h1 : Lights { (s.withSync fun y => { y with delivered := some s.now }) with
      lc := { (s.withSync fun y => { y with delivered := some s.now }).lc with
        frameEdge := some s.now
        banks := (s.withSync fun y => { y with delivered := some s.now }).lc.banks.map BankRec.atEdge } } :=
    h.withSync.dim fun b hb => by rw [PerBank.get_map] at hb; exact hb
  split
  · exact h1.trigger
  · split
    · split
      · exact h1.trigger
      · exact h1
    · exact h1
  all_goals exact h1

theorem Lights.settleEnded (h : Lights s) : Lights s.settleEnded := by
  have h1 : Lights { s with cc := { s.cc with state := .waitEdge } } :=
    h.frame (fun _ => id) id rfl fun x => capturing_map (g := id) x (by simp) (fun _ => ⟨rfl, rfl, rfl⟩) ⟨nofun, nofun⟩ rfl
  unfold State.settleEnded
  dsimp only
  split
  · exact h1.trigger
  · exact h1

theorem Lights.startGenerator (h : Lights s) : Lights s.startGenerator := h.withSync.deliverEdge

theorem Lights.runGenerator (h : Lights s) : Lights s.runGenerator := by
  unfold State.runGenerator
  split
  · exact h
  · exact h.startGenerator

theorem Lights.syncNotice (h : Lights s) {b : Bool} : Lights (s.syncNotice b) := h.notifyWith
theorem Lights.syncSwitched (h : Lights s) : Lights s.syncSwitched := h.onOpenTicket
theorem Lights.beginDetection (h : Lights s) : Lights s.beginDetection := h.withSync

theorem Lights.watchEnded (h : Lights s) : Lights s.watchEnded := by
  unfold State.watchEnded
  dsimp only
  apply Lights.syncNotice
  split
  · exact h.withSync
  · exact h.withSync.startGenerator

theorem Lights.externalEdge (h : Lights s) : Lights s.externalEdge := by
  unfold State.externalEdge
  dsimp only
  have h1 : Lights (s.withSync (Sync.measure s.set.syncRate s.now)) := h.withSync
  split
  · exact h
  · exact h
  · exact h1.deliverEdge
  · exact h1.deliverEdge
  · exact h1.withSync
  · split
    · exact h1.withSync.deliverEdge.syncSwitched.syncNotice
    · exact h1

theorem Lights.sourceLost (h : Lights s) : Lights s.sourceLost := by
  unfold State.sourceLost
  exact h.withSync.startGenerator.report.syncNotice.syncSwitched

theorem Lights.generatorEdge (h : Lights s) : Lights s.generatorEdge := h.withSync.deliverEdge

theorem Lights.decideSyncDetect (h : Lights s) : Lights (decideSyncDetect s).1 := by
  unfold Machine.decideSyncDetect
  repeat' split
  all_goals first | exact h | exact h.beginDetection

theorem Lights.selectSource (h : Lights s) {c : SyncSource} : Lights (s.selectSource c) := by
  unfold State.selectSource
  repeat' split
  all_goals first | exact h.withSync.runGenerator | exact h.withSync

theorem Lights.decideSyncSelect (h : Lights s) {c : Option SyncSource} : Lights (decideSyncSelect c s).1 := by
  unfold Machine.decideSyncSelect
  repeat' split
  all_goals first | exact h | exact h.selectSource

theorem Lights.setRate (h : Lights s) {n : Nat} : Lights (s.setRate n) := by
  unfold State.setRate
  dsimp only
  split
  · exact h.withSet.beginDetection
  · exact h.withSet

end Sys2Proof.Machine
end

