-- ==== Sys2Proof/Laws/LightsEvents.lean ====
section
/-! SUPPORT. What RC, PS, SAU's requests, the guard, the resets, LK and the events keep of `lightSound` (01, 02, 07, 08, 10,
11). -/

set_option Elab.async false

namespace Sys2Proof.Machine

variable {s t : State}

/-! ### RC (07) -/

theorem Lights.withRc (h : Lights s) {f : Rc → Rc} : Lights (s.withRc f) := h.same
theorem Lights.setRun (h : Lights s) {st : RunState} : Lights (s.setRun st) := h.withRc.notify
theorem Lights.pauseRun (h : Lights s) {r : PauseReason} : Lights (s.pauseRun r) := h.withRc.setRun
theorem Lights.endRun (h : Lights s) {r : EndReason} : Lights (s.endRun r) := h.withRc.setRun
theorem Lights.waitRun (h : Lights s) {d : DuePart} : Lights (s.waitRun d) := h.withRc

theorem Lights.endStep (h : Lights s) : Lights s.endStep := by
  unfold State.endStep
  split
  · exact h.endRun
  · split
    · exact h.waitRun
    · split
      · split
        · exact h.decideUnclamp.withRc
        · exact h.pauseRun
      · exact h.decideTurn.withRc

theorem Lights.captureAnswered (h : Lights s) {n : Nat} {r : Result} : Lights (s.captureAnswered n r) := by
  unfold State.captureAnswered
  split
  all_goals first
    | exact h.withRc
    | exact h.endStep
    | exact h.withRc.endStep
    | exact h.endRun
    | exact h.pauseRun

theorem Lights.runCapture (h : Lights s) : Lights s.runCapture :=
  h.decideCapture.captureAnswered

theorem Lights.runStep (h : Lights s) : Lights s.runStep := by
  unfold State.runStep
  split
  · exact h.endStep
  · split
    · exact h.waitRun
    · split
      · exact h.decideClamp.withRc
      · exact h.runCapture

theorem Lights.activateRun (h : Lights s) : Lights s.activateRun :=
  h.withRc.setRun.runStep

theorem Lights.hearEnd (h : Lights s) {e : HeardEnd} : Lights (s.hearEnd e) := by
  unfold State.hearEnd
  repeat' split
  all_goals first | exact h | exact h.pauseRun | exact h.runStep

theorem Lights.hearClose (h : Lights s) {n : Nat} : Lights (s.hearClose n) := by
  unfold State.hearClose
  dsimp only
  repeat' split
  all_goals first | exact h | exact h.withRc.pauseRun | exact h.withRc.endStep | exact h.withRc

theorem Lights.wakeRun (h : Lights s) : Lights s.wakeRun := by
  unfold State.wakeRun
  repeat' split
  all_goals first | exact h | exact h.pauseRun | exact h.endStep | exact h.runStep

theorem Lights.serveRun (n : Nat) : ∀ {s : State}, Lights s → Lights (serveRun n s) := by
  induction n with
  | zero => exact fun h => h
  | succ n ih =>
    intro s h
    unfold Machine.serveRun
    split
    · exact ih h.withRc.hearEnd
    · exact ih h.withRc.hearClose
    · dsimp only
      split
      · exact ih h.wakeRun
      · exact h.wakeRun

theorem Lights.decideRunStart (h : Lights s) {l p : Nat} {m : Option RunMode} : Lights (decideRunStart l p m s).1 := by
  unfold Machine.decideRunStart
  repeat' split
  all_goals first | exact h | exact h.withRc.activateRun

theorem Lights.rcHalt (h : Lights s) : Lights s.rcHalt := by
  unfold State.rcHalt
  repeat' split
  all_goals first | exact h | exact h.pauseRun | exact h.withRc | exact h.setRun

theorem Lights.decideHalt (h : Lights s) : Lights (decideHalt s).1 :=
  h.tcHalt.rcHalt

theorem Lights.resumedByTc (h : Lights s) {r : Result} : Lights (s.resumedByTc r) := by
  unfold State.resumedByTc
  split
  all_goals first | exact h.withRc.setRun | exact h.activateRun | exact h

theorem Lights.rcResume (h : Lights s) {r : PauseReason} : Lights (rcResume r s).1 := by
  unfold Machine.rcResume
  dsimp only
  repeat' split
  all_goals first
    | exact h.endRun
    | exact h
    | exact h.tcResume
    | exact h.tcResume.resumedByTc
    | exact h.activateRun

theorem Lights.decideResume (h : Lights s) : Lights (decideResume s).1 := by
  unfold Machine.decideResume
  split
  · exact h.rcResume
  · exact h.tcResume

theorem Lights.decideRunEnd (h : Lights s) : Lights (decideRunEnd s).1 := by
  unfold Machine.decideRunEnd
  split
  · exact h.endRun.runEnded
  · exact h

theorem Lights.ticketFreed (h : Lights s) : Lights s.ticketFreed := by
  unfold State.ticketFreed
  repeat' split
  all_goals first | exact h | exact h.endRun | exact h.activateRun

theorem Lights.rcSafeStop (h : Lights s) : Lights s.rcSafeStop := by
  unfold State.rcSafeStop
  split
  all_goals first | exact h | exact h.pauseRun | exact h.setRun

theorem Lights.decideTicketRelease (h : Lights s) {n : Nat} {l r : Option Verdict} :
    Lights (decideTicketRelease n l r s).1 := by
  unfold Machine.decideTicketRelease
  dsimp only
  repeat' split
  all_goals first | exact h | exact (Lights.releaseWalk _ h).retestBacklog.ticketFreed

theorem Lights.markRead (h : Lights s) {n : Nat} : Lights (s.markRead n) := by
  unfold State.markRead
  apply Lights.retestBacklog
  refine h.frame (fun _ => id) id rfl fun x => capturing_map x rfl (fun k => ?_) ⟨x.1, x.2.1⟩ rfl
  split <;> exact ⟨rfl, rfl, rfl⟩

theorem Lights.readTicket (h : Lights s) {n : Nat} : Lights (readTicket n s).1 := by
  unfold Machine.readTicket
  repeat' split
  all_goals first | exact h | exact h.markRead

theorem Lights.decideTicketRead (h : Lights s) {r : TicketRef} : Lights (decideTicketRead r s).1 := by
  unfold Machine.decideTicketRead
  repeat' split
  all_goals first | exact h | exact h.readTicket

theorem Lights.decideBacklogSet (h : Lights s) {a b : Nat} : Lights (decideBacklogSet a b s).1 := by
  unfold Machine.decideBacklogSet
  dsimp only [answer]
  exact h.withSet.retestBacklog

/-! ### PS (07) -/

theorem Lights.inputChange (h : Lights s) {k : Key} {b : Bool} : Lights (s.inputChange k b) := h.same

theorem Lights.recordLocal (h : Lights s) {k : Key} {r : Option (LocalRequest × Result)} :
    Lights (s.recordLocal k r) := h.same

theorem Lights.byKey {k : Key} {q : LocalRequest} {a : State × Answer} (h : Lights a.1) : Lights (State.byKey k q a) :=
  h.recordLocal

theorem Lights.retakeSide (h : Lights s) {n : Nat} : Lights (s.retakeSide n) := by
  unfold State.retakeSide
  repeat' split
  all_goals first | exact h | exact h.supersede | exact h.setSide

theorem Lights.actKey (h : Lights s) {k : Key} : Lights (s.actKey k) := by
  unfold State.actKey
  split
  · exact h.decideHalt.byKey
  · unfold State.pressPedal
    repeat' split
    all_goals first | exact h.decideResume.byKey | exact h.decideCapture.byKey | exact h.recordLocal
  · unfold State.pressConfirm
    split
    · rename_i hc
      exact (h.confirm hc).recordLocal
    · split
      · exact Lights.recordLocal (s := s.handTurned) ⟨h.lit, h.home⟩
      · exact h.recordLocal
  · unfold State.pressRetake
    split
    · exact h.recordLocal
    · exact h.retakeSide.retakeSide.recordLocal
  · unfold State.pressLamp
    split
    · exact h.decidePreviewOff.byKey
    · exact h.decidePreview.byKey
  · exact h.recordLocal

theorem Lights.keyStable (h : Lights s) {k : Key} : Lights (s.keyStable k) := by
  unfold State.keyStable
  split
  · exact h
  · rename_i l n _
    dsimp only
    have h1 : Lights (s.setInput k { stable := l, candidate := none }) := h.same
    split
    · unfold State.pressKey State.pendantNotice
      repeat' split
      all_goals first
        | exact h1.actKey.notifyWith
        | exact h1.actKey
        | exact h1.notifyWith
        | exact h1
    · exact h1

/-! ### SAU's requests (01, 08) -/

theorem Lights.decidePatternWrite (h : Lights s) {f : PatternFields} : Lights (decidePatternWrite f s).1 := by
  unfold Machine.decidePatternWrite
  repeat' split
  all_goals first | exact h | exact h.withSet

theorem Lights.decideClassWrite (h : Lights s) {n : Nat} {f : ClassFields} : Lights (decideClassWrite n f s).1 := by
  unfold Machine.decideClassWrite
  repeat' split
  all_goals first | exact h | exact h.withSet

theorem Lights.decideProfileWrite (h : Lights s) {n : Nat} {f : ProfileFields} :
    Lights (decideProfileWrite n f s).1 := by
  unfold Machine.decideProfileWrite
  repeat' split
  all_goals first | exact h | exact h.setLc rfl rfl

/-- With no volume mounted there is no capture's window to lose. -/
theorem Lights.mountVolume (h : Lights s) (hm : s.sau.volume = none) {v : Volume} : Lights (s.mountVolume v) := by
  unfold State.mountVolume State.mountDose
  dsimp only
  apply Lights.testDayDose
  refine ⟨fun b hb => ?_, h.home⟩
  obtain ⟨h1, h2⟩ := h.lit b hb
  refine ⟨h1, h2.imp id fun x => ?_⟩
  obtain ⟨-, -, u, -, hu, -⟩ := x
  rw [hm] at hu
  cases hu

theorem Lights.decideMount (h : Lights s) {f : MountFields} : Lights (decideMount f s).1 := by
  unfold Machine.decideMount
  dsimp only
  split
  · exact h
  · split
    · exact h
    · rename_i hm
      have hv : s.sau.volume = none := by
        simp only [not_or, State.mounted, Bool.not_eq_true, Option.isSome_eq_false_iff, Option.isNone_iff_eq_none] at hm
        exact hm.1
      repeat' split
      all_goals first | exact h | exact h.mountVolume hv

theorem Lights.setOneSide {p : State × SideTotals} (h : Lights p.1) {n : Nat} {st : SideState} :
    Lights (setOneSide n st p).1 := by
  unfold Machine.setOneSide
  dsimp only
  repeat' split
  all_goals first | exact h | exact h.supersede | exact h.setSide

theorem Lights.setSides {st : SideState} (n : Nat) :
    ∀ {side : Nat} {p : State × SideTotals}, Lights p.1 → Lights (setSides st n side p).1 := by
  induction n with
  | zero => exact fun h => h
  | succ n ih =>
    intro side p h
    unfold Machine.setSides
    exact ih h.setOneSide

theorem Lights.decideSideSet (h : Lights s) {a b : Nat} {st : Option SideState} :
    Lights (decideSideSet a b st s).1 := by
  unfold Machine.decideSideSet
  dsimp only
  repeat' split
  all_goals first | exact h | exact Lights.setSides _ h

theorem Dusk.beginDismountRaise (h : Dusk s) {f : Bool} : Dusk (s.beginDismountRaise f) := by
  unfold State.beginDismountRaise
  dsimp only
  split
  · exact h.withTc.beginRaise.notify
  · exact h.withTc.beginRaise

/-- The tests of DISMOUNT leave TC at rest, and an unforced one no ticket of the mount. -/
theorem dismountRefusal_none {f : Option Bool} (h : s.dismountRefusal f = none) :
    s.tc.state ≠ .homing ∧ (f.getD false = false → ¬ s.capturing) := by
  unfold State.dismountRefusal at h
  cases hv : s.sau.volume with
  | none =>
    rw [hv] at h
    cases h
  | some v =>
    rw [hv] at h
    cases f with
    | none => cases h
    | some f =>
      dsimp only at h
      split at h
      · cases h
      · split at h
        · cases h
        · rename_i h2
          split at h
          · cases h
          · rename_i h3
            refine ⟨fun x => h2 (.inl (by rw [x]; rfl)), fun hf x => ?_⟩
            obtain ⟨-, -, w, k, h4, h5, h6⟩ := x
            have hw : v = w := by
              rw [hv] at h4
              injection h4
            subst hw
            have hm : k ∈ s.cc.tickets := by
              unfold State.openTicket? at h5
              cases hl : s.cc.tickets.getLast? with
              | none =>
                rw [hl] at h5
                cases h5
              | some u =>
                rw [hl] at h5
                dsimp only at h5
                split at h5
                · simp at h5
                · injection h5 with h5
                  exact h5 ▸ List.mem_of_getLast? hl
            have hf' : f = false := hf
            simp only [hf', Bool.not_false, Bool.true_and, State.ticketsOfMount, List.any_eq_true, not_exists, not_and,
              Bool.not_eq_true] at h3
            rw [h3 k hm] at h6
            exact Bool.noConfusion h6

theorem Lights.decideDismount (h : Lights s) {f : Option Bool} : Lights (decideDismount f s).1 := by
  unfold Machine.decideDismount
  split
  · exact h
  · rename_i hr
    obtain ⟨h1, h2⟩ := dismountRefusal_none hr
    dsimp only
    have hd : Dusk (if f.getD false = true then (s.endPreview .cut).abandonCapture else s.endPreview .cut) := by
      have up : s.starting = false := h.up_of h1
      unfold State.starting at up
      split
      · refine ⟨h.abandon_dark, ?_⟩
        unfold State.starting
        simpa using up
      · rename_i hf
        refine ⟨fun b => ?_, ?_⟩
        · cases hl : ((s.endPreview .cut).lc.banks.get b).lit
          · rfl
          · rcases (h.endPreview (r := .cut)).lit b hl with ⟨-, x | x⟩
            · rw [endPreview_preview] at x
              exact Bool.noConfusion x
            · exact absurd (capturing_of (s := s.endPreview .cut) (by simp) (by simp) (by simp) x)
                (h2 (by simpa using hf))
        · unfold State.starting
          simpa using up
    split
    · exact hd.beginDismountRaise.lights
    · exact hd.completeDismount.lights

/-! ### Settings and fault banks (09, 10, 11) -/

theorem Lights.decideSettingsWrite (h : Lights s) {c : SettingChange} : Lights (decideSettingsWrite c s).1 := by
  unfold Machine.decideSettingsWrite
  dsimp only
  repeat' split
  all_goals first | exact h | exact h.withSet | exact h.setRate

theorem Lights.decideNoticeMask (h : Lights s) {n : Nat} : Lights (decideNoticeMask n s).1 := by
  unfold Machine.decideNoticeMask
  split
  · exact h
  · exact h.withSet

theorem Lights.decideFaultClear (h : Lights s) {b : Option FaultBank} : Lights (decideFaultClear b s).1 := by
  unfold Machine.decideFaultClear
  split
  · exact h
  · exact h.same

theorem Lights.decideFaultMask (h : Lights s) {b : Option FaultBank} {n : Nat} : Lights (decideFaultMask b n s).1 := by
  unfold Machine.decideFaultMask
  repeat' split
  all_goals first | exact h | exact h.withSet

theorem Lights.decideThresholdSet (h : Lights s) {b : Option FaultBank} {n : Nat} :
    Lights (decideThresholdSet b n s).1 := by
  unfold Machine.decideThresholdSet
  split
  · exact h
  · exact h.withSet.recount

theorem Lights.decideThresholdClear (h : Lights s) {b : Option FaultBank} : Lights (decideThresholdClear b s).1 := by
  unfold Machine.decideThresholdClear
  split
  · exact h
  · exact h.recount

/-! ### The guard and the resets (02 R50, 11) -/

theorem Dusk.endPreview (h : Dusk s) {r : PreviewEnd} : Dusk (s.endPreview r) :=
  ⟨fun b => by
    cases hp : s.lc.preview with
    | none =>
      rw [endPreview_none hp]
      exact h.dark b
    | some _ => exact endPreview_darkOf (by simp [hp]) r b,
    by
      unfold State.starting
      rw [endPreview_start]
      exact h.up⟩

theorem Dusk.deferredRaise (h : Dusk s) : Dusk s.deferredRaise := by
  unfold State.deferredRaise State.dwellRaise
  split
  · exact h
  · exact h.endPreview.withTc.beginRaise.notify
  · dsimp only
    split
    · exact h.endPreview.faultRaise.notify
    · exact h.endPreview.faultRaise

theorem Dusk.closeCapture (h : Dusk s) : Dusk s.closeCapture :=
  Dusk.deferredRaise h.same

/-- A cut ends no start-up and begins none. -/
theorem cutCapture_up {r : SideResult} (hs : s.starting = false) (hc : s.cc.state = .collect → s.dark) :
    (s.cutCapture r).starting = false := by
  unfold State.starting at hs
  unfold State.cutCapture
  dsimp only
  split
  · exact hs
  iterate 2
    refine (Dusk.closeCapture (Dusk.mk (endWindow_dark _) ?_)).up
    unfold State.starting
    rw [endWindow_start]
    exact hs
  · unfold State.starting
    rw [endWindow_start]
    exact hs
  · rename_i he
    split
    · unfold State.tryClose
      split
      · refine Dusk.up (Dusk.closeCapture (Dusk.mk ?_ ?_))
        · intro b
          simpa [State.onOpenTicket] using hc he b
        · simpa [State.onOpenTicket, State.starting] using hs
      · exact hs
    · exact hs

theorem rcSafeStop_lc (s : State) : s.rcSafeStop.lc = s.lc := by
  unfold State.rcSafeStop State.pauseRun State.setRun State.notify
  split <;> simp

theorem rcSafeStop_cc (s : State) : s.rcSafeStop.cc = s.cc := by
  unfold State.rcSafeStop State.pauseRun State.setRun State.notify
  split <;> simp

theorem rcSafeStop_start (s : State) : s.rcSafeStop.start = s.start := by
  unfold State.rcSafeStop State.pauseRun State.setRun State.notify
  split <;> simp

/-- A SAFE-STOP of a started part ends in the dark, the part still started. -/
theorem safeStop_dusk
    (h : ∀ b, (s.lc.banks.get b).lit = true → s.lc.preview.isSome = true ∨ s.capturing)
    (hs : s.starting = false) : Dusk s.safeStop := by
  refine ⟨safeStop_dark s, ?_⟩
  unfold State.starting at hs
  have h2 : State.starting (((s.withTc (Tc.safeStopped s.leafOnHead)).rcSafeStop.endPreview .cut).cutCapture .guardCut)
      = false := by
    refine cutCapture_up ?_ fun hc b => ?_
    · unfold State.starting
      rw [endPreview_start, rcSafeStop_start]
      exact hs
    · rw [endPreview_cc, rcSafeStop_cc] at hc
      cases hl : (((s.withTc (Tc.safeStopped s.leafOnHead)).rcSafeStop.endPreview .cut).lc.banks.get b).lit
      · rfl
      · cases hp : (s.withTc (Tc.safeStopped s.leafOnHead)).rcSafeStop.lc.preview with
        | some _ =>
          rw [endPreview_darkOf (by simp [hp]) .cut b] at hl
          exact Bool.noConfusion hl
        | none =>
          rw [endPreview_none hp, rcSafeStop_lc] at hl
          rw [rcSafeStop_lc] at hp
          rcases h b hl with x | x
          · rw [show s.lc.preview = none from hp] at x
            exact Bool.noConfusion x
          · exact absurd hc x.2.1
  unfold State.safeStop State.stopResetStroke
  unfold State.starting at h2 ⊢
  dsimp only
  split <;> simpa [State.guardReport, State.notify] using h2

/-- Every bank is dark once the guard has opened outside start-up. -/
theorem Lights.guardOpened (h : Lights s) : Lights s.guardOpened := by
  unfold State.guardOpened
  dsimp only
  split
  · rename_i hg
    have hd : s.dark := by
      refine h.dark_of ?_
      simp only [Bool.or_eq_true, beq_iff_eq] at hg
      rcases hg with x | x
      · simp [State.settled, x]
      · simp [State.settled, x]
    exact h.ofDarkFrom (t := { s with pins := { s.pins with guardOpen := true } }) hd
  · split
    · rename_i hs
      refine .ofDark (startGuard_dark _) fun _ => ?_
      have hh := h.home hs
      unfold State.startGuard State.guardReport
      dsimp only
      split
      all_goals simpa [State.notify] using hh
    · rename_i hs
      have hx : ({ s with pins := { s.pins with guardOpen := true } } : State).starting = false := by
        simpa [State.starting] using hs
      rename_i hg
      simp only [Bool.or_eq_true, not_or, Bool.not_eq_true] at hg
      exact (safeStop_dusk (s := { s with pins := { s.pins with guardOpen := true } }) (fun b hb => (h.lit b hb).2) hx).lights

/-- The start-up homing begins in the dark. -/
theorem startHoming_lights (hd : s.dark) (h1 : s.tc.pendingOverforce = false) (h2 : s.tc.pendingDwell = false) :
    Lights s.startHoming := by
  unfold State.startHoming State.homeFor State.beginHoming
  dsimp only
  split
  · refine Lights.homeArm ?_ rfl
    exact .ofDark hd fun _ => ⟨rfl, h1, h2⟩
  · exact .ofDark hd fun _ => ⟨rfl, h1, h2⟩

theorem Lights.guardClosed (h : Lights s) : Lights s.guardClosed := by
  unfold State.guardClosed
  dsimp only
  split
  · rename_i hg
    have hs : s.starting = true := by
      simp only [Bool.and_eq_true, beq_iff_eq] at hg
      simp [State.starting, hg.2]
    exact startHoming_lights (s := { s with pins := { s.pins with guardOpen := false } })
      (h.unsettled (h.home hs).1) (h.home hs).2.1 (h.home hs).2.2
  · refine h.frame (fun _ => id) (fun hs => ?_) rfl id
    simp only [State.settled, Bool.and_eq_true] at *
    exact ⟨hs.1, rfl⟩

theorem watchEnded_tc (s : State) : s.watchEnded.tc = s.tc := by
  unfold State.watchEnded State.syncNotice State.startGenerator
  dsimp only
  rw [notifyWith_tc]
  split
  · rfl
  · rw [deliverEdge_tc]
    rfl

theorem watchEnded_start (s : State) : s.watchEnded.start = s.start := by
  unfold State.watchEnded State.syncNotice State.startGenerator
  dsimp only
  rw [notifyWith_start]
  split
  · rfl
  · rw [deliverEdge_start]
    rfl

theorem Lights.syncWatchEnded (h : Lights s) : Lights s.syncWatchEnded := by
  have h1 := h.watchEnded
  unfold State.syncWatchEnded
  dsimp only
  split
  · rename_i hp
    have hs : s.starting = true := by simp [State.starting, hp]
    have hh := h.home hs
    have hd : s.watchEnded.dark := h1.unsettled (by rw [watchEnded_tc]; exact hh.1)
    split
    · exact .ofDark hd fun _ => by simpa [watchEnded_tc] using hh
    · exact startHoming_lights hd (by rw [watchEnded_tc]; exact hh.2.1) (by rw [watchEnded_tc]; exact hh.2.2)
  · exact h1

theorem Dusk.beginResetStroke (h : Dusk s) : Dusk s.beginResetStroke := by
  unfold State.beginResetStroke
  dsimp only
  split
  · exact h.withTc.releaseBack.withTc.beginReturn
  · exact h.withTc

theorem Dusk.homeAfterReset (h : Dusk s) : Dusk s.homeAfterReset := by
  unfold State.homeAfterReset
  split
  · exact h.withTc
  · split
    · exact h
    · exact h.homeFor

/-- A warm reset of a started part ends in the dark (11 R192). -/
theorem warmReset_dusk (hs : s.starting = false) : Dusk s.warmReset := by
  unfold State.warmReset
  dsimp only
  have h1 : Dusk (((s.withRc Rc.aborted).endPreview .reset).abandonCapture).banksDark :=
    ⟨banksDark_dark _, by
      unfold State.starting at *
      simpa using hs⟩
  generalize (((s.withRc Rc.aborted).endPreview .reset).abandonCapture).banksDark = u at h1
  have h2 : Dusk (if s.tc.state.armStroke = true then u.beginResetStroke else u.completeResetDismount) := by
    split
    · exact h1.beginResetStroke
    · exact h1.completeResetDismount
  generalize (if s.tc.state.armStroke = true then u.beginResetStroke else u.completeResetDismount) = w at h2
  have h3 : Dusk { w with
      lk := w.lk.afterReset, ps := Ps.asRead w.pins.keys w.ps.lastLocal
      rc := { w.rc with heardEnd := none, heardClose := none }, cc := { w.cc with backlog := false } } := h2.same
  split
  · exact h3
  · exact h3.homeAfterReset

/-! ### LK (10) -/

theorem Lights.withLk (h : Lights s) {f : Lk → Lk} : Lights (s.withLk f) := h.same
theorem Lights.putReply (h : Lights s) {r : Reply} : Lights (s.putReply r) := h.withLk

theorem Lights.storeDone (h : Lights s) : Lights s.storeDone := by
  unfold State.storeDone
  dsimp only
  repeat' split
  all_goals first | exact h | exact h.same

/-- Every decision keeps `lightSound`. -/
theorem Lights.decisionOf (h : Lights s) {i : Instr} : Lights (decisionOf i s).1 := by
  unfold Machine.decisionOf
  split
  all_goals first
    | exact h.decideNoticeMask
    | exact h.decideSettingsWrite
    | exact h.decidePatternWrite
    | exact h.decideClassWrite
    | exact h.decideMount
    | exact h.decideSideSet
    | exact h.decideDismount
    | exact h.decideTurn
    | exact h.decideClamp
    | exact h.decideUnclamp
    | exact h.decideHalt
    | exact h.decideResume
    | exact h.decideDeclarePending
    | exact h.decideDeclare
    | exact h.decideRecover
    | exact h.decidePreview
    | exact h.decidePreviewOff
    | exact h.decideProfileLevel
    | exact h.decideLampClear
    | exact h.decideDayMark
    | exact h.decideCarryRead
    | exact h.decideCarryDrop
    | exact h.decideProfileWrite
    | exact h.decideCapture
    | exact h.decideSyncDetect
    | exact h.decideSyncSelect
    | exact h.decideTicketRead
    | exact h.decideTicketRelease
    | exact h.decideBacklogSet
    | exact h.decideRunStart
    | exact h.decideRunEnd
    | exact Lights.withSet h (c := _)
    | exact h.decideFaultClear
    | exact h.decideFaultMask
    | exact h.decideThresholdSet
    | exact h.decideThresholdClear
    | exact h
    | skip
  · exact Lights.withLk h (f := fun l => { l with resetTaken := true })
  · unfold decideSettingsRead
    repeat' split
    all_goals exact h
  · unfold decidePatternRead
    split <;> exact h
  · unfold decideClassify
    split <;> exact h
  · unfold decideClassRead
    split <;> exact h
  · unfold decideOpeningRead
    repeat' split
    all_goals exact h
  · unfold decideTallyRead
    split <;> exact h
  · unfold decideProfileRead
    split <;> exact h
  · unfold decidePendantMode
    split
    · exact h
    · exact h.withSet
  · unfold decideFaultRead
    split <;> exact h

theorem Lights.decideFrame (h : Lights s) {f : RxFrame} : Lights (s.decideFrame f) := by
  unfold State.decideFrame
  dsimp only
  repeat' split
  all_goals first | exact h.putReply | exact h.decisionOf.putReply | exact h.same

theorem Lights.tryTake (h : Lights s) : Lights s.tryTake := by
  unfold State.tryTake
  split
  · exact h
  · split
    · exact h
    · exact Lights.serveRun _ h.withLk.decideFrame

theorem Lights.kick (h : Lights s) : Lights s.kick := h.same

theorem Lights.pump (n : Nat) : ∀ {s : State}, Lights s → Lights (pump n s) := by
  induction n with
  | zero => exact fun h => h
  | succ n ih => exact fun h => ih h.tryTake.kick

theorem Lights.settle (h : Lights s) : Lights s.settle :=
  Lights.pump _ (Lights.serveRun _ h)

theorem Lights.joinQueue (h : Lights s) {f : RxFrame} : Lights (s.joinQueue f) := by
  unfold State.joinQueue
  split
  · exact h.withLk
  · exact h.report

theorem Lights.submit (h : Lights s) {i : Instr} : Lights (s.submit i) := by
  unfold State.submit
  split
  · exact h.joinQueue
  · exact h

theorem Lights.hunt (h : Lights s) : Lights s.hunt := h.withLk

theorem Lights.frameComplete (h : Lights s) {l : List Byte} : Lights (s.frameComplete l) := by
  unfold State.frameComplete
  split
  · exact h.hunt.joinQueue
  · exact h.hunt.report

theorem Lights.rxByte (h : Lights s) {b : Byte} : Lights (s.rxByte b) := by
  unfold State.rxByte
  dsimp only
  split
  · split
    · exact h.withLk
    · exact h
  · split
    · exact h.hunt.report.settle
    · split
      · exact h.frameComplete.settle
      · exact h.withLk

theorem Lights.rxBytes (l : List Byte) : ∀ {s : State}, Lights s → Lights (l.foldl State.rxByte s) := by
  induction l with
  | nil => exact fun h => h
  | cons b l ih => exact fun h => ih h.rxByte

theorem Lights.rxTimedOut (h : Lights s) : Lights s.rxTimedOut := by
  unfold State.rxTimedOut
  split
  · exact h
  · exact h.hunt.report

theorem Lights.bytesReceived (h : Lights s) {l : List Byte} : Lights (s.bytesReceived l) := by
  unfold State.bytesReceived
  dsimp only
  apply Lights.rxBytes
  split
  · split
    · exact h.rxTimedOut.settle
    · exact h
  · exact h

theorem Lights.frameEnded (h : Lights s) : Lights s.frameEnded := by
  unfold State.frameEnded
  split
  · exact h
  · dsimp only
    split
    · rename_i hr
      refine (warmReset_dusk ?_).lights
      unfold State.resetReplied State.starting at *
      simp only [Bool.and_eq_true] at hr
      simpa using hr.1.1
    · exact h.withLk

theorem Lights.sensorReading (h : Lights s) {r : Nat} : Lights (s.sensorReading r) := by
  unfold State.sensorReading
  split
  · exact h.setSensor
  · split
    · exact h.milli.settle.setSensor.goTo.readSensor
    · exact h.setSensor.readSensor

theorem Lights.tenthSaturated (h : Lights s) : Lights s.tenthSaturated := by
  unfold State.tenthSaturated
  split
  · exact h.sensorReading
  · exact h

theorem Lights.fiftiethDark (h : Lights s) : Lights s.fiftiethDark := by
  unfold State.fiftiethDark
  split
  · exact h.sensorReading
  · exact h

/-! ### Events -/

theorem event_lights {f : State → State} (h : Lights s) (hf : Lights (f s)) : Lights (s.event f) := by
  unfold State.event
  split
  · exact hf.settle
  · exact h

theorem Lights.passTimer {d : State → Option Nat} {f : State → State}
    (hf : ∀ {u : State} {n : Nat}, Lights u → d u = some n → Lights (f (u.goTo n))) (n : Nat) :
    ∀ {s : State}, Lights s → Lights (passTimer d f n s) := by
  induction n with
  | zero => exact fun h => h
  | succ n ih =>
    intro s h
    unfold Machine.passTimer
    split
    · exact h
    · rename_i hd
      split
      · exact hf h hd
      · exact ih h.goTo.milli.settle

/-- A timer keeps `lightSound` where its effect keeps it while the timer runs. -/
theorem Lights.atDue {d : State → Option Nat} {f : State → State} (h : Lights s)
    (hf : ∀ {u : State} {n : Nat}, Lights u → d u = some n → Lights (f (u.goTo n))) : Lights (s.atDue d f) := by
  unfold State.atDue
  split
  · exact h
  · rename_i hd
    split
    · exact hf h hd
    · exact Lights.passTimer hf _ h.milli.settle

theorem Lights.ambientTick (h : Lights s) : Lights s.ambientTick := by
  unfold State.ambientTick
  split
  · exact h.milli
  · exact h.atDue fun k _ => k.goTo.milli

end Sys2Proof.Machine
end

