-- ==== Sys2Proof/Laws/Outcomes.lean ====
section
/-! SUPPORT. What an event leaves that may end an operation and close a ticket, with no run ACTIVE; what a close and a cut do
to the ring; and the tests of the day dose at the warning level and at the budget. -/

set_option Elab.async false

namespace Sys2Proof.Machine

variable {s : State}

/-! ### Events with no run ACTIVE -/

/-- With no run ACTIVE an event brings its own effect, RC's record of what it was told, and the next frame. -/
theorem event_rests {f : State → State} {P : State → Prop} (hp : s.powered = true) (hq : (f s).lk.queue = [])
    (hr : (f s).runActive = false)
    (h : ∀ r : Rc, r.state = (f s).rc.state → r.heardEnd = none → r.heardClose = none → P (State.kick { f s with rc := r })) :
    ∃ u, (Host.Outcome.next (s.event f) : Host.Outcome State Fault Refusal) = .next u ∧ P u := by
  obtain ⟨r, e, h1, h2, h3, -⟩ := settle_resting hq hr
  refine ⟨_, ?_, h r h1 h2 h3⟩
  rw [State.event, if_pos hp, e]

theorem pinEvent_rests {g f : State → State} {P : State → Prop} (hp : s.powered = true) (hq : (f s).lk.queue = [])
    (hr : (f s).runActive = false)
    (h : ∀ r : Rc, r.state = (f s).rc.state → r.heardEnd = none → r.heardClose = none → P (State.kick { f s with rc := r })) :
    ∃ u, (Host.Outcome.next (s.pinEvent g f) : Host.Outcome State Fault Refusal) = .next u ∧ P u := by
  obtain ⟨r, e, h1, h2, h3, -⟩ := settle_resting hq hr
  refine ⟨_, ?_, h r h1 h2 h3⟩
  rw [State.pinEvent, if_pos hp, e]

theorem timer_rests {due : State → Option Nat} {f : State → State} {d : Nat} {P : State → Prop} (hp : s.powered = true)
    (hd : due s = some d) (hm : d / 1000 ≤ s.now / 1000) (hq : (f (s.goTo d)).lk.queue = [])
    (hr : (f (s.goTo d)).runActive = false)
    (h : ∀ r : Rc, r.state = (f (s.goTo d)).rc.state → r.heardEnd = none → r.heardClose = none →
      P (State.kick { f (s.goTo d) with rc := r })) : ∃ u, timer due f s = .next u ∧ P u := by
  have e : s.atDue due f = f (s.goTo d) := atDue_present hd hm
  rw [← e] at hq hr h
  exact event_rests hp hq hr h

/-- The same for a request, whose reply enters the slot first. -/
theorem request_rests {i : Instr} {k tg : Byte} {P : State → Prop} (hs : s.takes) (hk : i.kind? = some k)
    (ht : i.tag? = some tg) (hkn : knownKind k = true) (hst : (s.starting && !answeredAtStart k) = false)
    (hns : ∀ t, i ≠ .store t) (htq : (decisionOf i (s.holding k tg)).1.lk.queue = [])
    (hr : (decisionOf i (s.holding k tg)).1.runActive = false)
    (h : ∀ r : Rc, r.state = (decisionOf i (s.holding k tg)).1.rc.state → r.heardEnd = none → r.heardClose = none →
      P (State.answered k tg (decisionOf i (s.holding k tg)).2 { (decisionOf i (s.holding k tg)).1 with rc := r })) :
    ∃ u, request i s = .next u ∧ P u := by
  obtain ⟨r, e, h1, h2, h3, -⟩ := serveRun_resting (s := (decisionOf i (s.holding k tg)).1.putReply
    (replyTo k tg (decisionOf i (s.holding k tg)).2)) 5 hr
  refine ⟨_, request_serves hs hk ht hkn hst hns (by rw [runFuel, e]; exact htq), ?_⟩
  rw [runFuel, e]
  exact h r h1 h2 h3

/-! ### The close of a ticket (05 R122) -/

/-- What a close does to CC: the OPEN ticket is CLOSED with the close time, and CC is IDLE. -/
theorem closeTicket_cc {k : Ticket} (h : s.openTicket? = some k) :
    s.closeTicket.cc.state = .idle
    ∧ s.closeTicket.cc.tickets = mapOpen (fun t => { t with closed := true, closeTime := some (s.now / 1000) }) s.cc.tickets
    ∧ s.closeTicket.cc.camA = s.cc.camA.rest ∧ s.closeTicket.cc.camB = s.cc.camB.rest := by
  unfold State.closeTicket
  rw [h]
  refine ⟨?_, ?_, ?_, ?_⟩
  all_goals
    simp only [State.retestBacklog]
    split <;> simp [State.onOpenTicket, State.notify, State.clock]

/-- The newest ticket of a ring changed through its OPEN ticket. -/
theorem mapOpen_newest {pre : List Ticket} {k : Ticket} {f : Ticket → Ticket} (h : k.closed = false) :
    mapOpen f (pre ++ [k]) = mapOpen f pre ++ [f k] := by
  simp [mapOpen, h]

/-- The ring's newest ticket, where it is not CLOSED, is the OPEN one. -/
theorem openTicket_newest {pre : List Ticket} {k : Ticket} (ht : s.cc.tickets = pre ++ [k]) (h : k.closed = false) :
    s.openTicket? = some k := by
  unfold State.openTicket?
  simp [ht, h]

/-- The abandonment of a capture closes its ticket, every covered side without a result at RESET-CUT (05 R124). -/
theorem abandonCapture_newest {pre : List Ticket} {k : Ticket} (ht : s.cc.tickets = pre ++ [k]) (h : k.closed = false)
    (hc : s.cc.state ≠ .idle) :
    ∃ pre', s.abandonCapture.cc.tickets
      = pre' ++ [{ k.giveAll .resetCut with closed := true, closeTime := some (s.now / 1000) }] := by
  unfold State.abandonCapture
  rw [if_neg hc]
  have e : (s.endWindow.onOpenTicket (Ticket.giveAll .resetCut)).cc.tickets
      = mapOpen (Ticket.giveAll .resetCut) pre ++ [k.giveAll .resetCut] := by
    simp only [State.onOpenTicket, endWindow_cc, ht]
    exact mapOpen_newest h
  have h' : (k.giveAll .resetCut).closed = false := h
  refine ⟨mapOpen (fun t => { t with closed := true, closeTime := some (s.now / 1000) }) (mapOpen (Ticket.giveAll .resetCut) pre),
    ?_⟩
  dsimp only
  rw [(closeTicket_cc (openTicket_newest e h')).2.1, e, mapOpen_newest h']
  simp [State.onOpenTicket]

/-- A cut in SETTLE or WAIT-EDGE closes the ticket, every covered side without a result at the cut's result (05 R121). -/
theorem cutCapture_opening {pre : List Ticket} {k : Ticket} (r : SideResult) (ht : s.cc.tickets = pre ++ [k])
    (h : k.closed = false) (hc : s.cc.state = .settle ∨ s.cc.state = .waitEdge) (h1 : s.tc.pendingOverforce = false)
    (h2 : s.tc.pendingDwell = false) :
    (s.cutCapture r).cc.state = .idle
    ∧ ∃ pre', (s.cutCapture r).cc.tickets
        = pre' ++ [{ k.giveAll r with closed := true, closeTime := some (s.now / 1000) }] := by
  obtain ⟨g, hg⟩ : ∃ g : State, g = State.endWindow { s.onOpenTicket (Ticket.giveAll r) with
      cc := { (s.onOpenTicket (Ticket.giveAll r)).cc with cut := some (s.cc.cut.getD r) } } := ⟨_, rfl⟩
  have e : s.cutCapture r = g.closeTicket := by
    have : s.cutCapture r = g.closeCapture := by
      unfold State.cutCapture
      rcases hc with hc | hc <;> simp only [hc] <;> rw [← hg]
    rw [this, closeCapture_plain (by rw [hg]; simpa [State.onOpenTicket] using h1) (by rw [hg]; simpa [State.onOpenTicket] using h2)]
  have h' : (k.giveAll r).closed = false := h
  have et : g.cc.tickets = mapOpen (Ticket.giveAll r) pre ++ [k.giveAll r] := by
    rw [hg]
    simp only [endWindow_cc, State.onOpenTicket, ht]
    exact mapOpen_newest h
  have en : g.now = s.now := by
    rw [hg]
    simp [State.onOpenTicket]
  obtain ⟨c1, c2, -, -⟩ := closeTicket_cc (openTicket_newest et h')
  rw [e]
  refine ⟨c1, mapOpen (fun t => { t with closed := true, closeTime := some (s.now / 1000) }) (mapOpen (Ticket.giveAll r) pre), ?_⟩
  rw [c2, et, mapOpen_newest h', en]

/-- A cut in EXPOSE gives the results, and the ticket stays OPEN (05 R121). -/
theorem cutCapture_exposing {pre : List Ticket} {k : Ticket} (r : SideResult) (ht : s.cc.tickets = pre ++ [k])
    (h : k.closed = false) (hc : s.cc.state = .expose) :
    (s.cutCapture r).cc.state = .expose ∧ (s.cutCapture r).tc = s.tc
    ∧ ∃ pre', (s.cutCapture r).cc.tickets = pre' ++ [k.giveAll r] := by
  unfold State.cutCapture
  simp only [hc, endWindow_cc, State.onOpenTicket, ht, endWindow_tc]
  exact ⟨trivial, trivial, mapOpen (Ticket.giveAll r) pre, mapOpen_newest h⟩

/-! ### The completion of a dismount (08 R165) -/

/-- With room in the carry table the entry is appended. -/
theorem appendCarry_room {e : CarryEntry} (h : s.di.carry.length < 16) :
    s.appendCarry e = { s with di := { s.di with carry := s.di.carry ++ [e] } } := by
  unfold State.appendCarry
  split
  · rename_i hn
    rw [hn]
    rfl
  · rename_i o r hn
    rw [if_neg (by simp only [carrySize]; omega)]

/-- A full carry table gives up its oldest entry, with CARRY-EVICT. -/
theorem appendCarry_full {e o : CarryEntry} {rest : List CarryEntry} (hc : s.di.carry = o :: rest) (h : 16 ≤ s.di.carry.length) :
    s.appendCarry e = { s.report .carryEvict [o.dose] with di := { s.di with carry := rest ++ [e] } } := by
  unfold State.appendCarry
  rw [hc]
  rw [hc] at h
  dsimp only
  rw [if_pos (show carrySize ≤ _ from h), report_di]

/-- What a completed dismount leaves, from the state after the forced steps on. -/
theorem completeDismount_some {v : Volume} (hv : s.sau.volume = some v) (hl : s.di.carry.length < 16) (c : TallyCause) :
    ∃ x : State, x = (if c = .dismount then s else s.forceSides v)
      ∧ s.completeDismount c = { x with
          sau := { x.sau with
            volume := none, openings := []
            tally := some (x.buildTally v c (if c = .dismount then 0 else heldCount v s.sau.openings)) }
          di := { s.di with
            carry := s.di.carry ++ [{ mark := v.mark, dose := s.di.dayDose, time := s.now / 1000, cls := v.cls }]
            dayDose := 0, carriedIn := 0, exhausted := false, warned := false }
          tc := s.tc.dismounted c
          rc := { s.rc with volumeSkips := 0 } } := by
  refine ⟨_, rfl, ?_⟩
  by_cases hc : c = .dismount
  · subst hc
    unfold State.completeDismount State.handOffDose
    rw [hv]
    simp only [ne_eq, not_true_eq_false, decide_false, Bool.false_eq_true, if_false, if_true]
    rw [appendCarry_room hl]
    rfl
  · unfold State.completeDismount State.handOffDose
    rw [hv]
    simp only [ne_eq, hc, not_false_eq_true, decide_true, if_true, if_false]
    rw [appendCarry_room (by exact hl)]
    rfl

/-! ### DI's cut of the lamps (04 R77, R85) -/

/-- What a cut of the lamps leaves as it was: of DI's part, all but the two counts. -/
def cutAlike (s t : State) : Prop :=
  t.now = s.now ∧ t.set = s.set ∧ t.sau = s.sau ∧ t.tc = s.tc ∧ t.fb = s.fb ∧ t.pins = s.pins ∧ t.lk.queue = s.lk.queue
  ∧ t.lk.sending = s.lk.sending ∧ t.rc.state = s.rc.state
  ∧ t.di = { s.di with satCount := t.di.satCount, darkCount := t.di.darkCount }

theorem cutAlike_trans {a b c : State} (h : cutAlike a b) (k : cutAlike b c) : cutAlike a c := by
  obtain ⟨e1, e2, e3, e4, e5, e6, e7, e8, e9, e10⟩ := h
  obtain ⟨k1, k2, k3, k4, k5, k6, k7, k8, k9, k10⟩ := k
  refine ⟨k1.trans e1, k2.trans e2, k3.trans e3, k4.trans e4, k5.trans e5, k6.trans e6, k7.trans e7, k8.trans e8,
    k9.trans e9, ?_⟩
  rw [k10, e10]

theorem endWindow_alike (s : State) : cutAlike s s.endWindow := by
  refine ⟨?_, ?_, ?_, ?_, ?_, ?_, ?_, ?_, ?_, ?_⟩
  all_goals first | (simp; done) | skip
  rw [endWindow_frame]

theorem endPreview_alike (s : State) (r : PreviewEnd) : cutAlike s (s.endPreview r) := by
  refine ⟨?_, ?_, ?_, ?_, ?_, ?_, ?_, ?_, ?_, ?_⟩
  all_goals first | (simp; done) | skip
  rw [endPreview_frame]

theorem banksDark_alike (s : State) : cutAlike s s.banksDark := by
  refine ⟨?_, ?_, ?_, ?_, ?_, ?_, ?_, ?_, ?_, ?_⟩
  all_goals first | (simp; done) | skip
  rw [banksDark_frame]

theorem closeTicket_alike (s : State) : cutAlike s s.closeTicket := by
  refine ⟨?_, ?_, ?_, ?_, ?_, ?_, ?_, ?_, ?_, ?_⟩ <;> simp

/-- The end of a window leaves the last preview's end. -/
theorem endWindow_lastEnd (s : State) : s.endWindow.lc.lastEnd = s.lc.lastEnd := by
  unfold State.endWindow
  split
  · rw [banksDark_lcOf]
  · dsimp only
    rw [banksDark_lcOf]
    split
    · unfold State.learn
      split <;> rfl
    · rfl

/-- A cut of the capture, with no raise deferred. -/
theorem cutCapture_alike (h1 : s.tc.pendingOverforce = false) (h2 : s.tc.pendingDwell = false) (r : SideResult) :
    cutAlike s (s.cutCapture r) ∧ (s.cutCapture r).lc.lastEnd = s.lc.lastEnd := by
  have hs : ∀ c, cutAlike s { s with cc := c } := fun c => ⟨rfl, rfl, rfl, rfl, rfl, rfl, rfl, rfl, rfl, rfl⟩
  have hc : ∀ g : State, cutAlike s g ∧ g.lc.lastEnd = s.lc.lastEnd →
      cutAlike s g.closeCapture ∧ g.closeCapture.lc.lastEnd = s.lc.lastEnd := by
    rintro g ⟨e, e11⟩
    rw [closeCapture_plain (by rw [e.2.2.2.1]; exact h1) (by rw [e.2.2.2.1]; exact h2)]
    exact ⟨cutAlike_trans e (closeTicket_alike g), by simpa using e11⟩
  unfold State.cutCapture
  dsimp only
  split
  · exact ⟨hs s.cc, rfl⟩
  · exact hc _ ⟨cutAlike_trans (hs _) (endWindow_alike _), endWindow_lastEnd _⟩
  · exact hc _ ⟨cutAlike_trans (hs _) (endWindow_alike _), endWindow_lastEnd _⟩
  · exact ⟨cutAlike_trans (hs _) (endWindow_alike _), endWindow_lastEnd _⟩
  · split
    · unfold State.tryClose
      split
      · exact hc _ ⟨hs _, rfl⟩
      · exact ⟨hs _, rfl⟩
    · exact ⟨hs s.cc, rfl⟩

/-- DI's cut of the lamps, with no raise deferred: every bank is dark, and a lit preview has ended CUT. -/
theorem cutLight_leaves (h1 : s.tc.pendingOverforce = false) (h2 : s.tc.pendingDwell = false) (r : SideResult) :
    cutAlike s (s.cutLight r) ∧ (s.cutLight r).dark ∧ (s.cutLight r).lc.preview = none
    ∧ (s.cutLight r).lc.lastEnd = (if s.lc.preview.isSome then some .cut else s.lc.lastEnd) := by
  have e := endPreview_alike s .cut
  have p1 : (s.endPreview .cut).tc.pendingOverforce = false := by rw [e.2.2.2.1]; exact h1
  have p2 : (s.endPreview .cut).tc.pendingDwell = false := by rw [e.2.2.2.1]; exact h2
  obtain ⟨c, c11⟩ := cutCapture_alike p1 p2 r
  unfold State.cutLight
  refine ⟨cutAlike_trans (cutAlike_trans e c) (banksDark_alike _), banksDark_dark _, ?_, ?_⟩
  · rw [banksDark_lcOf]
    exact (cutCapture_preview p1 p2 r).trans (endPreview_preview s .cut)
  · rw [banksDark_lcOf]
    refine c11.trans ?_
    unfold State.endPreview
    split <;> simp_all

/-- DI's cut of the lamps cuts the capture in progress, and takes nothing else from CC. -/
theorem cutLight_capture (r : SideResult) (hp : s.lc.preview = none) :
    (s.cutLight r).cc = (s.cutCapture r).cc ∧ (s.cutLight r).lc.window = (s.cutCapture r).lc.window := by
  unfold State.cutLight
  rw [endPreview_none hp, banksDark_lcOf]
  simp

/-! ### The tests of the day dose (04 R85, R87) -/

/-- At the warning level the warning flag stands, and the DOSE notice joins LK's part where the flag was clear. -/
theorem testWarning_at {c : ClassRec} (h : warningLevel c.dayBudget ≤ s.di.dayDose) :
    ∃ l, s.testWarning c = { s with di := { s.di with warned := true }, lk := l } ∧ onlyNotices s.lk l := by
  unfold State.testWarning
  by_cases hw : s.di.warned = false
  · rw [if_pos ⟨h, hw⟩]
    refine ⟨(State.doseNotice .warning { s with di := { s.di with warned := true } }).lk, ?_, ?_⟩
    · unfold State.doseNotice State.notifyWith
      split <;> rfl
    · exact notifyWith_lk _ _ _
  · rw [if_neg fun x => hw x.2]
    exact ⟨s.lk, by rw [← Bool.eq_true_of_not_eq_false hw], onlyNotices_refl _⟩

/-- A day dose at the budget of a volume that is not EXHAUSTED, with no raise deferred: the volume is EXHAUSTED and its
warning given, the lamps are cut, and DOSE-EXHAUSTED is reported with the dose and the budget. -/
theorem testDayDose_spent {c : ClassRec} (hc : s.limits? = some c) (hd : c.dayBudget ≤ s.di.dayDose)
    (he : s.di.exhausted = false) (h1 : s.tc.pendingOverforce = false) (h2 : s.tc.pendingDwell = false) :
    ∃ z : State, z.cc = s.cc ∧ z.tc = s.tc ∧ z.lc = s.lc ∧ z.now = s.now
      ∧ s.testDayDose.cc = (z.cutLight .doseCut).cc ∧ s.testDayDose.lc = (z.cutLight .doseCut).lc
      ∧ s.testDayDose.dark ∧ s.testDayDose.lc.preview = none
      ∧ s.testDayDose.lc.lastEnd = (if s.lc.preview.isSome then some .cut else s.lc.lastEnd)
      ∧ s.testDayDose.fb = (s.report .doseExhausted [s.di.dayDose, c.dayBudget]).fb
      ∧ s.testDayDose.tc = s.tc ∧ s.testDayDose.set = s.set ∧ s.testDayDose.sau = s.sau ∧ s.testDayDose.pins = s.pins
      ∧ s.testDayDose.now = s.now ∧ s.testDayDose.lk.queue = s.lk.queue ∧ s.testDayDose.lk.sending = s.lk.sending
      ∧ s.testDayDose.rc.state = s.rc.state
      ∧ s.testDayDose.di = { s.di with
          exhausted := true, warned := true
          satCount := s.testDayDose.di.satCount, darkCount := s.testDayDose.di.darkCount }
      ∧ (s.set.noticeMask.getLsbD 6 = true →
          s.testDayDose.lk.pendingSet.getLsbD 6 = true ∧ .exhausted ∈ s.testDayDose.lk.gathered.dose) := by
  obtain ⟨l, el, hl⟩ := testWarning_at (s := s) (c := c) (by unfold warningLevel; omega)
  obtain ⟨z, hz⟩ : ∃ z : State, z = { s with di := { s.di with warned := true, exhausted := true }, lk := l } := ⟨_, rfl⟩
  have et : s.testDayDose = ((z.cutLight .doseCut).report .doseExhausted [s.di.dayDose, c.dayBudget]).doseNotice .exhausted := by
    unfold State.testDayDose
    rw [hc]
    dsimp only
    rw [el]
    unfold State.testBudget
    rw [if_pos ⟨hd, he⟩, hz]
  obtain ⟨⟨a1, a2, a3, a4, a5, a6, a7, a8, a9, a10⟩, b1, b2, b3⟩ :=
    cutLight_leaves (s := z) (by rw [hz]; exact h1) (by rw [hz]; exact h2) .doseCut
  obtain ⟨w, hw⟩ : ∃ w, z.cutLight .doseCut = w := ⟨_, rfl⟩
  rw [hw] at a1 a2 a3 a4 a5 a6 a7 a8 a9 a10 b1 b2 b3 et
  have ez : z.lk.queue = s.lk.queue ∧ z.lk.sending = s.lk.sending := by
    rw [hz]
    dsimp only
    rw [hl]
    exact ⟨rfl, rfl⟩
  refine ⟨z, by rw [hz], by rw [hz], by rw [hz], by rw [hz], ?_⟩
  rw [hw, et]
  unfold State.doseNotice
  refine ⟨?_, ?_, ?_, ?_, ?_, ?_, ?_, ?_, ?_, ?_, ?_, ?_, ?_, ?_, ?_, ?_⟩
  · simp
  · simp
  · intro b
    simpa using b1 b
  · simpa using b2
  · simp only [notifyWith_lc, report_lc, b3, hz]
  · simp only [notifyWith_fb]
    refine (report_banksAlike ⟨?_, ?_, ?_, ?_⟩ _ _).2.2.2
    · rw [a1, hz]
    · rw [a2, hz]
    · rw [a3, hz]
    · rw [a5, hz]
  · simp [a4, hz]
  · simp [a2, hz]
  · simp [a3, hz]
  · simp [a6, hz]
  · simp [a1, hz]
  · simp [a7, ez.1]
  · simp [a8, ez.2]
  · simp [a9, hz]
  · simp only [notifyWith_di, report_di]
    rw [a10, hz]
  · intro hm
    have hm' : (w.report .doseExhausted [s.di.dayDose, c.dayBudget]).set.noticeMask.getLsbD NoticeKind.dose.bit = true := by
      rw [report_set, a2, hz]
      exact hm
    refine ⟨notifyWith_pends hm', ?_⟩
    rw [notifyWith_unmasked hm']
    simp [insertNew]
    split <;> simp_all

/-- With no capture in progress DI's cut of the lamps ends a lit preview and puts every bank out. -/
theorem cutLight_idle (r : SideResult) (h : s.cc.state = .idle) : s.cutLight r = (s.endPreview .cut).banksDark := by
  have : (s.endPreview .cut).cutCapture r = s.endPreview .cut := by
    unfold State.cutCapture
    simp [h]
  rw [State.cutLight, this]

end Sys2Proof.Machine
end

