-- ==== Sys2Proof/Laws/PerInstr.lean ====
section
/-! SUPPORT. Statements made of each command by itself, one lemma for each constructor of `Instr`. -/

set_option Elab.async false

namespace Sys2Proof.Laws.RequestKind

/-- A request has a KIND and a TAG, and an event neither (10 R185); only a request has a BODY (12). -/
def Statement (i : Instr) : Prop :=
  i.kind?.isSome = i.tag?.isSome ∧ (i.body?.isSome = true → i.kind?.isSome = true)

theorem coldStart (restoreStrap : Bool) (rateStrap : Nat) : Statement (.coldStart restoreStrap rateStrap) :=
  ⟨rfl, fun h => by cases h⟩

theorem warmReset : Statement .warmReset :=
  ⟨rfl, fun h => by cases h⟩

theorem powerFail : Statement .powerFail :=
  ⟨rfl, fun h => by cases h⟩

theorem lockSwitchChange (engaged : Bool) : Statement (.lockSwitchChange engaged) :=
  ⟨rfl, fun h => by cases h⟩

theorem frameReceived (bytes : List Byte) : Statement (.frameReceived bytes) :=
  ⟨rfl, fun h => by cases h⟩

theorem rxTimeout : Statement .rxTimeout :=
  ⟨rfl, fun h => by cases h⟩

theorem unknownRequest (tag : Byte) (kind : Byte) : Statement (.unknownRequest tag kind) :=
  ⟨rfl, fun _ => rfl⟩

theorem transmitFrameEnd : Statement .transmitFrameEnd :=
  ⟨rfl, fun h => by cases h⟩

theorem identify (tag : Byte) : Statement (.identify tag) :=
  ⟨rfl, fun _ => rfl⟩

theorem clockRead (tag : Byte) : Statement (.clockRead tag) :=
  ⟨rfl, fun _ => rfl⟩

theorem reset (tag : Byte) : Statement (.reset tag) :=
  ⟨rfl, fun _ => rfl⟩

theorem noticeMask (tag : Byte) (mask : Nat) : Statement (.noticeMask tag mask) :=
  ⟨rfl, fun _ => rfl⟩

theorem linkStatus (tag : Byte) : Statement (.linkStatus tag) :=
  ⟨rfl, fun _ => rfl⟩

theorem settingsWrite (tag : Byte) (change : SettingChange) : Statement (.settingsWrite tag change) :=
  ⟨rfl, fun _ => rfl⟩

theorem settingsRead (tag : Byte) (item : Option SettingItem) : Statement (.settingsRead tag item) :=
  ⟨rfl, fun _ => rfl⟩

theorem store (tag : Byte) : Statement (.store tag) :=
  ⟨rfl, fun _ => rfl⟩

theorem storeComplete : Statement .storeComplete :=
  ⟨rfl, fun h => by cases h⟩

theorem patternWrite (tag : Byte) (fields : PatternFields) : Statement (.patternWrite tag fields) :=
  ⟨rfl, fun _ => rfl⟩

theorem patternRead (tag : Byte) (position : Nat) : Statement (.patternRead tag position) :=
  ⟨rfl, fun _ => rfl⟩

theorem classify (tag : Byte) (raw : Text) : Statement (.classify tag raw) :=
  ⟨rfl, fun _ => rfl⟩

theorem classWrite (tag : Byte) (cls : Nat) (fields : ClassFields) : Statement (.classWrite tag cls fields) :=
  ⟨rfl, fun _ => rfl⟩

theorem classRead (tag : Byte) (cls : Nat) : Statement (.classRead tag cls) :=
  ⟨rfl, fun _ => rfl⟩

theorem mount (tag : Byte) (fields : MountFields) : Statement (.mount tag fields) :=
  ⟨rfl, fun _ => rfl⟩

theorem openingRead (tag : Byte) (first count : Nat) : Statement (.openingRead tag first count) :=
  ⟨rfl, fun _ => rfl⟩

theorem volumeRead (tag : Byte) : Statement (.volumeRead tag) :=
  ⟨rfl, fun _ => rfl⟩

theorem sideSet (tag : Byte) (first last : Nat) (state : Option SideState) : Statement (.sideSet tag first last state) :=
  ⟨rfl, fun _ => rfl⟩

theorem dismount (tag : Byte) (force : Option Bool) : Statement (.dismount tag force) :=
  ⟨rfl, fun _ => rfl⟩

theorem tallyRead (tag : Byte) : Statement (.tallyRead tag) :=
  ⟨rfl, fun _ => rfl⟩

theorem turn (tag : Byte) (n : Int) (clampAfter : Option Bool) : Statement (.turn tag n clampAfter) :=
  ⟨rfl, fun _ => rfl⟩

theorem clamp (tag : Byte) : Statement (.clamp tag) :=
  ⟨rfl, fun _ => rfl⟩

theorem unclamp (tag : Byte) : Statement (.unclamp tag) :=
  ⟨rfl, fun _ => rfl⟩

theorem halt (tag : Byte) : Statement (.halt tag) :=
  ⟨rfl, fun _ => rfl⟩

theorem resume (tag : Byte) : Statement (.resume tag) :=
  ⟨rfl, fun _ => rfl⟩

theorem declarePending (tag : Byte) : Statement (.declarePending tag) :=
  ⟨rfl, fun _ => rfl⟩

theorem declare (tag : Byte) (j : Nat) : Statement (.declare tag j) :=
  ⟨rfl, fun _ => rfl⟩

theorem recover (tag : Byte) : Statement (.recover tag) :=
  ⟨rfl, fun _ => rfl⟩

theorem turnStatus (tag : Byte) : Statement (.turnStatus tag) :=
  ⟨rfl, fun _ => rfl⟩

theorem guardOpen : Statement .guardOpen :=
  ⟨rfl, fun h => by cases h⟩

theorem guardClose : Statement .guardClose :=
  ⟨rfl, fun h => by cases h⟩

theorem leafSensorReport (r : LeafReport) : Statement (.leafSensorReport r) :=
  ⟨rfl, fun h => by cases h⟩

theorem endOfSweep : Statement .endOfSweep :=
  ⟨rfl, fun h => by cases h⟩

theorem releaseHeadUp : Statement .releaseHeadUp :=
  ⟨rfl, fun h => by cases h⟩

theorem armParkMade : Statement .armParkMade :=
  ⟨rfl, fun h => by cases h⟩

theorem platenUpMade : Statement .platenUpMade :=
  ⟨rfl, fun h => by cases h⟩

theorem forceReading (counts : Nat) : Statement (.forceReading counts) :=
  ⟨rfl, fun h => by cases h⟩

theorem strokeTimeout : Statement .strokeTimeout :=
  ⟨rfl, fun h => by cases h⟩

theorem homeFail : Statement .homeFail :=
  ⟨rfl, fun h => by cases h⟩

theorem dwellExpiry : Statement .dwellExpiry :=
  ⟨rfl, fun h => by cases h⟩

theorem preview (tag : Byte) (profile duration : Nat) : Statement (.preview tag profile duration) :=
  ⟨rfl, fun _ => rfl⟩

theorem previewOff (tag : Byte) : Statement (.previewOff tag) :=
  ⟨rfl, fun _ => rfl⟩

theorem profileLevel (tag : Byte) (profile : Nat) (bank : Option LampBank) (action : Option LevelAction) : Statement (.profileLevel tag profile bank action) :=
  ⟨rfl, fun _ => rfl⟩

theorem lampClear (tag : Byte) (target : Option LampTarget) : Statement (.lampClear tag target) :=
  ⟨rfl, fun _ => rfl⟩

theorem lampStatus (tag : Byte) : Statement (.lampStatus tag) :=
  ⟨rfl, fun _ => rfl⟩

theorem bankCurrentFault (bank : LampBank) (report : CurrentReport) : Statement (.bankCurrentFault bank report) :=
  ⟨rfl, fun h => by cases h⟩

theorem regulationComparison : Statement .regulationComparison :=
  ⟨rfl, fun h => by cases h⟩

theorem previewExpiry : Statement .previewExpiry :=
  ⟨rfl, fun h => by cases h⟩

theorem doseStatus (tag : Byte) : Statement (.doseStatus tag) :=
  ⟨rfl, fun _ => rfl⟩

theorem dayMark (tag : Byte) (length : Nat) : Statement (.dayMark tag length) :=
  ⟨rfl, fun _ => rfl⟩

theorem carryRead (tag : Byte) (index : Nat) : Statement (.carryRead tag index) :=
  ⟨rfl, fun _ => rfl⟩

theorem carryDrop (tag : Byte) (raw : Text) : Statement (.carryDrop tag raw) :=
  ⟨rfl, fun _ => rfl⟩

theorem sensorReading (raw : Nat) : Statement (.sensorReading raw) :=
  ⟨rfl, fun h => by cases h⟩

theorem sensorSaturated : Statement .sensorSaturated :=
  ⟨rfl, fun h => by cases h⟩

theorem sensorDark : Statement .sensorDark :=
  ⟨rfl, fun h => by cases h⟩

theorem ambientAccrual : Statement .ambientAccrual :=
  ⟨rfl, fun h => by cases h⟩

theorem rollover : Statement .rollover :=
  ⟨rfl, fun h => by cases h⟩

theorem profileWrite (tag : Byte) (index : Nat) (fields : ProfileFields) : Statement (.profileWrite tag index fields) :=
  ⟨rfl, fun _ => rfl⟩

theorem profileRead (tag : Byte) (index : Nat) : Statement (.profileRead tag index) :=
  ⟨rfl, fun _ => rfl⟩

theorem capture (tag : Byte) (profile : Nat) (sides : SidesOverride) : Statement (.capture tag profile sides) :=
  ⟨rfl, fun _ => rfl⟩

theorem captureStatus (tag : Byte) : Statement (.captureStatus tag) :=
  ⟨rfl, fun _ => rfl⟩

theorem syncDetect (tag : Byte) : Statement (.syncDetect tag) :=
  ⟨rfl, fun _ => rfl⟩

theorem syncSelect (tag : Byte) (source : Option SyncSource) : Statement (.syncSelect tag source) :=
  ⟨rfl, fun _ => rfl⟩

theorem syncStatus (tag : Byte) : Statement (.syncStatus tag) :=
  ⟨rfl, fun _ => rfl⟩

theorem settleEnd : Statement .settleEnd :=
  ⟨rfl, fun h => by cases h⟩

theorem externalSyncEdge (after : Nat) : Statement (.externalSyncEdge after) :=
  ⟨rfl, fun h => by cases h⟩

theorem internalSyncEdge : Statement .internalSyncEdge :=
  ⟨rfl, fun h => by cases h⟩

theorem syncLoss : Statement .syncLoss :=
  ⟨rfl, fun h => by cases h⟩

theorem syncWatchEnd : Statement .syncWatchEnd :=
  ⟨rfl, fun h => by cases h⟩

theorem cameraExposing (cam : Camera) (level ready : Bool) : Statement (.cameraExposing cam level ready) :=
  ⟨rfl, fun h => by cases h⟩

theorem exposureElapsed : Statement .exposureElapsed :=
  ⟨rfl, fun h => by cases h⟩

theorem exposingTimeout (cam : Camera) : Statement (.exposingTimeout cam) :=
  ⟨rfl, fun h => by cases h⟩

theorem cameraStored (cam : Camera) (ready : Bool) : Statement (.cameraStored cam ready) :=
  ⟨rfl, fun h => by cases h⟩

theorem frameLimit : Statement .frameLimit :=
  ⟨rfl, fun h => by cases h⟩

theorem ticketRead (tag : Byte) (ref : TicketRef) : Statement (.ticketRead tag ref) :=
  ⟨rfl, fun _ => rfl⟩

theorem ticketRelease (tag : Byte) (count : Nat) (left right : Option Verdict) : Statement (.ticketRelease tag count left right) :=
  ⟨rfl, fun _ => rfl⟩

theorem backlogSet (tag : Byte) (threshold timeout : Nat) : Statement (.backlogSet tag threshold timeout) :=
  ⟨rfl, fun _ => rfl⟩

theorem ringStatus (tag : Byte) : Statement (.ringStatus tag) :=
  ⟨rfl, fun _ => rfl⟩

theorem backlogAge : Statement .backlogAge :=
  ⟨rfl, fun h => by cases h⟩

theorem runStart (tag : Byte) (last profile : Nat) (mode : Option RunMode) : Statement (.runStart tag last profile mode) :=
  ⟨rfl, fun _ => rfl⟩

theorem runEnd (tag : Byte) : Statement (.runEnd tag) :=
  ⟨rfl, fun _ => rfl⟩

theorem runStatus (tag : Byte) : Statement (.runStatus tag) :=
  ⟨rfl, fun _ => rfl⟩

theorem pendantMode (tag : Byte) (mode : Option PendantMode) : Statement (.pendantMode tag mode) :=
  ⟨rfl, fun _ => rfl⟩

theorem pendantStatus (tag : Byte) : Statement (.pendantStatus tag) :=
  ⟨rfl, fun _ => rfl⟩

theorem pendantInputChange (key : Key) (pressed : Bool) : Statement (.pendantInputChange key pressed) :=
  ⟨rfl, fun h => by cases h⟩

theorem keyPress (key : Key) : Statement (.keyPress key) :=
  ⟨rfl, fun h => by cases h⟩

theorem faultRead (tag : Byte) (bank : Option BankRef) : Statement (.faultRead tag bank) :=
  ⟨rfl, fun _ => rfl⟩

theorem faultClear (tag : Byte) (bank : Option FaultBank) : Statement (.faultClear tag bank) :=
  ⟨rfl, fun _ => rfl⟩

theorem faultMask (tag : Byte) (bank : Option FaultBank) (mask : Nat) : Statement (.faultMask tag bank mask) :=
  ⟨rfl, fun _ => rfl⟩

theorem thresholdSet (tag : Byte) (bank : Option FaultBank) (threshold : Nat) : Statement (.thresholdSet tag bank threshold) :=
  ⟨rfl, fun _ => rfl⟩

theorem thresholdClear (tag : Byte) (bank : Option FaultBank) : Statement (.thresholdClear tag bank) :=
  ⟨rfl, fun _ => rfl⟩

end Sys2Proof.Laws.RequestKind
end

