-- ==== Sys2Proof/Tests/Slice0.lean ====
section
/-! SUPPORT. Tests. Ill-formed commands are refused; bytes and values are checked against numbers of the spec; and each
statement of Certificates/Slice0/Obligations.lean that has hypotheses has its witness: a state and operands that meet them,
clause by clause, at the ends of their ranges. -/

set_option Elab.async false

namespace Sys2Proof.Tests

open Sys2Proof Sys2Proof.Machine

/-! ### States -/

/-- The state after a command, or the reset state where the command stops. -/
def ran : Host.Outcome State Fault Refusal → State
  | .next t => t
  | _ => State.reset

/-- Start-up has ended and no volume is mounted; the internal generator's latest edge is now. -/
def up : State :=
  { State.reset with
    now := 2000500
    start := { phase := .done, guardWaits := 0, restoreOutcome := .factory, homing := some .done }
    tc := { State.reset.tc with state := .unclamped }
    cc := { State.reset.cc with
      sync := { State.reset.cc.sync with state := .internal, gen := some 2000500, delivered := some 2000500 } } }

/-- The mark AB 1. -/
def mark : Text := [0x41#8, 0x42#8, 0x20#8, 0x31#8]

/-- A volume of 10 leaves with leaf 7 a foldout, of the factory class. -/
def vol : Volume :=
  { mark := mark, n := 10, direction := .ltr, j0 := 4, mountNo := 1, cls := 0, source := .matched, position := none
    limits := ClassRec.factory, foldouts := [7], blanks := [] }

/-- The volume mounted, at opening 4. -/
def mounted : State :=
  { up with
    sau := { mountCounter := 1, volume := some vol, openings := buildOpenings .ltr 10 [7] [], tally := none }
    tc := { up.tc with j := 4 } }

/-- The record of a forward turn. -/
def turnOp (remaining : Nat) : Op :=
  { kind := .turn, forward := true, remaining := remaining, turned := 1, clampAfter := false, fromClamped := false
    byRun := false }

/-- The volume mounted, TC in a state with an operation. -/
def tcIn (st : TcState) (op : Option Op) : State :=
  { mounted with tc := { mounted.tc with state := st, op := op, attempt := 1, phaseStart := 2000000 } }

/-- A lit bank at level 50. -/
def litBank : BankRec :=
  { faulted := false, kind := none, level := 50, lit := true, prevLevel := 50, changedAt := 2000000 }

/-- The present instant. -/
def atNow (t : Nat) (s : State) : State := { s with now := t }

/-- A preview LIT on the mounted volume, all four banks at level 50, at the start of frame 1. -/
def lit : State :=
  { mounted with lc := { mounted.lc with
      banks := ⟨litBank, litBank, litBank, litBank⟩, frameEdge := some 2000500
      window := some { kind := .preview, profile := 0, mode := .fixed, target := 2000, interval := 4, hold := true
                       nextCompare := none, held := false, startLevels := none }
      preview := some { profile := 0, start := 2000, finish := 3000 } } }

/-- A ticket of the mounted volume covering the left side of opening 4. -/
def ticket (closed : Bool) (result : Option SideResult) : Ticket :=
  { serial := 1, closed := closed, mountNo := 1, opening := 4
    left := some { side := 8, result := result, superseded := false }, right := none, orphaned := false, read := false
    profile := 0, mode := .fixed, settle := 20, exposure := 100, startLux := none, startLevels := none
    lampDegraded := false, underLit := false, syncSwitched := false, source := none, dose := 0, openTime := 1990
    closeTime := if closed then some 2000 else none }

/-- The mounted volume with one ticket in the ring. -/
def ticketed (k : Ticket) : State :=
  { mounted with cc := { mounted.cc with tickets := [k], nextSerial := 2 } }

/-- A capture of camera A in progress. -/
def exposing (st : CaptureState) (elapsed raised : Bool) : State :=
  { ticketed (ticket false none) with
    cc := { (ticketed (ticket false none)).cc with
      state := st, openedAt := 1990000, triggeredAt := some 2000000, elapsed := elapsed
      camA := { triggered := true, raised := raised, done := false, stored := false, lastStored := none
                lastTrigger := some 2000000 } } }

/-- Another pins field. -/
def withPins (f : Pins → Pins) (s : State) : State := { s with pins := f s.pins }

/-- Another run state. -/
def withRun (r : RunState) (s : State) : State := { s with rc := { s.rc with state := r } }

/-- A reply being sent. -/
def sending (s : State) : State :=
  { s with lk := { s.lk with sending := some (.reply { kind := 0x81#8, tag := 0#8, result := .ok, body := [] }) } }

/-- The selector in a state, with the instant of its last external edge and its count. -/
def synced (st : SyncState) (last count : Nat) : State :=
  { up with cc := { up.cc with sync := { up.cc.sync with
      state := st, lastExt := some last, goodCount := count, gen := none } } }

/-- TC in HOMING, in a phase that began at 2,000 ms. -/
def homing (part : HomePart) (s : State) : State :=
  { s with tc := { s.tc with state := .homing, homePhase := some part, phaseStart := 2000000 } }

/-- The part is starting, in a phase of it. -/
def starting (p : StartPhase) (s : State) : State := { s with start := { s.start with phase := p, homing := none } }

/-- One switch of the arm and the platen made, the other open. -/
def oneSwitch (park : Bool) (s : State) : State := withPins (fun p => { p with armPark := park, platenUp := !park }) s

/-! ### Well-formed commands: a term each check refuses -/

def patternFields : PatternFields := { position := 255, enabled := some true, cls := 255, pattern := List.replicate 40 0x41#8 }

def classFields : ClassFields :=
  { dayBudget := 0, openingLimit := 4294967295, ambient := some true, turning := some .auto, retryLimit := 9, airStart := 2
    policy := some .clamp, forceTarget := 4000, dwellLimit := 120 }

def profileFields : ProfileFields :=
  { mode := some .fixed, enable := 15, levelLa := 140, levelLb := 50, levelRa := 50, levelRb := 50, target := 2000
    interval := 0, hold := some true, settle := 20, exposure := 2000, selection := some .auto }

def mountFields : MountFields :=
  { raw := [0x61#8, 0x42#8, 0x20#8, 0x20#8, 0x31#8], n := 10, direction := some .ltr, j0 := 10, override := .absent
    foldouts := [7], blanks := [(1, 2)] }

theorem test_wellFormed_accepts :
    (Instr.coldStart true 3).wf ∧ (Instr.unknownRequest 0#8 0x06#8).wf ∧ (Instr.noticeMask 0#8 65535).wf
    ∧ (Instr.patternWrite 0#8 patternFields).wf ∧ (Instr.classWrite 0#8 255 classFields).wf
    ∧ (Instr.mount 0#8 mountFields).wf ∧ (Instr.profileWrite 0#8 255 profileFields).wf
    ∧ (Instr.faultMask 0#8 none 255).wf ∧ (Instr.sensorReading 4095).wf ∧ (Instr.forceReading 4095).wf := by
  decide +kernel

theorem test_wellFormed_refuses_straps_kinds_masks :
    (Instr.coldStart true 4).wf = false ∧ (Instr.unknownRequest 0#8 0x01#8).wf = false
    ∧ (Instr.unknownRequest 0#8 0x5C#8).wf = false ∧ (Instr.noticeMask 0#8 65536).wf = false
    ∧ (Instr.faultMask 0#8 none 256).wf = false := by
  decide +kernel

theorem test_wellFormed_refuses_patternWrite :
    (Instr.patternWrite 0#8 { patternFields with position := 256 }).wf = false
    ∧ (Instr.patternWrite 0#8 { patternFields with cls := 256 }).wf = false
    ∧ (Instr.patternWrite 0#8 { patternFields with pattern := List.replicate 41 0x41#8 }).wf = false := by
  decide +kernel

theorem test_wellFormed_refuses_classWrite :
    (Instr.classWrite 0#8 256 classFields).wf = false
    ∧ (Instr.classWrite 0#8 0 { classFields with dayBudget := 4294967296 }).wf = false
    ∧ (Instr.classWrite 0#8 0 { classFields with openingLimit := 4294967296 }).wf = false
    ∧ (Instr.classWrite 0#8 0 { classFields with retryLimit := 256 }).wf = false
    ∧ (Instr.classWrite 0#8 0 { classFields with airStart := 256 }).wf = false
    ∧ (Instr.classWrite 0#8 0 { classFields with forceTarget := 65536 }).wf = false
    ∧ (Instr.classWrite 0#8 0 { classFields with dwellLimit := 65536 }).wf = false := by
  decide +kernel

theorem test_wellFormed_refuses_profileWrite :
    (Instr.profileWrite 0#8 256 profileFields).wf = false
    ∧ (Instr.profileWrite 0#8 0 { profileFields with enable := 256 }).wf = false
    ∧ (Instr.profileWrite 0#8 0 { profileFields with levelLa := 256 }).wf = false
    ∧ (Instr.profileWrite 0#8 0 { profileFields with levelLb := 256 }).wf = false
    ∧ (Instr.profileWrite 0#8 0 { profileFields with levelRa := 256 }).wf = false
    ∧ (Instr.profileWrite 0#8 0 { profileFields with levelRb := 256 }).wf = false
    ∧ (Instr.profileWrite 0#8 0 { profileFields with target := 65536 }).wf = false
    ∧ (Instr.profileWrite 0#8 0 { profileFields with interval := 65536 }).wf = false
    ∧ (Instr.profileWrite 0#8 0 { profileFields with settle := 256 }).wf = false
    ∧ (Instr.profileWrite 0#8 0 { profileFields with exposure := 65536 }).wf = false := by
  decide +kernel

theorem test_wellFormed_refuses_mount :
    (Instr.mount 0#8 { mountFields with raw := [] }).wf = false
    ∧ (Instr.mount 0#8 { mountFields with raw := List.replicate 41 0x41#8 }).wf = false
    ∧ (Instr.mount 0#8 { mountFields with n := 65536 }).wf = false
    ∧ (Instr.mount 0#8 { mountFields with j0 := 65536 }).wf = false
    ∧ (Instr.mount 0#8 { mountFields with override := .cls 255 }).wf = false
    ∧ (Instr.mount 0#8 { mountFields with foldouts := List.replicate 33 1 }).wf = false
    ∧ (Instr.mount 0#8 { mountFields with foldouts := [65536] }).wf = false
    ∧ (Instr.mount 0#8 { mountFields with blanks := List.replicate 17 (1, 1) }).wf = false
    ∧ (Instr.mount 0#8 { mountFields with blanks := [(65536, 1)] }).wf = false
    ∧ (Instr.mount 0#8 { mountFields with blanks := [(1, 65536)] }).wf = false := by
  decide +kernel

theorem test_wellFormed_refuses_readings :
    (Instr.sensorReading 4096).wf = false ∧ (Instr.forceReading 4096).wf = false := by
  decide +kernel

/-! ### Bytes -/

/-- The value 10 R182 gives for the nine characters 123456789. -/
theorem test_crc_check_value :
    crc16 [0x31#8, 0x32#8, 0x33#8, 0x34#8, 0x35#8, 0x36#8, 0x37#8, 0x38#8, 0x39#8] = 0x29B1#16 := by
  decide +kernel

/-- A NOTICE MASK frame with TAG 7 and the set 5, laid out by 10 R181 with its CRC worked out by hand. -/
theorem test_frame_bytes :
    frameBytes 0x04#8 7#8 [0#8, 5#8]
      = [0xC3#8, 2#8, 4#8, 7#8, 0#8, 5#8, 0x4A#8, 0x4B#8] := by
  decide +kernel

theorem test_frameReceived_noticeMask :
    (ran (exec (.frameReceived [0xC3#8, 2#8, 4#8, 7#8, 0#8, 5#8, 0x4A#8, 0x4B#8]) up)).set.noticeMask = 5#12 := by
  decide +kernel

/-- The MOUNT body of the example of 01, laid out by 12 Table 12-5: `ms. 1204  a`, N 5, RTL, j0 1, override 4, foldout 3 and
three blank ranges. -/
theorem test_mount_body :
    parseRequest 0x15#8 9#8
        [11#8, 0x6D#8, 0x73#8, 0x2E#8, 0x20#8, 0x31#8, 0x32#8, 0x30#8, 0x34#8, 0x20#8, 0x20#8, 0x61#8,
         0#8, 5#8, 1#8, 0#8, 1#8, 4#8, 1#8, 0#8, 3#8, 3#8, 0#8, 9#8, 0#8, 10#8, 0#8, 2#8, 0#8, 2#8, 0#8, 5#8, 0#8, 7#8]
      = some (.mount 9#8 { raw := [0x6D#8, 0x73#8, 0x2E#8, 0x20#8, 0x31#8, 0x32#8, 0x30#8, 0x34#8, 0x20#8, 0x20#8, 0x61#8]
                           n := 5, direction := some .rtl, j0 := 1, override := .cls 4, foldouts := [3]
                           blanks := [(9, 10), (2, 2), (5, 7)] }) := by
  decide +kernel

/-- A body one byte too long fails its layout (12 R195). -/
theorem test_long_body_refused : parseRequest 0x01#8 9#8 [0#8] = none := by
  decide +kernel

/-- The table gives no bits. -/
theorem test_decodeTableWord : decodeTableWord 16 0x1234 = none := rfl

/-! ### Commands: values of the spec's examples -/

/-- The reply to a request, as the frame being sent. -/
def reply (s : State) : Option Reply :=
  match s.lk.sending with
  | some (.reply r) => some r
  | _ => none

/-- The example mount of 01: the opening table is Table 1-6, and the counter goes from 41 to 42. -/
theorem test_mount_example :
    (ran (exec (.mount 9#8 { raw := [0x6D#8], n := 5, direction := some .rtl, j0 := 1, override := .absent
                             foldouts := [3], blanks := [(9, 10), (2, 2), (5, 7)] })
        { up with sau := { up.sau with mountCounter := 41 } })).sau.openings
      = [⟨.pending, .absent, 0⟩, ⟨.pending, .blank, 0⟩, ⟨.foldout, .pending, 0⟩, ⟨.blank, .foldout, 0⟩,
         ⟨.blank, .pending, 0⟩, ⟨.absent, .blank, 0⟩]
    ∧ (ran (exec (.mount 9#8 { raw := [0x6D#8], n := 5, direction := some .rtl, j0 := 1, override := .absent
                               foldouts := [3], blanks := [] })
        { up with sau := { up.sau with mountCounter := 41 } })).sau.mountCounter = 42 := by
  decide +kernel

/-- The mark of the example normalises to `MS. 1204 A` (01 R1). -/
theorem test_classify_normalises :
    ((reply (ran (exec (.classify 9#8 [0x6D#8, 0x73#8, 0x2E#8, 0x20#8, 0x31#8, 0x32#8, 0x30#8, 0x34#8, 0x20#8, 0x20#8,
        0x61#8]) up))).map Reply.body)
      = some [.bytes [0x4D#8, 0x53#8, 0x2E#8, 0x20#8, 0x31#8, 0x32#8, 0x30#8, 0x34#8, 0x20#8, 0x41#8], .num 0, .missing] := by
  decide +kernel

/-- A day budget of 0 is written as 1, a force target of 4000 as 3000, a retry limit of 9 as 7 (01 R8). -/
theorem test_classWrite_clamps :
    (classAt (ran (exec (.classWrite 9#8 7 classFields) up)).set.classes 7).dayBudget = 1
    ∧ (classAt (ran (exec (.classWrite 9#8 7 classFields) up)).set.classes 7).forceTarget = 3000
    ∧ (classAt (ran (exec (.classWrite 9#8 7 classFields) up)).set.classes 7).retryLimit = 7 := by
  decide +kernel

/-- SET 140 gives 99 with the flag set (03 R64). -/
theorem test_profileLevel_set :
    (reply (ran (exec (.profileLevel 9#8 3 (some .rb) (some (.set 140))) up)))
      = some { kind := 0xB2#8, tag := 9#8, result := .ok, body := [.num 99, .flag true] } := by
  decide +kernel

/-- An m of 0 is taken as 1, with the flag set (05 R103). -/
theorem test_profileWrite_interval :
    (profileAt (ran (exec (.profileWrite 9#8 3 profileFields) up)).set.profiles 3).interval = 1
    ∧ (reply (ran (exec (.profileWrite 9#8 3 profileFields) up))).map Reply.body = some [.flag true] := by
  decide +kernel

/-- The turn example of 02: from CLAMPED at 4, a TURN of 3 raises the platen first. -/
theorem test_turn_example_raises :
    (ran (exec (.turn 9#8 3 (some false)) (tcIn .clamped none))).tc.state = .raising
    ∧ ((ran (exec (.turn 9#8 3 (some false)) (tcIn .clamped none))).tc.op.map Op.remaining) = some 3 := by
  decide +kernel

/-- The turn example: a miss on attempt 1 gives attempt 2 at air level 3. -/
theorem test_turn_example_miss :
    (ran (exec (.leafSensorReport .zero) { tcIn .lifting (some (turnOp 3)) with
        tc := { (tcIn .lifting (some (turnOp 3))).tc with air := 2 } })).tc.attempt = 2
    ∧ (ran (exec (.leafSensorReport .zero) { tcIn .lifting (some (turnOp 3)) with
        tc := { (tcIn .lifting (some (turnOp 3))).tc with air := 2 } })).tc.air = 3 := by
  decide +kernel

/-- The turn example: the end of a sweep takes j from 4 to 5 and the remaining count from 3 to 2. -/
theorem test_turn_example_carry :
    (ran (exec .endOfSweep (tcIn .carrying (some (turnOp 3))))).tc.j = 5
    ∧ ((ran (exec .endOfSweep (tcIn .carrying (some (turnOp 3))))).tc.op.map Op.remaining) = some 2 := by
  decide +kernel

/-- The turn example: at 6, with leaf 7 a foldout next, the park switch ends the turn in UNCLAMPED with 1 remaining. -/
theorem test_turn_example_foldout :
    (ran (exec .armParkMade (sending { tcIn .returning (some (turnOp 1)) with
        tc := { (tcIn .returning (some (turnOp 1))).tc with j := 6, returnGoal := some .turn } }))).lk.gathered.turnEnd
      = some { kind := .turn, result := .foldoutStop, turned := 1, remaining := 1, j := 6, state := .unclamped } := by
  decide +kernel

/-- The guard example of 02: the guard opening in CARRYING with the leaf on the head leaves the vacuum on. -/
theorem test_guard_example :
    (ran (exec .guardOpen (withPins (fun p => { p with leafSensor := .one })
        { tcIn .carrying (some (turnOp 2)) with
          tc := { (tcIn .carrying (some (turnOp 2))).tc with vacuum := true } }))).tc.vacuum = true
    ∧ (ran (exec .guardOpen (tcIn .carrying (some (turnOp 2))))).tc.state = .safeStop := by
  decide +kernel

/-- The HELD-LUX example of 03: with E 1900 against a target of 2000, levels of 40 become 41. -/
theorem test_regulation_example :
    (ran (exec .regulationComparison { lit with
        di := { lit.di with lux := 1900 }
        lc := { lit.lc with
          banks := lit.lc.banks.map fun b => { b with level := 40 }
          window := some { kind := .preview, profile := 0, mode := .heldLux, target := 2000, interval := 4, hold := true
                           nextCompare := some 2004000, held := false, startLevels := none } } })).lc.banks.la.level
      = 41 := by
  decide +kernel

/-- The preview example of 03: 12 s from 1,000,000 ms end at 1,012,000. -/
theorem test_preview_example :
    (ran (exec (.preview 9#8 0 12) { mounted with
        now := 1000000000, set := { mounted.set with luxPerStep := ⟨10, 10, 10, 10⟩ } })).lc.preview
      = some { profile := 0, start := 1000000, finish := 1012000 } := by
  decide +kernel

/-- The preview example of 03: RB reported high is faulted, and the others stay lit. -/
theorem test_bank_short_example :
    (ran (exec (.bankCurrentFault .rb .high) lit)).lc.banks.rb.kind = some .bankShort
    ∧ (ran (exec (.bankCurrentFault .rb .high) lit)).lc.banks.ra.lit = true := by
  decide +kernel

/-- The cases of 04: k 48 and a raw reading of 2731 give E 2048; the second sample leaves R at 96 and 2 units more. -/
theorem test_sensor_example :
    (ran (exec (.sensorReading 2731) { lit with
        set := { lit.set with k := 48 }, di := { lit.di with dayDose := 179502, remainder := 48 } })).di.lux = 2048
    ∧ (ran (exec (.sensorReading 2731) { lit with
        set := { lit.set with k := 48 }, di := { lit.di with dayDose := 179502, remainder := 48 } })).di.remainder = 96
    ∧ (ran (exec (.sensorReading 2731) { lit with
        set := { lit.set with k := 48 }, di := { lit.di with dayDose := 179502, remainder := 48 } })).di.dayDose = 179504 := by
  decide +kernel

/-- Readings that come each millisecond: the one that follows the whole second 2 charges that second's room light (04 R81). -/
theorem test_ambient_between_readings :
    (ran (exec (.sensorReading 8) { mounted with
        now := 2000000, di := { mounted.di with lux := 6, lastRead := some 2000, dayDose := 5 } })).di.dayDose = 11 := by
  decide +kernel

/-- The OK reply of a STORE that completes at 2,400 ms is OK and that time, in 6 bytes (11 R194, 12 R195). -/
theorem test_store_reply_bytes :
    (reply (ran (exec .storeComplete { up with
        lk := { up.lk with inHand := some (0x0A#8, 7#8) }
        ss := { up.ss with writing := some (up.set, 2400000) }, now := 2400000 }))).map
      (fun r => (TxFrame.reply r).body) = some [0#8, 0#8, 0#8, 0#8, 0#8, 0x09#8, 0x60#8] := by
  decide +kernel

/-- The loss example of 05: two periods of 20 ms after the last edge, the generator's first edge is delivered. -/
theorem test_sync_loss_example :
    (ran (exec .syncLoss { up with cc := { up.cc with
        sync := { up.cc.sync with state := .external, lastExt := some 2000000, gen := none } } })).cc.sync.delivered
      = some 2040000 := by
  decide +kernel

/-- The loss example of 05: the frame limit of a ticket triggered at 2,000 ms with exposure 100 ms falls at 2,600 ms. -/
theorem test_frame_limit_example :
    (ran (exec .frameLimit (exposing .collect true true))).now = 2600000
    ∧ (ran (exec .frameLimit (exposing .collect true true))).cc.tickets.map Ticket.left
      = [some { side := 8, result := some .noFrame, superseded := false }] := by
  decide +kernel

/-- The selection example of 05: with one side HELD and the other ACCEPTED, AUTO selects nothing. -/
theorem test_capture_nothing :
    ((reply (ran (exec (.capture 9#8 0 .absent) { tcIn .clamped none with sau := { mounted.sau with
        openings := mounted.sau.openings.set 4 ⟨.held, .accepted, 0⟩ } }))).map Reply.result) = some .nothing := by
  decide +kernel

/-- The release example of 06: a STORED half with ACCEPT becomes ACCEPTED, a NO-FRAME one RETAKE despite the verdict. -/
theorem test_release_example :
    (ran (exec (.ticketRelease 9#8 1 (some .accept) (some .accept)) (ticketed (ticket true (some .stored))))).sideState 8
      = .accepted
    ∧ (ran (exec (.ticketRelease 9#8 1 (some .accept) (some .accept)) (ticketed (ticket true (some .noFrame))))).sideState 8
      = .retake := by
  decide +kernel

/-- The backlog example of 06: 30 s after its close the oldest unread ticket meets the age test. -/
theorem test_backlog_example :
    (ran (exec .backlogAge (ticketed (ticket true none)))).now = 32000000
    ∧ (ran (exec .backlogAge (ticketed (ticket true none)))).cc.backlog = true := by
  decide +kernel

/-- The threshold example of 09: a count of 9 with T = 16, and THRESHOLD SET 8 sets crossed. -/
theorem test_threshold_example :
    (reply (ran (exec (.thresholdSet 9#8 (some .link) 8)
        { up with fb := { banks := { up.fb.banks with link := { record := none, count := 9, crossed := false } } } })))
      = some { kind := 0xDB#8, tag := 9#8, result := .ok, body := [.num 8, .flag false, .num 9, .flag true] } := by
  decide +kernel

/-- The link example of 10: with a STORE in hand and two frames waiting, an IDENTIFY is dropped, and OVERRUN is recorded with
its KIND. -/
theorem test_overrun_example :
    (ran (exec (.identify 24#8) { up with lk := { up.lk with
        inHand := some (0x0A#8, 21#8)
        queue := [{ kind := 0x42#8, tag := 22#8, request := none }, { kind := 0x28#8, tag := 23#8, request := none }] } })).fb.banks.link.record
      = some { overflow := false, code := .overrun, detail := [1], time := 2000, mountNo := none } := by
  decide +kernel

/-! ### Witnesses: the hypotheses of the statements are met, clause by clause -/

/-- The reading of this millisecond made, and an edge due at the end of the next but for 1 µs. -/
def ticking : State :=
  { up with di := { up.di with lastRead := some 2000, lastAmbient := some 2 }
            cc := { up.cc with sync := { up.cc.sync with gen := some 1980999 } } }

/-- No supply; the reading first in the list; an edge before it; and, while detecting, no timer within the millisecond. -/
theorem witness_EmptyQueueLetsTimePass :
    ({ up with powered := false } : State).pending = [] ∧ up.starting = false
    ∧ up.pending = [] ∧ up.powered = true ∧ up.clock < clockLast
    ∧ up.timers = [] ++ (2000500, .sensorReading 0) :: up.timers.tail
    ∧ 2000500 ≤ (up.clock + 1) * 1000 ∧ (∀ p ∈ up.timers.tail, 2000500 ≤ p.1)
    ∧ ticking.pending = [] ∧ ticking.powered = true ∧ ticking.clock < clockLast
    ∧ ticking.timers = [(2001000, .sensorReading 0)] ++ (2000999, .internalSyncEdge) :: ticking.timers.tail.tail
    ∧ 2000999 ≤ (ticking.clock + 1) * 1000 ∧ (∀ p ∈ [((2001000 : Nat), Instr.sensorReading 0)], 2000999 < p.1)
    ∧ (∀ p ∈ ticking.timers.tail.tail, 2000999 ≤ p.1)
    ∧ (∀ p ∈ State.reset.timers, (State.reset.clock + 1) * 1000 < p.1) := by
  decide +kernel

theorem ringSound_one (k : Ticket) (h : k.serial = 1) : (ticketed k).cc.ringSound := by
  refine ⟨⟨?_, trivial⟩, ?_, ?_, ?_, ?_⟩
  · change serialAfter k.serial = 2
    rw [h]
    decide
  · intro t ht
    cases ht
  · exact (by decide : 1 ≤ 2 ∧ 2 ≤ 4294967295)
  · intro t ht
    rw [List.mem_singleton.1 ht]
    exact ⟨by omega, by omega⟩
  · exact (by decide : 0 < 32)

theorem mounted_tableSound : mounted.sau.tableSound := by
  intro v h
  cases h
  decide +kernel

/-- A ring with its OPEN ticket, and the table of a mounted volume. -/
theorem witness_StepsKeepTheBounds :
    ∃ t, (ticketed (ticket false none)).bounded ∧ (ticketed (ticket false none)).cc.ringSound
      ∧ (ticketed (ticket false none)).sau.tableSound ∧ step (ticketed (ticket false none)) = .next t :=
  ⟨_, by unfold State.bounded; decide +kernel, ringSound_one _ rfl, mounted_tableSound, by
    rw [step, State.idle, if_neg (by decide), if_neg (by decide)]
    rfl⟩

theorem reset_countersHold : State.reset.countersHold := by
  refine ⟨fun b => ?_, fun b => ?_, fun b => ?_, fun w h => ?_⟩
  · cases b <;> decide
  · cases b <;> decide
  · cases b <;> decide
  · cases h

theorem witness_StepsKeepTheCounters : ∃ t, State.reset.countersHold ∧ step State.reset = .next t :=
  ⟨_, reset_countersHold, rfl⟩

theorem reset_lampsSafe : State.reset.lampsSafe := by
  refine ⟨fun _ b => ?_, ?_, fun b => ?_, ?_, ?_⟩
  · cases b <;> rfl
  · decide
  · cases b <;> decide
  · decide
  · decide

theorem lit_lightSound : lit.lightSound :=
  ⟨fun b _ => by cases b <;> exact ⟨by decide, Or.inl (by decide)⟩, fun h => by cases h⟩

/-- The reset state, dark; and a lit preview. -/
theorem witness_StepsKeepTheLampsSafe :
    (∃ t, State.reset.lampsSafe ∧ step State.reset = .next t) ∧ lit.lightSound ∧ (lit.lc.banks.get .la).lit = true :=
  ⟨⟨_, reset_lampsSafe, rfl⟩, lit_lightSound, by decide⟩

theorem witness_FramesCarryTheirRequests :
    (Instr.noticeMask 7#8 65535).wf = true ∧ (Instr.noticeMask 7#8 65535).body? = some [0xFF#8, 0xFF#8]
    ∧ (Instr.noticeMask 7#8 65535).kind? = some 0x04#8 ∧ (Instr.noticeMask 7#8 65535).tag? = some 7#8
    ∧ up.lk.receiver = .hunting := by
  decide +kernel

/-- A body of 250 bytes with another CRC. -/
theorem witness_FramesAreDroppedAndQueued_crc :
    up.quiet ∧ up.lk.receiver = .hunting ∧ (List.replicate 250 0#8).length ≤ 250
    ∧ ∃ c1 c0 : Byte,
      [c1, c0] ≠ [(crc16 (BitVec.ofNat 8 250 :: 1#8 :: 0#8 :: List.replicate 250 0#8)).extractLsb' 8 8,
        (crc16 (BitVec.ofNat 8 250 :: 1#8 :: 0#8 :: List.replicate 250 0#8)).extractLsb' 0 8] := by
  refine ⟨by decide +kernel, by decide +kernel, by decide +kernel, ?_⟩
  generalize crc16 (BitVec.ofNat 8 250 :: 1#8 :: 0#8 :: List.replicate 250 0#8) = r
  exact ⟨~~~(r.extractLsb' 8 8), r.extractLsb' 0 8, by
    intro h
    have h := (List.cons.inj h).1
    have := congrArg (fun x : Byte => x.getLsbD 0) h
    simp at this⟩

/-- A LEN of 251; a frame begun, its timer's end in this millisecond; a request in hand; and a RESET taken. -/
theorem witness_FramesAreDroppedAndQueued :
    up.quiet ∧ up.lk.receiver = .hunting ∧ 250 < (251#8).toNat
    ∧ ({ up with lk := { up.lk with receiver := .inFrame [0xC3#8] 1980998 } } : State).quiet
    ∧ up.endsNow (1980998 + 20001)
    ∧ ({ up with lk := { up.lk with inHand := some (0x0A#8, 0#8) } } : State).runQuiet
    ∧ ({ up with lk := { up.lk with resetTaken := true } } : State).lk.resetTaken = true
    ∧ (Instr.identify 7#8).kind? = some 0x01#8 ∧ (Instr.identify 7#8).tag? = some 7#8 := by
  decide +kernel

theorem witness_RequestsAreGated :
    up.takes ∧ knownKind 0x06#8 = false
    ∧ State.reset.takes ∧ State.reset.starting = true ∧ (Instr.halt 7#8).kind? = some 0x23#8
    ∧ (Instr.halt 7#8).tag? = some 7#8 ∧ knownKind 0x23#8 = true := by
  decide +kernel

/-- A state whose transmitter sends the reply of a kind. -/
def sendingKind (k : Byte) (s : State) : State :=
  { s with lk := { s.lk with sending := some (.reply { kind := k, tag := 0#8, result := .ok, body := [] }) } }

/-- A reply waiting; DWELL pending alone, and SAFETY, the first; nothing waiting; and the RESET reply in the line. -/
theorem witness_TransmitterChoosesTheNextFrame :
    (sendingKind 0x81#8 up).quiet ∧ (sendingKind 0x81#8 up).lk.sending.isSome = true
    ∧ (sendingKind 0x81#8 up).resetReplied = false ∧ (sendingKind 0x81#8 up).lk.slot = none
    ∧ (sendingKind 0x81#8 up).lk.pendingSet = 0
    ∧ (sendingKind 0x81#8 { up with lk := { up.lk with
        slot := some { kind := 0x82#8, tag := 0#8, result := .ok, body := [] } } }).quiet
    ∧ (sendingKind 0x83#8 { up with lk := { up.lk with resetTaken := true } }).quiet
    ∧ (sendingKind 0x83#8 { up with lk := { up.lk with resetTaken := true } }).resetReplied = true := by
  decide +kernel

theorem witness_TransmitterChoosesTheNextFrame_pending :
    (0x400#12).getLsbD NoticeKind.dwell.bit = true
    ∧ (∀ k' : NoticeKind, k'.bit < NoticeKind.dwell.bit → (0x400#12).getLsbD k'.bit = false)
    ∧ (0xFFF#12).getLsbD NoticeKind.safety.bit = true
    ∧ (∀ k' : NoticeKind, k'.bit < NoticeKind.safety.bit → (0xFFF#12).getLsbD k'.bit = false) := by
  refine ⟨by decide, fun k' => ?_, by decide, fun k' => ?_⟩ <;> cases k' <;> decide

theorem witness_ResetMaskAndLock : up.serves ∧ up.quiet := by
  decide +kernel

theorem witness_IdentifyAndClockReadAnswer : up.takes ∧ State.reset.takes := by
  decide +kernel

/-- A value that is no rate; a ticket OPEN; a preview LIT; and the generator running, an external source, and detection. -/
theorem witness_SettingsAreReadAndWritten :
    up.serves ∧ (withPins (fun p => { p with lockEngaged := true }) up).serves
    ∧ 55 ∉ [50, 60, 100, 120] ∧ (ticketed (ticket false none)).serves ∧ (ticketed (ticket false none)).ticketOpen = true
    ∧ lit.serves ∧ lit.lc.preview.isSome = true
    ∧ (∀ s ∈ [up, synced .external 1981399 0, synced .manualExternal 1981399 0, synced .detecting 1981399 0],
        s.serves ∧ s.ticketOpen = false ∧ s.lc.preview = none) := by
  decide +kernel

theorem witness_StoreWritesTheWorkingSettings :
    up.serves
    ∧ ({ up with ss := { up.ss with writing := some (up.set, 2000000) }
                 lk := { up.lk with inHand := some (0x0A#8, 7#8) } } : State).quiet := by
  decide +kernel

/-- Rate straps 0 and 3; a good store, a bad one, and one whose write the supply interrupts. -/
theorem witness_PowerFailsAndReturns :
    (0 < 4 ∧ 3 < 4) ∧ up.ss.crcGood = true ∧ up.ss.writing = none
    ∧ ({ up with ss := { up.ss with crcGood := false } } : State).ss.crcGood = false
    ∧ ({ up with ss := { up.ss with writing := some (up.set, 2000000) } } : State).ss.writing.isSome = true := by
  decide +kernel

/-- A volume mounted with a run paused; each arm stroke; the guard open; SAFE-STOP; and ATTENTION with a leaf on the head and
without. -/
theorem witness_WarmResetClosesTheAccount :
    (withRun (.paused .lamp) mounted).powered = true ∧ (withRun (.paused .lamp) mounted).starting = false
    ∧ (withRun (.paused .lamp) mounted).tc.state.armStroke = false
    ∧ (withRun (.paused .lamp) mounted).sau.volume = some vol ∧ mounted.sau.openings.length = vol.n + 1
    ∧ (∀ st ∈ [TcState.lifting, .carrying, .releasing, .returning],
        (tcIn st (some (turnOp 1))).powered = true ∧ (tcIn st (some (turnOp 1))).starting = false
        ∧ (tcIn st (some (turnOp 1))).tc.state.armStroke = true)
    ∧ (withPins (fun p => { p with guardOpen := true }) mounted).pins.guardOpen = true
    ∧ (tcIn .safeStop none).tc.state = .safeStop ∧ (tcIn .safeStop none).tc.state.armStroke = false
    ∧ (withPins (fun p => { p with leafSensor := .one }) (tcIn .attention none)).tc.state = .attention
    ∧ (withPins (fun p => { p with leafSensor := .one }) (tcIn .attention none)).pins.leafSensor ≠ .zero
    ∧ (tcIn .attention none).pins.leafSensor = .zero := by
  decide +kernel

/-- An enabled and a masked kind; the threshold kind of LINK at a count of 4095, and a higher severity over a record. -/
theorem witness_ReportsAreRankedAndCounted :
    (up.set.faultMasks.get FaultCode.guardOpen.bank).getLsbD FaultCode.guardOpen.bit = true
    ∧ ((0#8).getLsbD FaultCode.guardOpen.bit) = false
    ∧ thresholdKind FaultCode.badCrc.bank = .badCrc
    ∧ FaultCode.strokeTimeout.severity.rank < FaultCode.guardOpen.severity.rank := by
  decide +kernel

theorem witness_FaultBanksTakeTheirRequests : up.serves ∧ up.countersHold := by
  refine ⟨by decide +kernel, fun b => ?_, fun b => ?_, fun b => ?_, fun w h => ?_⟩
  · cases b <;> decide
  · cases b <;> decide
  · cases b <;> decide
  · cases h

/-- 40 characters and 41, with the lock and without; the last position. -/
theorem witness_PatternsAreWrittenAndRead :
    up.serves ∧ (withPins (fun p => { p with lockEngaged := true }) up).serves
    ∧ 40 < { patternFields with pattern := List.replicate 41 0x41#8 }.pattern.length
    ∧ ¬ 40 < patternFields.pattern.length ∧ (withPins (fun p => { p with lockEngaged := true }) up).pins.lockEngaged = true
    ∧ ({ enabled := false, pattern := [], cls := 0 } : PatternEntry)
      = up.set.patterns.getD 11 { enabled := false, pattern := [], cls := 0 } := by
  decide +kernel

/-- A pattern table with the entry A* of class 3 at position 0. -/
def patterned : State :=
  { up with set := { up.set with
      patterns := up.set.patterns.set 0 { enabled := true, pattern := [0x41#8, 0x2A#8], cls := 3 } } }

/-- A refused mark, a mark that the first entry matches, and one that none matches. -/
theorem witness_ClassifyFindsTheFirstMatch :
    up.serves ∧ shelfMark? [] = none ∧ shelfMark? (List.replicate 25 0x41#8) = none
    ∧ shelfMark? (List.replicate 24 0x41#8) = some (List.replicate 24 0x41#8)
    ∧ patterned.serves ∧ patterned.set.patterns[0]? = some { enabled := true, pattern := [0x41#8, 0x2A#8], cls := 3 }
    ∧ matchesPattern [0x41#8, 0x2A#8] (List.replicate 24 0x41#8) = true
    ∧ (∀ e ∈ up.set.patterns, ¬ (e.enabled = true ∧ matchesPattern e.pattern mark = true)) := by
  decide +kernel

theorem witness_ClassesAreWrittenAndRead :
    up.serves ∧ (withPins (fun p => { p with lockEngaged := true }) up).serves ∧ (7 : Nat) ≤ 7 ∧ (8 : Nat) ≤ 8
    ∧ classFields.ambient = some true ∧ classFields.turning = some .auto ∧ classFields.policy = some .clamp
    ∧ { classFields with policy := none }.policy = none := by
  decide +kernel

/-- A carry table with an entry of the mark AB 1. -/
def carriedDose (dose : Nat) : State :=
  { up with di := { up.di with carry := [{ mark := mark, dose := dose, time := 5, cls := 0 }] } }

/-- Counts above the layout; a volume mounted; TC elsewhere; and each field out of its range. -/
theorem witness_MountTakesTheVolume_refused :
    up.serves ∧ 40 < { mountFields with raw := List.replicate 41 0x41#8 }.raw.length
    ∧ 32 < { mountFields with foldouts := List.replicate 33 1 }.foldouts.length
    ∧ 16 < { mountFields with blanks := List.replicate 17 (1, 1) }.blanks.length
    ∧ mountFields.raw.length ≤ 40 ∧ mountFields.foldouts.length ≤ 32 ∧ mountFields.blanks.length ≤ 16
    ∧ mounted.serves ∧ mounted.sau.volume.isSome = true
    ∧ ({ up with tc := { up.tc with state := .seek } } : State).serves
    ∧ ({ up with tc := { up.tc with state := .seek } } : State).tc.state ≠ .unclamped
    ∧ up.sau.volume = none ∧ up.tc.state = .unclamped
    ∧ shelfMark? { mountFields with raw := [] }.raw = none ∧ { mountFields with n := 0 }.n < 1
    ∧ 2047 < { mountFields with n := 2048 }.n ∧ mountFields.n < { mountFields with j0 := 11 }.j0
    ∧ { mountFields with override := .cls 8 }.override = .cls 8 ∧ foldoutsOk 10 [11] = false
    ∧ blanksOk 10 [(1, 21)] = false := by
  decide +kernel

/-- Both ends of the ranges of N and j0; an override under the lock and without; the dose below, at the warning level and at
the budget. -/
theorem witness_MountTakesTheVolume :
    up.serves ∧ up.sau.volume = none ∧ up.tc.state = .unclamped ∧ shelfMark? mountFields.raw = some mark
    ∧ mountFields.direction = some .ltr ∧ 1 ≤ mountFields.n ∧ mountFields.n ≤ 2047 ∧ mountFields.j0 ≤ mountFields.n
    ∧ foldoutsOk mountFields.n mountFields.foldouts = true ∧ blanksOk mountFields.n mountFields.blanks = true
    ∧ foldoutsOk 2047 [2047] = true ∧ blanksOk 1 [(1, 2)] = true ∧ classify up.set.patterns mark = (0, none)
    ∧ (withPins (fun p => { p with lockEngaged := true }) up).serves
    ∧ { mountFields with override := .cls 7 }.override = .cls 7 ∧ (7 : Nat) ≠ 0 ∧ mountFields.override = .absent
    ∧ up.pins.lockEngaged = false
    ∧ (0 : Nat) < (classAt up.set.classes 0).dayBudget * 7 / 8
    ∧ (carriedDose 1574999).serves ∧ (carriedDose 1574999).sau.volume = none
    ∧ (1574999 : Nat) < (classAt up.set.classes 0).dayBudget * 7 / 8
    ∧ (classAt up.set.classes 0).dayBudget * 7 / 8 ≤ 1575000 ∧ (1575000 : Nat) < (classAt up.set.classes 0).dayBudget
    ∧ (classAt up.set.classes 0).dayBudget ≤ 1800000 ∧ (carriedDose 1800000).cc.state = .idle
    ∧ ((carriedDose 1800000).di.carry.find? fun e => e.mark == mark).map CarryEntry.dose = some 1800000 := by
  decide +kernel

theorem witness_VolumeIsRead :
    up.serves ∧ up.sau.volume = none ∧ mounted.serves ∧ mounted.sau.volume = some vol
    ∧ mounted.sau.openings.length = vol.n + 1 ∧ up.sau.tally = none := by
  decide +kernel

/-- The mounted volume with both sides of opening 4 in given states. -/
def heldAt (l r : SideState) : State :=
  { mounted with sau := { mounted.sau with openings := mounted.sau.openings.set 4 ⟨l, r, 0⟩ } }

/-- The first side and the last, and a HELD one with a ticket that covers it. -/
theorem witness_SideSetChangesItsSide :
    mounted.serves ∧ mounted.sau.volume = some vol ∧ 1 ≤ 20 ∧ 20 ≤ 2 * vol.n ∧ mounted.sideState 20 ≠ .held
    ∧ mounted.sideState 1 ≠ .held
    ∧ ({ heldAt .held .accepted with cc := (ticketed (ticket true none)).cc } : State).serves
    ∧ (heldAt .held .accepted).sau.volume = some vol ∧ 1 ≤ 8 ∧ 8 ≤ 2 * vol.n
    ∧ (heldAt .held .accepted).sideState 8 = .held := by
  decide +kernel

/-- A raise in progress. -/
def raising (g : RaiseGoal) (o : Op) : State :=
  { tcIn .raising (some o) with tc := { (tcIn .raising (some o)).tc with raiseGoal := some g } }

/-- An entry of another mark. -/
def otherEntry : CarryEntry := { mark := [0x43#8], dose := 9, time := 1, cls := 0 }

/-- A ticket of the mount in the ring; none, with 15 entries in the carry table and with 16; from CLAMPED, and HALTED with the
platen down. -/
theorem witness_DismountClosesTheAccount :
    (∀ s ∈ [ticketed (ticket true none), mounted, tcIn .clamped none, withPins (fun p => { p with platenUp := false })
          (tcIn .halted (some (turnOp 1))), { mounted with di := { mounted.di with carry := List.replicate 16 otherEntry } }],
        s.serves)
    ∧ (ticketed (ticket true none)).ticketsOfMount vol = true ∧ mounted.sau.volume = some vol
    ∧ mounted.sau.openings.length = vol.n + 1 ∧ mounted.runActive = false ∧ mounted.runPaused = false
    ∧ mounted.tc.state = .unclamped ∧ mounted.lc.preview = none ∧ mounted.ticketsOfMount vol = false
    ∧ (List.replicate 15 otherEntry).length < 16
    ∧ List.replicate 16 otherEntry = otherEntry :: List.replicate 15 otherEntry
    ∧ (List.replicate 15 otherEntry).length = 15 ∧ (tcIn .clamped none).ticketsOfMount vol = false
    ∧ (tcIn .clamped none).tc.pendingDwell = false := by
  decide +kernel

/-- A forced one with a capture in each of its states; and the end of a dismount's raise. -/
theorem witness_DismountClosesTheAccount_forced :
    (∀ st ∈ [CaptureState.settle, .waitEdge, .expose, .collect],
        (exposing st true true).serves ∧ (exposing st true true).tc.state = .unclamped
        ∧ (exposing st true true).cc.tickets = [] ++ [ticket false none] ∧ (exposing st true true).cc.state ≠ .idle
        ∧ (exposing st true true).sau.openings.length = vol.n + 1 ∧ (exposing st true true).di.carry.length < 16)
    ∧ (ticket false none).closed = false ∧ (ticket false none).mountNo = vol.mountNo
    ∧ (raising (.dismount true) (turnOp 0)).quiet ∧ (raising (.dismount false) (turnOp 0)).runActive = false
    ∧ (raising (.dismount true) (turnOp 0)).sau.volume = some vol
    ∧ (raising (.dismount true) (turnOp 0)).sau.openings.length = vol.n + 1
    ∧ (raising (.dismount true) (turnOp 0)).tc.raiseGoal = some (.dismount true)
    ∧ (raising (.dismount true) (turnOp 0)).tc.recover = none
    ∧ (raising (.dismount true) (turnOp 0)).di.carry.length < 16 := by
  decide +kernel

theorem witness_TurnIsTestedInOrder :
    up.serves ∧ up.sau.volume = none ∧ mounted.serves ∧ mounted.sau.volume = some vol := by
  decide +kernel

/-- From UNCLAMPED over n = 1 and n = -4; from CLAMPED; and with the foldout leaf 7 first. -/
theorem witness_TurnBeginsItsFirstLeaf :
    mounted.serves ∧ mounted.sau.volume = some vol ∧ mounted.ticketOpen = false ∧ mounted.runOwnsTc = false
    ∧ mounted.runActive = false ∧ mounted.lc.preview = none ∧ vol.limits.turning = .auto
    ∧ (0 ≤ (mounted.tc.j : Int) + 6 ∧ (mounted.tc.j : Int) + 6 ≤ vol.n)
    ∧ (0 ≤ (mounted.tc.j : Int) + -4 ∧ (mounted.tc.j : Int) + -4 ≤ vol.n)
    ∧ mounted.tc.state = .unclamped ∧ vol.foldouts.contains (mounted.tc.j + 1) = false
    ∧ vol.foldouts.contains mounted.tc.j = false
    ∧ (tcIn .clamped none).serves ∧ (tcIn .clamped none).tc.state = .clamped
    ∧ ({ mounted with tc := { mounted.tc with j := 6 } } : State).serves ∧ mounted.tc.recover = none
    ∧ vol.foldouts.contains (6 + 1) = true := by
  decide +kernel

theorem witness_PlatenRequestsBegin :
    up.serves ∧ up.runActive = false ∧ up.lc.preview = none ∧ up.sau.volume = none
    ∧ (tcIn .clamped none).serves ∧ (tcIn .clamped none).sau.volume.isSome = true
    ∧ (tcIn .clamped none).tc.state ≠ .unclamped ∧ (tcIn .clamped none).ticketOpen = false
    ∧ mounted.serves ∧ mounted.tc.state = .unclamped ∧ mounted.ticketOpen = false ∧ mounted.tc.state ≠ .clamped := by
  decide +kernel

/-- A turn halted with its platen up, and one with its lowering due. -/
theorem witness_HaltAndResume :
    up.serves ∧ up.rc.state = .idle ∧ up.tc.state ≠ .halted
    ∧ (tcIn .halted (some (turnOp 1))).serves ∧ (tcIn .halted (some (turnOp 1))).rc.state = .idle
    ∧ (tcIn .halted (some (turnOp 1))).tc.state = .halted ∧ (tcIn .halted (some (turnOp 1))).sau.volume = some vol
    ∧ (tcIn .halted (some (turnOp 1))).tc.op = some (turnOp 1) ∧ 0 < (turnOp 1).remaining
    ∧ (tcIn .halted (some (turnOp 1))).pins.platenUp = true ∧ vol.foldouts.contains (4 + 1) = false
    ∧ ({ tcIn .halted (some (turnOp 0)) with
          tc := { (tcIn .halted (some (turnOp 0))).tc with loweringDue := true } } : State).serves
    ∧ (turnOp 0).remaining = 0 := by
  decide +kernel

theorem witness_DeclarePlacesTheOpening :
    up.serves ∧ up.sau.volume = none ∧ mounted.serves ∧ mounted.sau.volume = some vol
    ∧ lit.serves ∧ lit.lc.preview.isSome = true ∧ mounted.lc.preview = none := by
  decide +kernel

/-- The guard closed again after a stop from a state, with a turn's record. -/
def stopped (o : TcState) : State :=
  { tcIn .safeStop (some (turnOp 1)) with tc := { (tcIn .safeStop (some (turnOp 1))).tc with origin := some o } }

/-- Another state; the guard open; a leaf on the head; every origin of Table 2-7, with the UP switch made and not, the leaf in
hand on the head and off it, a fault pending and a dismount's raise; and ATTENTION with each switch open. -/
theorem witness_RecoverResolvesTheStop :
    (∀ s ∈ [mounted, withPins (fun p => { p with guardOpen := true }) (tcIn .safeStop none),
          withPins (fun p => { p with guardOpen := true }) (tcIn .attention none),
          withPins (fun p => { p with leafSensor := .one }) (tcIn .attention none),
          withPins (fun p => { p with leafSensor := .many }) (stopped .homing),
          withPins (fun p => { p with platenUp := false }) (stopped .raising),
          { stopped .raising with tc := { (stopped .raising).tc with faultPending := true } },
          withPins (fun p => { p with platenUp := false })
            { stopped .raising with tc := { (stopped .raising).tc with raiseGoal := some (.dismount true) } },
          { stopped .lifting with tc := { (stopped .lifting).tc with leafInHand := true } },
          withPins (fun p => { p with leafSensor := .one })
            { stopped .carrying with tc := { (stopped .carrying).tc with leafInHand := true } },
          tcIn .attention none, withPins (fun p => { p with platenUp := false }) (tcIn .attention none),
          withPins (fun p => { p with armPark := false }) (tcIn .attention none)],
        s.serves ∧ s.runActive = false ∧ s.tc.stopMark = false)
    ∧ mounted.tc.state ≠ .safeStop ∧ mounted.tc.state ≠ .attention
    ∧ (∀ o ∈ [TcState.unclamped, .clamped, .halted, .lowering, .raising, .attention, .seek, .lifting, .carrying, .releasing,
          .returning, .homing],
        (stopped o).serves ∧ (stopped o).runActive = false ∧ (stopped o).tc.state = .safeStop
        ∧ (stopped o).pins.guardOpen = false ∧ (stopped o).tc.stopMark = false ∧ (stopped o).tc.origin = some o
        ∧ (stopped o).pins.platenUp = true ∧ (stopped o).pins.leafSensor = .zero
        ∧ (stopped o).tc.faultPending = false ∧ (stopped o).tc.raiseGoal = none)
    ∧ (tcIn .attention none).pins.leafSensor = .zero ∧ (tcIn .attention none).sau.volume.isSome = true
    ∧ (tcIn .attention none).pins.platenUp = true ∧ (tcIn .attention none).pins.armPark = true := by
  decide +kernel

/-- A turn's lift at attempt `n` of a retry limit of 3. -/
def lifting (n : Nat) : State :=
  { tcIn .lifting (some (turnOp 3)) with tc := { (tcIn .lifting (some (turnOp 3))).tc with attempt := n } }

/-- An arm on its way back from an exhausted leaf. -/
def givenUp : State :=
  { tcIn .returning (some (turnOp 3)) with
    tc := { (tcIn .returning (some (turnOp 3))).tc with returnGoal := some .exhausted } }

/-- Attempt 3 under a retry limit of 3, the last that is retried; attempt 4, the exhausted one, and its return; and a state
outside LIFTING. -/
theorem witness_LeafReportsDecideTheAttempt :
    (lifting 3).quiet ∧ (lifting 3).tc.state = .lifting ∧ (lifting 3).tc.haltMark = false
    ∧ (lifting 3).sau.volume = some vol ∧ (lifting 3).tc.attempt ≤ vol.limits.retryLimit
    ∧ (lifting 4).quiet ∧ (lifting 4).tc.op = some (turnOp 3) ∧ (turnOp 3).kind = .turn ∧ (lifting 4).tc.attention = none
    ∧ vol.limits.retryLimit < (lifting 4).tc.attempt
    ∧ givenUp.quiet ∧ givenUp.tc.state = .returning ∧ givenUp.tc.returnGoal = some .exhausted
    ∧ givenUp.tc.resetStroke = false ∧ givenUp.tc.recover = none ∧ givenUp.tc.op = some (turnOp 3)
    ∧ givenUp.runActive = false
    ∧ mounted.quiet ∧ mounted.tc.state ≠ .lifting ∧ mounted.tc.state ≠ .attention := by
  decide +kernel

theorem witness_CarriesAndReleasesEnd :
    (tcIn .carrying (some (turnOp 3))).quiet ∧ (tcIn .carrying (some (turnOp 3))).tc.state = .carrying
    ∧ (tcIn .carrying (some (turnOp 3))).tc.op = some (turnOp 3)
    ∧ (tcIn .releasing (some (turnOp 3))).quiet ∧ (tcIn .releasing (some (turnOp 3))).tc.state = .releasing
    ∧ (tcIn .releasing (some (turnOp 3))).tc.recover = none
    ∧ mounted.quiet ∧ mounted.tc.state ≠ .carrying ∧ mounted.tc.state ≠ .releasing := by
  decide +kernel

/-- A turn's return with its remaining count and goal. -/
def parking (op : Op) : State :=
  { tcIn .returning (some op) with tc := { (tcIn .returning (some op)).tc with returnGoal := some .turn } }

/-- One leaf left; none left with clamp-after; none left, started from CLAMPED; and none left, started from UNCLAMPED. -/
theorem witness_ReturnsEndAtPark :
    (parking (turnOp 1)).quiet ∧ (parking (turnOp 1)).runActive = false ∧ (parking (turnOp 1)).tc.state = .returning
    ∧ (parking (turnOp 1)).tc.resetStroke = false ∧ (parking (turnOp 1)).tc.recover = none
    ∧ (parking (turnOp 1)).tc.returnGoal = some .turn ∧ (parking (turnOp 1)).tc.stopMark = false
    ∧ (parking (turnOp 1)).tc.haltMark = false ∧ (parking (turnOp 1)).sau.volume = some vol
    ∧ 0 < (turnOp 1).remaining ∧ vol.foldouts.contains (4 + 1) = false
    ∧ (parking { turnOp 0 with clampAfter := true }).quiet ∧ (parking { turnOp 0 with fromClamped := true }).quiet
    ∧ vol.limits.policy = .clamp ∧ (parking (turnOp 0)).quiet ∧ (turnOp 0).clampAfter = false
    ∧ (turnOp 0).fromClamped = false := by
  decide +kernel

/-- The arm's phase of a homing after start-up, for each cause, and at cold start; the platen's phase; and a frame being sent
with every kind unmasked. -/
theorem witness_ReturnsEndAtPark_homing :
    (∀ s ∈ [homing .arm up, homing .arm { mounted with tc := { mounted.tc with homeCause := .attention } },
          homing .arm { mounted with tc := { mounted.tc with homeCause := .attention, homeByRecover := true } },
          homing .arm { up with tc := { up.tc with homeCause := .warmReset } }, starting .homing (homing .arm up),
          homing .platen up, sending (homing .arm up), sending (starting .homing (homing .arm up))],
        (oneSwitch false s).quiet ∧ (oneSwitch false s).runActive = false ∧ (oneSwitch false s).tc.state = .homing)
    ∧ (homing .arm up).tc.homePhase = some .arm ∧ (homing .platen up).tc.homePhase ≠ some .arm
    ∧ (homing .arm up).start.phase = .done ∧ (starting .homing (homing .arm up)).start.phase ≠ .done
    ∧ up.set.noticeMask.getLsbD 2 = true ∧ up.set.noticeMask.getLsbD 3 = true ∧ (sending up).lk.sending.isSome = true := by
  decide +kernel

/-- The factory force target of 800: a lowering threshold of 760 and an overforce limit of 1200, each at its ends. -/
theorem witness_PlatenMovesEnd :
    ({ tcIn .raising none with tc := { (tcIn .raising none).tc with raiseGoal := some .unclamp } } : State).quiet
    ∧ ({ tcIn .raising (some (turnOp 3)) with
          tc := { (tcIn .raising (some (turnOp 3))).tc with raiseGoal := some .lift } } : State).quiet
    ∧ (tcIn .lowering none).quiet ∧ (tcIn .lowering none).runActive = false
    ∧ (tcIn .lowering none).tc.stopMark = false ∧ (tcIn .lowering none).tc.haltMark = false
    ∧ (tcIn .lowering none).tc.recover = none ∧ (tcIn .lowering none).sau.volume = some vol
    ∧ vol.limits.forceTarget - vol.limits.forceTarget / 20 ≤ 760
    ∧ 1200 ≤ min (3 * vol.limits.forceTarget / 2) 3600
    ∧ 759 < vol.limits.forceTarget - vol.limits.forceTarget / 20
    ∧ min (3 * vol.limits.forceTarget / 2) 3600 < 1201
    ∧ (withPins (fun p => { p with platenUp := false }) (tcIn .clamped none)).quiet
    ∧ (withPins (fun p => { p with platenUp := false }) (tcIn .clamped none)).ticketOpen = false
    ∧ (tcIn .clamped none).lc.preview = none ∧ (tcIn .clamped none).tc.attention = none := by
  decide +kernel

/-- A homing whose UP switch comes while the arm is at park and while it is not, at cold start and after it. -/
theorem witness_PlatenMovesEnd_homing :
    (∀ s ∈ [homing .platen up, starting .homing (homing .platen up), homing .arm up], ∀ b ∈ [false, true],
        (withPins (fun p => { p with platenUp := false, armPark := b }) s).quiet
        ∧ (withPins (fun p => { p with platenUp := false, armPark := b }) s).runActive = false
        ∧ (withPins (fun p => { p with platenUp := false, armPark := b }) s).tc.state = .homing
        ∧ (withPins (fun p => { p with platenUp := false, armPark := b }) s).pins.armPark = b)
    ∧ (homing .platen up).tc.homePhase = some .platen ∧ (homing .arm up).tc.homePhase ≠ some .platen := by
  decide +kernel

/-- A stroke of a turn in an ACTIVE run; and a capture in SETTLE, WAIT-EDGE and EXPOSE. -/
theorem witness_GuardStopsThePart :
    (withRun .active (tcIn .carrying (some (turnOp 2)))).quiet
    ∧ (withRun .active (tcIn .carrying (some (turnOp 2)))).starting = false
    ∧ (withRun .active (tcIn .carrying (some (turnOp 2)))).pins.guardOpen = false
    ∧ (withRun .active (tcIn .carrying (some (turnOp 2)))).tc.state ≠ .safeStop
    ∧ (tcIn .carrying (some (turnOp 2))).tc.resetStroke = false ∧ (tcIn .carrying (some (turnOp 2))).tc.recover = none
    ∧ (∀ st ∈ [CaptureState.settle, .waitEdge, .expose],
        (exposing st false false).quiet ∧ (exposing st false false).starting = false
        ∧ (exposing st false false).pins.guardOpen = false ∧ (exposing st false false).tc.state ≠ .safeStop
        ∧ (exposing st false false).tc.resetStroke = false ∧ (exposing st false false).tc.recover = none
        ∧ (exposing st false false).cc.tickets = [] ++ [ticket false none])
    ∧ (ticket false none).closed = false ∧ mounted.quiet ∧ mounted.starting = false
    ∧ (tcIn .safeStop none).quiet ∧ (tcIn .safeStop none).starting = false := by
  decide +kernel

/-- The guard opening in each phase of start-up; its closing in the guard wait, with both switches made and with one; and a
closing that changes the pin alone. -/
theorem witness_GuardStopsThePart_starting :
    (∀ p ∈ [StartPhase.detecting, .guardWait, .homing], ∀ g ∈ [false, true],
        (withPins (fun q => { q with guardOpen := g }) (starting p (homing .arm up))).quiet
        ∧ (withPins (fun q => { q with guardOpen := g }) (starting p (homing .arm up))).starting = true
        ∧ (withPins (fun q => { q with guardOpen := g }) (starting p (homing .arm up))).pins.guardOpen = g
        ∧ (starting p (homing .arm up)).tc.state = .homing ∧ (starting p (homing .arm up)).start.phase = p)
    ∧ up.pins.platenUp = true ∧ up.pins.armPark = true
    ∧ (∀ b ∈ [false, true], (oneSwitch b (withPins (fun q => { q with guardOpen := true })
        (starting .guardWait (homing .arm up)))).quiet)
    ∧ up.set.noticeMask.getLsbD 0 = true := by
  decide +kernel

/-- The dwell timer of the mounted volume started at 1,000 ms. -/
def dwelling (st : TcState) (k : List Ticket) : State :=
  { tcIn st (some (turnOp 2)) with
    tc := { (tcIn st (some (turnOp 2))).tc with dwellStart := some 1000 }, cc := { up.cc with tickets := k } }

/-- Each phase at its limit, in the last microsecond of the millisecond in which it ends; a homing; and a dwell at its limit
with a ticket OPEN, without, and in HALTED. -/
theorem witness_MotionAndDwellLimits :
    (∀ p ∈ [(TcState.lifting, 2000), (.carrying, 3000), (.releasing, 1500), (.returning, 2000), (.raising, 1500),
          (.lowering, 2000)],
        (atNow (2000000 + p.2 * 1000 + 999) (tcIn p.1 (some (turnOp 2)))).quiet
        ∧ (tcIn p.1 (some (turnOp 2))).runActive = false ∧ (tcIn p.1 (some (turnOp 2))).tc.op = some (turnOp 2)
        ∧ (tcIn p.1 (some (turnOp 2))).tc.resetStroke = false ∧ (tcIn p.1 (some (turnOp 2))).tc.attention = none
        ∧ (tcIn p.1 (some (turnOp 2))).tc.phaseStart = 2000000
        ∧ (atNow (2000000 + p.2 * 1000 + 999) (tcIn p.1 (some (turnOp 2)))).endsNow (2000000 + p.2 * 1000))
    ∧ (atNow 5000000 { tcIn .homing none with tc := { (tcIn .homing none).tc with homePhase := some .arm } }).quiet
    ∧ (tcIn .homing none).runActive = false
    ∧ (∀ part ∈ [HomePart.platen, .arm], ∀ s ∈ [homing part up, starting .homing (homing part up)],
        (atNow 5000999 s).quiet ∧ s.runActive = false ∧ s.tc.state = .homing ∧ s.tc.homePhase = some part
        ∧ (atNow 5000999 s).endsNow (s.tc.phaseStart + 3000000))
    ∧ (atNow 5000000 (tcIn .homing none)).endsNow ((tcIn .homing none).tc.phaseStart + 3000000)
    ∧ (∀ s ∈ [dwelling .clamped [], dwelling .clamped [ticket false none], dwelling .halted []],
        (atNow 121000000 s).quiet ∧ s.sau.volume = some vol ∧ s.tc.dwellStart = some 1000
        ∧ (atNow 121000000 s).endsNow ((1000 + vol.limits.dwellLimit * 1000) * 1000)
        ∧ s.tc.pendingDwell = false ∧ s.lc.preview = none)
    ∧ (dwelling .clamped [ticket false none]).ticketOpen = true ∧ (dwelling .clamped []).ticketOpen = false := by
  decide +kernel

/-- No volume; profile 4; a run; a preview LIT; and every test passed, with a FIXED and a HELD-LUX profile of one bank at level
1. -/
theorem witness_PreviewsLightAndEnd :
    up.serves ∧ up.sau.volume = none ∧ mounted.serves ∧ mounted.sau.volume.isSome = true ∧ (3 : Nat) < 4
    ∧ (withRun .active mounted).serves ∧ (withRun .active mounted).runActive = true
    ∧ (tcIn .seek none).serves ∧ (tcIn .seek none).settled = false
    ∧ lit.serves ∧ lit.runActive = false ∧ lit.settled = true ∧ lit.lc.preview.isSome = true := by
  decide +kernel

/-- A profile of one bank at level 1. -/
def dim (m : LampMode) : Profile :=
  { Profile.factory with mode := m, enabled := ⟨true, false, false, false⟩, levels := ⟨1, 0, 0, 0⟩, target := 1 }

/-- The mounted volume with that profile at index 3. -/
def dimmed (m : LampMode) : State :=
  { mounted with
    set := { mounted.set with profiles := mounted.set.profiles.set 3 (dim m) }
    lc := { mounted.lc with learned := mounted.lc.learned.set 3 (dim m).levels } }

theorem witness_PreviewsLightAndEnd_lit :
    (dimmed .fixed).serves ∧ dim .fixed = profileAt (dimmed .fixed).set.profiles 3
    ∧ (dimmed .fixed).runActive = false ∧ (dimmed .fixed).settled = true ∧ (dimmed .fixed).ticketOpen = false
    ∧ (dimmed .fixed).lc.preview = none ∧ (dimmed .fixed).cc.sync.state.admits = true
    ∧ (dimmed .fixed).anyUsable (dim .fixed) = true ∧ (dimmed .fixed).di.sensorDark = false
    ∧ (dimmed .fixed).doseRefusal (dim .fixed) (max 1 (min 30 31) * 1000) = none
    ∧ (dimmed .fixed).doseRefusal (dim .fixed) (max 1 (min 30 0) * 1000) = none
    ∧ (dimmed .heldLux).serves ∧ dim .heldLux = profileAt (dimmed .heldLux).set.profiles 3
    ∧ (dimmed .heldLux).anyUsable (dim .heldLux) = true
    ∧ (dimmed .heldLux).doseRefusal (dim .heldLux) (max 1 (min 30 31) * 1000) = none := by
  decide +kernel

theorem witness_PreviewExpires :
    (atNow 3000000 lit).quiet ∧ (atNow 3000000 lit).lc.preview = some { profile := 0, start := 2000, finish := 3000 }
    ∧ 3000 ≤ (atNow 3000000 lit).now / 1000 := by
  decide +kernel

/-- UP at 99, DOWN at 0 and SET above 99 set the flag. -/
theorem witness_ProfileLevelStepsOneBank :
    up.serves ∧ (3 : Nat) < 4 ∧ (3 : Nat) ≤ 3
    ∧ ((51, false) : Nat × Bool) = (min 99 ((profileAt up.set.profiles 3).levels.get .la + 1),
        decide (99 ≤ (profileAt up.set.profiles 3).levels.get .la))
    ∧ ((49, false) : Nat × Bool) = ((profileAt up.set.profiles 3).levels.get .la - 1,
        decide ((profileAt up.set.profiles 3).levels.get .la = 0))
    ∧ ((99, true) : Nat × Bool) = (min 99 100, decide (99 < 100)) := by
  decide +kernel

/-- The preview with LA the one lit bank. -/
def lastLit : State :=
  { lit with lc := { lit.lc with banks := ⟨litBank, BankRec.cold, BankRec.cold, BankRec.cold⟩ } }

/-- A dark bank, and a lit one 315 of the 625 µs of its frame on; one 314 µs on, with another lit; and the last lit bank of a
preview. -/
theorem witness_BanksFaultAndAreCleared :
    up.quiet ∧ up.bankOn .la = false ∧ (atNow 2000816 lit).quiet ∧ (atNow 2000816 lit).bankOn .la = false
    ∧ (atNow 2000815 lit).quiet ∧ (atNow 2000815 lit).bankOn .la = true
    ∧ LampBank.lb ≠ LampBank.la ∧ (lit.lc.banks.get .lb).lit = true
    ∧ lastLit.quiet ∧ lastLit.bankOn .la = true ∧ (lastLit.lc.banks.get .lb).lit = false
    ∧ (lastLit.lc.banks.get .ra).lit = false ∧ (lastLit.lc.banks.get .rb).lit = false
    ∧ lastLit.lc.preview.isSome = true ∧ (lastLit.lc.window.map Window.kind) = some .preview ∧ up.serves := by
  decide +kernel

/-- A regulated window of a preview, its next comparison due. -/
def regulated : Window :=
  { kind := .preview, profile := 0, mode := .heldLux, target := 2000, interval := 4, hold := true
    nextCompare := some 2004000, held := false, startLevels := none }

theorem witness_RegulationStepsLitBanks :
    (atNow 2004999 { lit with lc := { lit.lc with window := some regulated } }).quiet
    ∧ regulated.nextCompare = some 2004000 ∧ regulated.held = false
    ∧ (atNow 2004999 { lit with lc := { lit.lc with window := some regulated } }).anyLit = true
    ∧ (atNow 2004999 lit).endsNow 2004000 ∧ (lit.lc.banks.get .la).lit = true
    ∧ lit.lc.frameEdge.getD 0 ≤ (2004999 : Nat) := by
  decide +kernel

/-- The lamps of a capture window lit, in a state of CC. -/
def shining (st : CaptureState) : State :=
  { exposing st false false with lc := { lit.lc with
      preview := none
      window := some { kind := .capture, profile := 0, mode := .fixed, target := 2000, interval := 4, hold := true
                       nextCompare := none, held := false, startLevels := none } } }

/-- No bank lit; a reading that completes no unit; one that completes some, the day dose staying one below the warning level;
a tenth reading of 4095, and a fiftieth of 0 in a preview and in each state of a capture. -/
theorem witness_SensorReadingsAreTaken :
    up.quiet ∧ up.starting = false ∧ up.di.lastRead ≠ some (up.now / 1000) ∧ up.anyLit = false
    ∧ lit.quiet ∧ lit.starting = false ∧ lit.di.lastRead ≠ some (lit.now / 1000) ∧ lit.anyLit = true
    ∧ lit.sau.volume = some vol
    ∧ (0 = (lit.di.remainder + 1 * lit.set.k / 64) / 1000)
    ∧ (1 = (({ lit.di with remainder := 999 } : Di).remainder + 4 * lit.set.k / 64) / 1000)
    ∧ (min 4294967295 (1574998 + 1) < vol.limits.dayBudget * 7 / 8)
    ∧ ({ lit with di := { lit.di with satCount := 9 } } : State).quiet
    ∧ lit.di.dayDose + (lit.di.remainder + 4095 * lit.set.k / 64) / 1000 < vol.limits.dayBudget * 7 / 8
    ∧ ({ lit with di := { lit.di with darkCount := 49 } } : State).quiet ∧ lit.di.remainder < 1000
    ∧ lit.runActive = false ∧ lit.tc.pendingOverforce = false ∧ lit.tc.pendingDwell = false
    ∧ lit.lc.preview.isSome = true ∧ lit.cc.state = .idle
    ∧ (∀ st ∈ [CaptureState.settle, .waitEdge, .expose],
        (shining st).quiet ∧ (shining st).starting = false ∧ (shining st).di.lastRead ≠ some ((shining st).now / 1000)
        ∧ (shining st).anyLit = true ∧ (shining st).di.remainder < 1000 ∧ (shining st).runActive = false
        ∧ (shining st).lc.preview = none ∧ (shining st).cc.tickets = [] ++ [ticket false none]) := by
  decide +kernel

/-- The whole second 2 of the elapsed clock, its reading made, E at 1000 lux. -/
def atSecond (s : State) (dose : Nat) : State :=
  { s with now := 2000000, di := { s.di with lux := 1000, dayDose := dose, lastRead := some 2000 } }

/-- No volume mounted; a class that does not ask for the charge; the dose one below the warning level. -/
theorem witness_AmbientLightIsCharged :
    (atSecond up 0).quiet ∧ (atSecond up 0).di.lastRead = some ((atSecond up 0).now / 1000)
    ∧ ((atSecond up 0).now / 1000) % 1000 = 0
    ∧ (atSecond up 0).di.lastAmbient ≠ some ((atSecond up 0).now / 1000 / 1000) ∧ (atSecond up 0).anyLit = false
    ∧ (atSecond up 0).sau.volume = none
    ∧ ({ atSecond up 0 with sau := { mounted.sau with
          volume := some { vol with limits := { vol.limits with ambient := false } } } } : State).quiet
    ∧ (atSecond mounted 1573999).quiet ∧ (atSecond mounted 1573999).anyLit = false
    ∧ (atSecond mounted 1573999).sau.volume = some vol ∧ vol.limits.ambient = true
    ∧ (atSecond mounted 1573999).di.lux ≠ 0 ∧ (atSecond mounted 1573999).starting = false
    ∧ min 4294967295 ((atSecond mounted 1573999).di.dayDose + (atSecond mounted 1573999).di.lux)
      < vol.limits.dayBudget * 7 / 8 := by
  decide +kernel

/-- A day dose. -/
def dosed (dose : Nat) (s : State) : State :=
  { s with di := { s.di with dayDose := dose, remainder := 999 } }

/-- Room light that takes the dose to the warning level and to the budget; and a lit sample of one unit that does, in a preview
and in each state of a capture. -/
theorem witness_AmbientLightIsCharged_reached :
    (atSecond mounted 1574000).quiet ∧ (atSecond mounted 1574000).starting = false
    ∧ vol.limits.dayBudget * 7 / 8 ≤ min 4294967295 (1574000 + (atSecond mounted 1574000).di.lux)
    ∧ min 4294967295 (1574000 + (atSecond mounted 1574000).di.lux) < vol.limits.dayBudget
    ∧ (atSecond mounted 1574000).di.warned = false
    ∧ (atSecond mounted 1799000).quiet ∧ (atSecond mounted 1799000).di.exhausted = false
    ∧ (atSecond mounted 1799000).runActive = false ∧ (atSecond mounted 1799000).tc.pendingOverforce = false
    ∧ (atSecond mounted 1799000).tc.pendingDwell = false ∧ (atSecond mounted 1799000).cc.state = .idle
    ∧ (atSecond mounted 1799000).captureWindow = false
    ∧ vol.limits.dayBudget ≤ min 4294967295 (1799000 + (atSecond mounted 1799000).di.lux)
    ∧ (dosed 1574999 lit).quiet ∧ (4 : Nat) ≠ 0 ∧ (4 : Nat) ≠ 4095
    ∧ 1 = ((dosed 1574999 lit).di.remainder + 4 * (dosed 1574999 lit).set.k / 64) / 1000
    ∧ vol.limits.dayBudget * 7 / 8 ≤ min 4294967295 (1574999 + 1) ∧ (dosed 1574999 lit).anyLit = true
    ∧ (dosed 1574999 lit).di.lastRead ≠ some ((dosed 1574999 lit).now / 1000)
    ∧ vol.limits.dayBudget ≤ min 4294967295 (1799999 + 1)
    ∧ (∀ st ∈ [CaptureState.settle, .waitEdge, .expose],
        (dosed 1799999 (shining st)).quiet ∧ (dosed 1799999 (shining st)).starting = false
        ∧ (dosed 1799999 (shining st)).sau.volume = some vol ∧ (dosed 1799999 (shining st)).di.exhausted = false
        ∧ (dosed 1799999 (shining st)).anyLit = true ∧ (dosed 1799999 (shining st)).captureWindow = true
        ∧ (dosed 1799999 (shining st)).lc.preview = none
        ∧ (dosed 1799999 (shining st)).cc.tickets = [] ++ [ticket false none]) := by
  decide +kernel

/-- The alarm reached, with a volume and with none; a DAY MARK under the lock and without. -/
theorem witness_RolloversStartANewDay :
    ({ mounted with di := { mounted.di with alarm := 2000 } } : State).quiet ∧ 2000 ≤ mounted.now / 1000
    ∧ mounted.sau.volume.isSome = true ∧ ({ up with di := { up.di with alarm := 2000 } } : State).quiet
    ∧ up.sau.volume = none ∧ mounted.serves ∧ mounted.pins.lockEngaged = false ∧ up.serves
    ∧ (withPins (fun p => { p with lockEngaged := true }) up).serves
    ∧ (withPins (fun p => { p with lockEngaged := true }) up).pins.lockEngaged = true := by
  decide +kernel

/-- The part with one entry in the carry table. -/
def carried : State :=
  { up with di := { up.di with carry := [{ mark := mark, dose := 4200, time := 5, cls := 0 }] } }

theorem witness_CarryReadReturnsAnEntry :
    up.serves ∧ (15 : Nat) < 16 ∧ (15 : Nat) ≤ 15 ∧ up.di.carry.length ≤ 0
    ∧ carried.serves ∧ carried.di.carry.length ≤ 1
    ∧ carried.di.carry[0]? = some { mark := mark, dose := 4200, time := 5, cls := 0 } := by
  decide +kernel

theorem witness_CarryDropRemovesAnEntry :
    (withPins (fun p => { p with lockEngaged := true }) up).serves ∧ carried.serves
    ∧ carried.pins.lockEngaged = false ∧ shelfMark? [] = none ∧ shelfMark? mountFields.raw = some mark
    ∧ (∀ e ∈ up.di.carry, e.mark ≠ mark)
    ∧ (carried.di.carry.find? fun e => e.mark == mark) = some { mark := mark, dose := 4200, time := 5, cls := 0 } := by
  decide +kernel

theorem witness_ProfilesAreWrittenAndRead :
    up.serves ∧ (3 : Nat) < 4 ∧ { profileFields with exposure := 0 }.exposure < 1
    ∧ 2000 < { profileFields with exposure := 2001 }.exposure ∧ 15 < { profileFields with enable := 16 }.enable
    ∧ 1 ≤ profileFields.exposure ∧ profileFields.exposure ≤ 2000 ∧ profileFields.enable ≤ 15
    ∧ profileFields.mode = some .fixed ∧ profileFields.hold = some true ∧ profileFields.selection = some .auto := by
  decide +kernel

/-- The mounted volume CLAMPED, its platen down. -/
def clamped : State :=
  withPins (fun p => { p with platenUp := false }) (tcIn .clamped none)

/-- The class record of the mounted volume changed. -/
def classed (f : ClassRec → ClassRec) (s : State) : State :=
  { s with sau := { s.sau with volume := some { vol with limits := f vol.limits } } }

/-- One faulted bank and another. -/
def faulted : BankRec := { BankRec.cold with faulted := true, kind := some .bankOpen }

/-- CLAMPED with both sides of opening 4 in given states. -/
def clampedAt (l r : SideState) : State :=
  { clamped with sau := (heldAt l r).sau }

/-- Each refusal of Table 5-6 under a rule that meets it, the tests before it passed. -/
theorem witness_CaptureOpensATicket_refused :
    up.serves ∧ up.sau.volume = none ∧ clamped.sau.volume = some vol
    ∧ ∀ p ∈ [(withRun .active clamped, SideSelection.auto, Result.state), (tcIn .seek none, .left, .state),
          (mounted, .both, .state),
          ({ clamped with cc := { up.cc with tickets := [ticket false none] } }, .auto, .busy),
          ({ clamped with cc := { up.cc with sync := { up.cc.sync with state := .detecting } } }, .auto, .noSync),
          ({ clamped with cc := { up.cc with sync := { up.cc.sync with state := .manualExternalLost } } }, .auto, .noSync),
          (withPins (fun p => { p with readyA := false }) clamped, .left, .camera),
          (withPins (fun p => { p with readyB := false }) clamped, .right, .camera),
          ({ clamped with lc := { up.lc with banks := ⟨faulted, faulted, faulted, faulted⟩ } }, .auto, .lamp),
          ({ clamped with di := { up.di with sensorDark := true } }, .auto, .sensor),
          (clampedAt .held .accepted, .auto, .nothing), (clampedAt .held .accepted, .left, .held),
          (clampedAt .pending .held, .both, .held),
          ({ clamped with cc := { up.cc with tickets := List.replicate 32 (ticket true none) } }, .auto, .ringFull),
          (dosed 1800000 clamped, .auto, .doseVolume),
          (classed (fun c => { c with openingLimit := 1 }) clamped, .auto, .doseOpening)],
        p.1.serves ∧ p.1.sau.volume.isSome = true
        ∧ p.1.captureRefusal 3 (some p.2.1) (p.1.select p.2.1) true = some p.2.2 := by
  decide +kernel

/-- Every test passed, under each rule: 31 tickets in the ring, a preview lit, the platen of policy FREE, the last serial, and
a bank faulted. -/
theorem witness_CaptureOpensATicket :
    ∀ p ∈ [(clamped, SideSelection.auto), (clamped, .left), (clampedAt .held .retake, .right), (clamped, .both),
          ({ clamped with cc := { up.cc with tickets := List.replicate 31 (ticket true none), nextSerial := 4294967295 } },
            .auto),
          ({ clamped with lc := lit.lc }, .auto), (classed (fun c => { c with policy := .free }) mounted, .auto),
          ({ clamped with lc := { up.lc with banks := ⟨faulted, BankRec.cold, BankRec.cold, BankRec.cold⟩ } }, .auto)],
        p.1.serves ∧ p.1.sau.volume.isSome = true ∧ p.1.captureWindow = false
        ∧ p.1.captureRefusal 3 (some p.2) (p.1.select p.2) true = none := by
  decide +kernel

/-- A generator that runs and one that does not, from each state SYNC SELECT treats apart. -/
theorem witness_SyncRequestsMoveTheSelector :
    up.cc.sync.state = .internal
    ∧ (∀ st ∈ [SyncState.external, .manualExternal, .detecting],
        (synced st 1981399 0).serves ∧ (synced st 1981399 0).ticketOpen = false ∧ (synced st 1981399 0).lc.preview = none
        ∧ (synced st 1981399 0).cc.sync.gen = none ∧ (synced st 1981399 0).cc.state = .idle)
    ∧ up.serves ∧ lit.serves ∧ lit.lc.preview.isSome = true ∧ up.ticketOpen = false ∧ up.lc.preview = none
    ∧ up.cc.sync.gen = some 2000500 := by
  decide +kernel

/-- A capture's state, with an external source two periods after its last edge at the end of this millisecond. -/
def losing (st : CaptureState) (y : SyncState) : State :=
  { exposing st false false with cc := { (exposing st false false).cc with sync := (synced y 1960999 0).cc.sync } }

/-- An external edge: delivered, ignored, measured at either end of the good band, and the tenth good one. -/
theorem witness_SyncEdgesAndLosses_edges :
    up.endsNow (up.now + 499)
    ∧ (∀ st ∈ [SyncState.external, .manualExternal, .internal, .manualInternal, .detecting, .manualExternalLost],
        (synced st 1981399 9).quiet ∧ (synced st 1981399 9).cc.state = .idle ∧ (synced st 1981399 9).cc.sync.state = st
        ∧ (synced st 1981399 9).cc.sync.lastExt = some 1981399)
    ∧ 98000000 ≤ (2000999 - 1981399) * up.set.syncRate * 100 ∧ (2000999 - 1980599) * up.set.syncRate * 100 ≤ 102000000
    ∧ (synced .manualExternalLost 1981399 9).cc.sync.goodCount = 9 := by
  decide +kernel

/-- A watch that ends in this millisecond. -/
def watching (found : Bool) : State :=
  { synced .detecting 1981399 9 with cc := { (synced .detecting 1981399 9).cc with
      sync := { (synced .detecting 1981399 9).cc.sync with found := found, watchEnd := 2000999 } } }

/-- The end of the watch of cold start, with the guard open and closed, and each of the switches made or open. -/
theorem witness_SyncEdgesAndLosses_starting :
    (∀ b ∈ [false, true], ∀ g ∈ [false, true],
        (withPins (fun q => { q with guardOpen := g }) (starting .detecting (homing .platen (watching b)))).quiet)
    ∧ (∀ b ∈ [false, true], (oneSwitch b (starting .detecting (homing .platen (watching b)))).quiet)
    ∧ (starting .detecting (watching true)).start.phase = .detecting ∧ (watching true).cc.sync.state = .detecting
    ∧ (watching true).cc.state = .idle ∧ (watching true).endsNow (watching true).cc.sync.watchEnd := by
  decide +kernel

/-- The generator's edge; a loss with no capture, one in progress and one that waits for its edge; and the end of a watch. -/
theorem witness_SyncEdgesAndLosses :
    ticking.quiet ∧ ticking.cc.state = .idle ∧ ticking.cc.sync.gen = some 1980999
    ∧ ticking.endsNow (1980999 + (1000000 + ticking.set.syncRate / 2) / ticking.set.syncRate)
    ∧ (∀ st ∈ [CaptureState.idle, .expose, .collect, .waitEdge], ∀ y ∈ [SyncState.external, .manualExternal],
        (losing st y).quiet ∧ (losing st y).cc.state = st ∧ (losing st y).cc.sync.state = y
        ∧ (losing st y).cc.sync.lastExt = some 1960999
        ∧ (losing st y).endsNow (1960999 + (2000000 + (losing st y).set.syncRate / 2) / (losing st y).set.syncRate)
        ∧ (losing st y).openTicket? = some (ticket false none))
    ∧ (ticket false none).mode = .fixed
    ∧ (∀ b ∈ [false, true], (watching b).quiet)
    ∧ (synced .detecting 1981399 9).starting = false ∧ up.endsNow 2000999 := by
  decide +kernel

/-- A capture in SETTLE with no edge at the end of its settle; one waiting for an edge. -/
theorem witness_SettleTriggerAndLampsOff :
    (atNow 2010999 (exposing .settle false false)).quiet
    ∧ (atNow 2010999 (exposing .settle false false)).openTicket? = some (ticket false none)
    ∧ (atNow 2010999 (exposing .settle false false)).cc.sync.delivered ≠ some (max 2010999 (1990000 + 20 * 1000))
    ∧ (atNow 2010999 (exposing .settle false false)).endsNow
      ((exposing .settle false false).cc.openedAt + (ticket false none).settle * 1000)
    ∧ (atNow 2020500 (exposing .waitEdge false false)).quiet ∧ (ticket false none).mode = .fixed
    ∧ (exposing .waitEdge false false).cc.sync.gen = some 2000500
    ∧ (atNow 2020500 (exposing .waitEdge false false)).endsNow (2000500 + (1000000 + up.set.syncRate / 2) / up.set.syncRate) := by
  decide +kernel

/-- The exposure of camera A: elapsed and not yet, its line raised and not. -/
theorem witness_SettleTriggerAndLampsOff_expose :
    (exposing .expose true true).quiet ∧ (exposing .expose false true).quiet ∧ (exposing .expose true false).quiet
    ∧ (exposing .expose true true).openTicket? = some (ticket false none) ∧ (ticket false none).left.isSome = true
    ∧ ((ticket false none).left.map Half.result) = some none ∧ (exposing .expose true true).cc.state = .expose
    ∧ (exposing .expose true true).cc.triggeredAt = some 2000000
    ∧ (exposing .expose true true).cc.camA.triggered = true ∧ (exposing .expose true true).cc.camA.done = false
    ∧ (exposing .expose true true).cc.camA.stored = false ∧ (exposing .expose true true).cc.camB.triggered = false
    ∧ (exposing .expose true true).cc.limitPassed = false ∧ (exposing .expose true true).cc.elapsed = true
    ∧ (exposing .expose true true).cc.camA.raised = true ∧ (exposing .expose false true).cc.elapsed = false
    ∧ (atNow 2100000 (exposing .expose false true)).endsNow (2000000 + 100 * 1000)
    ∧ (atNow 2600000 (exposing .expose true true)).endsNow (2000000 + (100 + 500) * 1000)
    ∧ (atNow 2105999 (exposing .expose true false)).endsNow (2000000 + (100 + 5) * 1000) := by
  decide +kernel

theorem witness_FramesCloseTheTicket :
    (exposing .collect true true).quiet ∧ (exposing .collect true true).cc.tickets = [] ++ [ticket false none]
    ∧ (ticket false none).closed = false
    ∧ (ticket false none).left = some { side := 8, result := none, superseded := false }
    ∧ (ticket false none).right = none ∧ (exposing .collect true true).cc.state = .collect
    ∧ (exposing .collect true true).cc.triggeredAt = some 2000000
    ∧ (exposing .collect true true).cc.camA.triggered = true ∧ (exposing .collect true true).cc.camA.stored = false
    ∧ (exposing .collect true true).cc.camB.triggered = false ∧ (exposing .collect true true).cc.limitPassed = false
    ∧ (exposing .collect true true).tc.pendingDwell = false ∧ (exposing .collect true true).tc.pendingOverforce = false
    ∧ (exposing .collect true true).runActive = false ∧ (exposing .collect true true).rc.ticket = none
    ∧ (atNow 2600000 (exposing .collect true true)).endsNow (2000000 + ((ticket false none).exposure + 500) * 1000) := by
  decide +kernel

/-- A serial the ring does not hold; a ticket OPEN; one CLOSED and read before; and one CLOSED and unread. -/
theorem witness_TicketsAreRead :
    up.serves ∧ (∀ k ∈ up.cc.tickets, k.serial ≠ 1) ∧ (∀ k ∈ up.cc.tickets, k.closed = false ∨ k.read = true)
    ∧ (∀ k ∈ [ticket false none, { ticket true none with read := true }],
        (ticketed k).serves ∧ (ticketed k).cc.tickets = [k] ∧ k.serial ≠ 0 ∧ (k.closed = false ∨ k.read = true)
        ∧ ∀ x ∈ (ticketed k).cc.tickets, x.serial = k.serial → x = k)
    ∧ (ticketed (ticket true none)).serves ∧ (ticket true none).closed = true ∧ (ticket true none).read = false
    ∧ 1 ≤ (ticketed (ticket true none)).set.backlogThreshold := by
  decide +kernel

/-- Counts 0 and 33, and 32; an empty ring; the oldest OPEN; the oldest CLOSED, its side HELD. -/
theorem witness_ReleasesApplyTheVerdicts :
    up.serves ∧ (32 : Nat) < 33 ∧ ¬ ((32 : Nat) = 0 ∨ 32 < 32) ∧ up.rc.state ≠ .paused .tickets
    ∧ up.rc.state = .idle ∧ up.cc.tickets = []
    ∧ (ticketed (ticket false none)).serves ∧ (ticketed (ticket false none)).cc.tickets = [ticket false none]
    ∧ (ticketed (ticket true (some .stored))).serves
    ∧ (ticketed (ticket true (some .stored))).rc.state = .idle
    ∧ (ticketed (ticket true (some .stored))).cc.tickets = [ticket true (some .stored)]
    ∧ (ticket true (some .stored)).closed = true ∧ (ticketed (ticket true (some .stored))).sau.volume = some vol
    ∧ (ticket true (some .stored)).mountNo = vol.mountNo ∧ (ticket true (some .stored)).orphaned = false
    ∧ (ticket true (some .stored)).left = some { side := 8, result := some .stored, superseded := false }
    ∧ (ticket true (some .stored)).right = none := by
  decide +kernel

theorem witness_BacklogIsSetAndAges :
    up.serves ∧ (atNow 32000000 (ticketed (ticket true none))).quiet
    ∧ (ticketed (ticket true none)).cc.backlog = false
    ∧ (ticketed (ticket true none)).cc.tickets = [ticket true none] ∧ (ticket true none).closed = true
    ∧ (ticket true none).read = false ∧ (ticket true none).closeTime = some 2000
    ∧ 2000 + up.set.backlogTimeout * 1000 ≤ (atNow 32000000 (ticketed (ticket true none))).now / 1000 := by
  decide +kernel

/-- The mounted volume with opening 4 done. -/
def doneHere : State :=
  { mounted with sau := { mounted.sau with openings := mounted.sau.openings.set 4 ⟨.accepted, .blank, 0⟩ } }

/-- No volume; a ticket OPEN; and the last opening 4 done. -/
theorem witness_RunsStartAndEnd :
    up.serves ∧ up.sau.volume = none
    ∧ (ticketed (ticket false none)).serves ∧ (ticketed (ticket false none)).ticketOpen = true
    ∧ (ticketed (ticket false none)).settled = true
    ∧ doneHere.serves ∧ doneHere.sau.volume = some vol ∧ doneHere.runActive = false ∧ doneHere.runPaused = false
    ∧ doneHere.settled = true ∧ doneHere.ticketOpen = false ∧ ¬ (4 < doneHere.tc.j ∨ vol.n < 4 ∨ 3 < 3)
    ∧ (openingAt doneHere.sau.openings doneHere.tc.j).left = .accepted
    ∧ (openingAt doneHere.sau.openings doneHere.tc.j).right = .blank := by
  decide +kernel

/-- Opening 4 PENDING under policy CLAMP; a run PAUSED; and none. -/
theorem witness_RunsStartAndEnd_others :
    mounted.serves ∧ mounted.sau.volume = some vol ∧ mounted.runActive = false ∧ mounted.runPaused = false
    ∧ mounted.settled = true ∧ mounted.ticketOpen = false
    ∧ ¬ (10 < mounted.tc.j ∨ vol.n < 10 ∨ 3 < 0)
    ∧ (openingAt mounted.sau.openings mounted.tc.j).left = .pending ∧ mounted.tc.state = .unclamped
    ∧ vol.limits.policy = .clamp ∧ mounted.lc.preview = none
    ∧ up.rc.state = .idle ∧ (withRun (.paused .lamp) mounted).serves
    ∧ (withRun (.paused .lamp) mounted).runPaused = true ∧ (withRun (.paused .lamp) mounted).tc.op = none := by
  decide +kernel

/-- The rule of the profile that a run's capture takes. -/
def ruled (r : SideSelection) (s : State) : State :=
  { s with set := { s.set with profiles := List.replicate 4 { Profile.factory with selection := r } } }

/-- RC's CAPTURE: accepted under both policies, and each outcome of Table 7-3 at the run's last opening. -/
theorem witness_RunsStartAndEnd_capture :
    (∀ s ∈ [clamped, classed (fun c => { c with policy := .free }) mounted],
        s.serves ∧ s.runActive = false ∧ s.runPaused = false ∧ s.settled = true ∧ s.ticketOpen = false
        ∧ (openingAt s.sau.openings s.tc.j).left = .pending
        ∧ s.captureRefusal 0 (some .auto) (s.select .auto) false = none)
    ∧ (∀ p ∈ [(dosed 1800000 clamped, SideSelection.auto, Result.doseVolume),
          ({ clamped with cc := { up.cc with tickets := List.replicate 32 (ticket true none) } }, .auto, .ringFull),
          (ruled .both (clampedAt .pending .held), .both, .held),
          ({ clamped with cc := { up.cc with sync := { up.cc.sync with state := .detecting } } }, .auto, .noSync),
          (withPins (fun p => { p with readyA := false }) clamped, .auto, .camera),
          ({ clamped with lc := { up.lc with banks := ⟨faulted, faulted, faulted, faulted⟩ } }, .auto, .lamp),
          ({ clamped with di := { up.di with sensorDark := true } }, .auto, .sensor),
          (ruled .right { clamped with tc := { clamped.tc with j := 10 } }, .right, .nothing),
          (classed (fun c => { c with openingLimit := 1 }) clamped, .auto, .doseOpening)],
        p.1.serves ∧ p.1.runActive = false ∧ p.1.runPaused = false ∧ p.1.settled = true ∧ p.1.ticketOpen = false
        ∧ p.1.tc.j ≤ vol.n ∧ p.2.1 = (profileAt p.1.set.profiles 0).selection
        ∧ (openingAt p.1.sau.openings p.1.tc.j).left = .pending
        ∧ p.1.captureRefusal 0 (some p.2.1) (p.1.select p.2.1) false = some p.2.2) := by
  decide +kernel

/-- The step's end before the last opening: MANUAL-ONLY from UNCLAMPED and from CLAMPED, and AUTO. -/
theorem witness_RunsStartAndEnd_stepEnd :
    (∀ s ∈ [classed (fun c => { c with turning := .manualOnly }) doneHere,
          classed (fun c => { c with turning := .manualOnly }) { clamped with sau := doneHere.sau }, doneHere],
        s.serves ∧ s.runActive = false ∧ s.runPaused = false ∧ s.settled = true ∧ s.ticketOpen = false ∧ s.tc.j < 10
        ∧ (openingAt s.sau.openings s.tc.j).left = .accepted ∧ (openingAt s.sau.openings s.tc.j).right = .blank
        ∧ s.lc.preview = none)
    ∧ 10 ≤ vol.n ∧ clamped.tc.state = .clamped ∧ doneHere.tc.state = .unclamped ∧ vol.limits.turning = .auto
    ∧ vol.foldouts.contains (doneHere.tc.j + 1) = false := by
  decide +kernel

/-- An ACTIVE run over openings 4 to 4 with profile 0, HALT noted or not. -/
def running (halt : Bool) (s : State) : State :=
  { s with rc := { s.rc with
      state := .active, phase := .turning, first := some 4, last := some 4, profile := some 0, haltRequested := halt } }

/-- An operation that RC sent. -/
def runOp (kind : OpKind) (remaining : Nat) : Op :=
  { turnOp remaining with kind := kind, byRun := true }

/-- A turn that HALT has marked. -/
def marked (s : State) : State := { s with tc := { s.tc with haltMark := true } }

/-- The end of UNCLAMP, of a phase at its limit, of a turn and of CLAMP, each sent by RC, with HALT noted and not. -/
theorem witness_RunsStartAndEnd_ends :
    (∀ b ∈ [false, true], ∀ s ∈ [raising .unclamp (runOp .unclamp 0), atNow 3500000 (raising .unclamp (runOp .unclamp 0)),
          atNow 5000000 (tcIn .carrying (some (runOp .turn 1))), marked (parking (runOp .turn 1)),
          { parking (runOp .turn 1) with tc := { (parking (runOp .turn 1)).tc with j := 6 } }, parking (runOp .turn 0),
          { parking (runOp .turn 0) with sau := doneHere.sau }, tcIn .lowering (some (runOp .clamp 0)),
          marked (tcIn .lowering (some (runOp .clamp 0))),
          { tcIn .lowering (some (runOp .clamp 0)) with sau := doneHere.sau }],
        (running b s).quiet ∧ (running b s).runActive = true ∧ (running b s).tc.op.isSome = true
        ∧ ((running b s).tc.op.map Op.byRun) = some true ∧ (running b s).tc.recover = none
        ∧ (running b s).tc.stopMark = false ∧ (running b s).tc.resetStroke = false ∧ (running b s).sau.volume = some vol)
    ∧ (atNow 3500000 up).endsNow (2000000 + 1500 * 1000) ∧ (atNow 5000000 up).endsNow (2000000 + 3000 * 1000)
    ∧ State.isFoldout 7 mounted = true ∧ (running false (parking (runOp .turn 0))).rc.last = some 4
    ∧ (openingAt doneHere.sau.openings 4).left = .accepted ∧ (openingAt doneHere.sau.openings 4).right = .blank
    ∧ vol.limits.forceTarget - vol.limits.forceTarget / 20 ≤ 760 ∧ 1200 ≤ min (3 * vol.limits.forceTarget / 2) 3600
    ∧ State.captureRefusal 0 (some .auto) (mounted.select .auto) false { parking (runOp .turn 0) with
        sau := (classed (fun c => { c with policy := .free }) mounted).sau
        tc := { (parking (runOp .turn 0)).tc with state := .unclamped }
        pins := { mounted.pins with armPark := true }
        rc := (running false mounted).rc } = none := by
  decide +kernel

/-- RUN END in an ACTIVE run and in a PAUSED one: with the run's operation in each motion, HALTED with the platen up and down,
with none in SEEK, and with an operation RC did not send. -/
theorem witness_RunsStartAndEnd_runEnd :
    (∀ r ∈ [RunState.active, .paused .halt],
      (∀ st ∈ [TcState.lifting, .carrying, .releasing, .returning, .lowering, .raising, .halted],
        (withRun r (tcIn st (some (runOp .turn 1)))).serves ∧ (withRun r (tcIn st (some (runOp .turn 1)))).tc.recover = none)
      ∧ (withPins (fun p => { p with platenUp := false }) (withRun r (tcIn .halted (some (runOp .turn 1))))).serves
      ∧ (withRun r (tcIn .seek none)).serves ∧ (withRun r (tcIn .raising (some (turnOp 1)))).serves
      ∧ ((withRun r up).runActive = true ∨ (withRun r up).runPaused = true))
    ∧ (runOp .turn 1).byRun = true ∧ (turnOp 1).byRun = false := by
  decide +kernel

/-- An operation that a run's end has marked. -/
def ending (s : State) : State := { s with tc := { s.tc with stopMark := true } }

/-- The end of such an operation: a turn's return, a raise of each kind, and a lowering. -/
theorem witness_RunsStartAndEnd_stopped :
    (∀ s ∈ [parking (runOp .turn 0), raising .unclamp (runOp .unclamp 0), raising .lift (runOp .turn 1),
          raising .foldoutStop (runOp .turn 1), tcIn .lowering (some (runOp .clamp 0))],
        (ending s).quiet ∧ (ending s).runActive = false ∧ (ending s).tc.op.isSome = true ∧ (ending s).tc.recover = none
        ∧ (ending s).sau.volume = some vol)
    ∧ (parking (runOp .turn 0)).tc.state = .returning ∧ (parking (runOp .turn 0)).tc.returnGoal = some .turn
    ∧ (parking (runOp .turn 0)).tc.resetStroke = false := by
  decide +kernel

/-- RC's own ticket is the one of serial 1. -/
def ownTicket (s : State) : State := { s with rc := { s.rc with ticket := some 1 } }

/-- A run that waits for a dwell raise before the end of its step. -/
def waiting : State :=
  let s := running false (raising .unclamp { turnOp 0 with kind := .unclamp })
  { s with rc := { s.rc with phase := .waiting, due := some .stepEnd } }

/-- The close of a run's ticket in a PAUSED run, an ACTIVE one with HALT noted, one at its last opening, and in an ENDED one;
and a WAITING run at the raise's end and at its limit. -/
theorem witness_RunsStartAndEnd_close :
    (∀ s ∈ [withRun (.paused .lamp) (exposing .collect true true), running true (exposing .collect true true),
          running false (exposing .collect true true), withRun (.ended .aborted) (exposing .collect true true)],
        (ownTicket s).quiet ∧ (ownTicket s).cc.tickets = [] ++ [ticket false none] ∧ (ownTicket s).cc.state = .collect
        ∧ (ownTicket s).cc.camA.triggered = true ∧ (ownTicket s).cc.camB.triggered = false
        ∧ (ownTicket s).tc.pendingDwell = false ∧ (ownTicket s).tc.pendingOverforce = false
        ∧ (ownTicket s).rc.ticket = some 1)
    ∧ (running false (exposing .collect true true)).rc.last = some 4 ∧ (exposing .collect true true).tc.j = 4
    ∧ (∀ s ∈ [waiting, atNow 3500999 waiting],
        s.powered = true ∧ s.lk.queue = [] ∧ s.rc.heardEnd = none ∧ s.rc.heardClose = none ∧ s.runActive = true
        ∧ s.rc.phase = .waiting ∧ s.tc.op = some { turnOp 0 with kind := .unclamp } ∧ s.tc.state = .raising
        ∧ s.tc.raiseGoal = some .unclamp ∧ s.tc.recover = none ∧ s.tc.stopMark = false ∧ s.rc.due = some .stepEnd
        ∧ s.rc.last = some s.tc.j ∧ s.pins.armPark = true ∧ s.pins.guardOpen = false ∧ s.ticketOpen = false
        ∧ s.tc.resetStroke = false)
    ∧ (atNow 3500999 waiting).endsNow (waiting.tc.phaseStart + 1500000) := by
  decide +kernel

/-- A PAUSED run over openings 4 to 4. -/
def pausedOver (r : PauseReason) (s : State) : State :=
  { s with rc := { (running false s).rc with state := .paused r, pauseOpening := some 4 } }

/-- HALT; TICKET RELEASE of an orphaned ticket; and RESUME: out of range, in an unsettled cradle, at the last opening done, at
the opening of a manual turn, and with a turn HALTED. -/
theorem witness_RunsStartAndEnd_resume :
    (running false mounted).serves ∧ (pausedOver .tickets mounted).serves
    ∧ (∀ j ∈ [3, 4, 5], ∀ s ∈ [mounted, tcIn .seek none, doneHere],
        ({ pausedOver .tickets s with
            tc := { s.tc with j := j }, cc := { s.cc with tickets := [{ ticket true none with orphaned := true }] } } :
          State).serves)
    ∧ { ticket true none with orphaned := true }.closed = true ∧ doneHere.settled = true ∧ (tcIn .seek none).settled = false
    ∧ (∀ r ∈ [PauseReason.manualTurn, .lamp], ∀ j ∈ [3, 4, 5], ∀ s ∈ [mounted, tcIn .seek none, doneHere],
        ({ pausedOver r s with tc := { s.tc with j := j } } : State).serves
        ∧ (pausedOver r s).rc.first = some 4 ∧ (pausedOver r s).rc.last = some 4 ∧ s.tc.j = 4)
    ∧ (pausedOver .halt (tcIn .halted (some (runOp .turn 1)))).serves
    ∧ (tcIn .halted (some (runOp .turn 1))).isFoldout (tcIn .halted (some (runOp .turn 1))).tc.nextLeaf = false
    ∧ (tcIn .halted (some (runOp .turn 1))).platenDown = false := by
  decide +kernel

/-- A press of a key held for 20 ms at the end of this millisecond, in a pendant mode. -/
def pressing (k : Key) (m : PendantMode) (s : State) : State :=
  { s with
    set := { s.set with pendantMode := m }
    ps := { s.ps with inputs := s.ps.inputs.set k { stable := false, candidate := some (true, 1980999) } } }

/-- A press is ready to act. -/
abbrev ready (k : Key) (s : State) : Prop :=
  s.quiet ∧ s.starting = false ∧ (s.ps.inputs.get k).candidate = some (true, 1980999) ∧ s.endsNow (1980999 + 20000)

/-- FORWARD and OFF; HALT in HOMING, in a moving operation, and in UNCLAMPED with a run ACTIVE or PAUSED with TICKETS. -/
theorem witness_PendantKeysAreDebounced :
    up.serves ∧ up.quiet ∧ up.ps.inputs.get .pedal = { stable := false, candidate := none }
    ∧ (∀ p ∈ [(Key.lamp, PendantMode.forward, up), (.mark, .off, up), (.halt, .off, tcIn .homing none),
          (.halt, .forward, tcIn .lifting (some (turnOp 1))), (.halt, .localMode, running false mounted),
          (.halt, .localMode, pausedOver .tickets mounted)],
        ready p.1 (pressing p.1 p.2.1 p.2.2)) := by
  decide +kernel

/-- PEDAL in LOCAL: ignored, RESUME out of range and at the opening of a manual turn, and CAPTURE refused and admitted; MARK. -/
theorem witness_PendantKeysAreDebounced_pedal :
    (∀ s ∈ [running false mounted, pausedOver .turnFault mounted, pausedOver .guard mounted, tcIn .seek none,
          { pausedOver .lamp mounted with tc := { mounted.tc with j := 5 } }, pausedOver .manualTurn mounted, mounted, clamped],
        ready .pedal (pressing .pedal .localMode s))
    ∧ (pressing .mark .localMode up).set.pendantMode = .localMode ∧ ready .mark (pressing .mark .localMode up)
    ∧ (tcIn .seek none).runPaused = false ∧ (tcIn .seek none).settled = false
    ∧ (pausedOver .manualTurn mounted).rc.pauseOpening = some mounted.tc.j
    ∧ (profileAt up.set.profiles 0).selection = .auto ∧ mounted.settled = true ∧ clamped.settled = true
    ∧ mounted.captureRefusal 0 (some .auto) (mounted.select .auto) true = some .state
    ∧ clamped.captureRefusal 0 (some .auto) (clamped.select .auto) true = none := by
  decide +kernel

/-- The mounted volume with lamps so dim that a preview of 10 s is within its limits. -/
def thrifty : State :=
  { mounted with set := { mounted.set with luxPerStep := ⟨10, 10, 10, 10⟩ } }

/-- ATTENTION after a backward stroke ran past its limit with the leaf in hand. -/
def inAttention : State :=
  { tcIn .attention none with tc := { (tcIn .attention none).tc with
      leafInHand := true, attention := some { code := .strokeTimeout, sign := some false, remaining := 1 } } }

/-- CONFIRM, RETAKE and LAMP in LOCAL, each in every case of its clause. -/
theorem witness_PendantKeysAreDebounced_local :
    (∀ s ∈ [tcIn .seek none, inAttention, withPins (fun p => { p with platenUp := false }) inAttention,
          pausedOver .manualTurn mounted, clamped],
        ready .confirm (pressing .confirm .localMode s))
    ∧ inAttention.tc.attention = some { code := .strokeTimeout, sign := some false, remaining := 1 }
    ∧ inAttention.pins.armPark = true ∧ inAttention.pins.platenUp = true
    ∧ (∀ s ∈ [up, tcIn .seek none, { heldAt .held .accepted with cc := (ticketed (ticket true none)).cc }],
        ready .retake (pressing .retake .localMode s))
    ∧ up.sau.volume = none ∧ (heldAt .held .accepted).halfRetaken { side := 8, result := none, superseded := false } = true
    ∧ (∀ s ∈ [lit, up, running false mounted, thrifty],
        ready .lamp (pressing .lamp .localMode s))
    ∧ lit.lc.preview.isSome = true ∧ up.previewRefusal 0 10 = some .notMounted
    ∧ (running false mounted).lc.preview = none
    ∧ thrifty.lc.preview = none ∧ thrifty.previewRefusal 0 10 = none := by
  decide +kernel

theorem witness_StatusRequestsChangeNothing : up.serves ∧ mounted.serves := by
  decide +kernel

end Sys2Proof.Tests
end

