-- ==== Sys2Proof/Proofs/Classes.lean ====
section
/-! Classes are written and read (01 R8, R9): what the decisions of CLASS WRITE and CLASS READ are, branch by branch, and
the answers of a part that serves requests. -/

namespace Sys2Proof.Machine

variable {s : State}

/-! ### A served request (10 R184, R185) -/

/-- A request that changes no state, in a part that serves requests: only its reply goes out. -/
theorem exec_unchanged {i : Instr} {k tg : Byte} {a : Answer} (hs : s.serves) (hk : i.kind? = some k)
    (ht : i.tag? = some tg) (hkn : knownKind k = true) (hns : ∀ t, i ≠ .store t)
    (hd : decisionOf i (s.holding k tg) = (s.holding k tg, a)) : exec i s = .next (s.answered k tg a) := by
  obtain ⟨htakes, hstarted⟩ := hs
  rw [exec_request (by rw [hk]; rfl)]
  exact request_unchanged htakes hk ht hkn (by rw [hstarted]; rfl) hns hd

/-- A request that writes working settings and nothing else: its reply goes out over the written settings. -/
theorem exec_writesSettings {i : Instr} {k tg : Byte} {a : Answer} {w : Settings} (hs : s.serves) (hk : i.kind? = some k)
    (ht : i.tag? = some tg) (hkn : knownKind k = true) (hns : ∀ t, i ≠ .store t)
    (hd : decisionOf i (s.holding k tg) = ({ s.holding k tg with set := w }, a)) :
    exec i s = .next (State.answered k tg a { s with set := w }) := by
  obtain ⟨htakes, hstarted⟩ := hs
  obtain ⟨-, hqueue, hrun⟩ := htakes.1
  rw [exec_request (by rw [hk]; rfl)]
  exact request_decided htakes hk ht hkn (by rw [hstarted]; rfl) hns hd hqueue hrun

/-! ### The record of CLASS WRITE (R8) -/

/-- With a value of each enumeration the record is the clamped one, flagged where a number was outside its range. -/
theorem classRecord?_clamps {f : ClassFields} {ambient : Bool} {turning : Turning} {policy : PlatenPolicy}
    (ha : f.ambient = some ambient) (ht : f.turning = some turning) (hp : f.policy = some policy) :
    classRecord? f
      = some
        ({ dayBudget := max 1 (min 1000000000 f.dayBudget), openingLimit := max 1 (min 10000000 f.openingLimit)
           ambient := ambient, turning := turning, retryLimit := min 7 f.retryLimit, airStart := min 9 f.airStart
           policy := policy, forceTarget := max 100 (min 3000 f.forceTarget)
           dwellLimit := max 5 (min 600 f.dwellLimit) },
         decide (f.dayBudget < 1 ∨ 1000000000 < f.dayBudget ∨ f.openingLimit < 1 ∨ 10000000 < f.openingLimit
           ∨ 7 < f.retryLimit ∨ 9 < f.airStart ∨ f.forceTarget < 100 ∨ 3000 < f.forceTarget
           ∨ f.dwellLimit < 5 ∨ 600 < f.dwellLimit)) := by
  simp [classRecord?, ha, ht, hp, clampTo, outside, Bool.or_assoc]

/-- Another value of one enumeration leaves no record. -/
theorem classRecord?_otherValue {f : ClassFields} (h : f.ambient = none ∨ f.turning = none ∨ f.policy = none) :
    classRecord? f = none := by
  unfold classRecord?
  split
  next ha ht hp => simp [ha, ht, hp] at h
  next => rfl

/-! ### The decision of CLASS WRITE (R8, R10) -/

section decideClassWrite
variable {cls : Nat} {f : ClassFields}

theorem decideClassWrite_locked (h : s.pins.lockEngaged = true) : decideClassWrite cls f s = refuse .locked s := by
  rw [decideClassWrite, if_pos h]

theorem decideClassWrite_aboveTable (h : s.pins.lockEngaged = false) (hc : 7 < cls) :
    decideClassWrite cls f s = refuse .argument s := by
  rw [decideClassWrite, if_neg (by simp [h]), if_pos hc]

theorem decideClassWrite_otherValue (h : s.pins.lockEngaged = false) (hr : classRecord? f = none) :
    decideClassWrite cls f s = refuse .argument s := by
  simp [decideClassWrite, h, hr]

theorem decideClassWrite_writes {c : ClassRec} {clamped : Bool} (h : s.pins.lockEngaged = false) (hc : ¬ 7 < cls)
    (hr : classRecord? f = some (c, clamped)) :
    decideClassWrite cls f s
      = answer .ok [.flag clamped] { s with set := { s.set with classes := s.set.classes.set cls c } } := by
  simp [decideClassWrite, h, hc, hr]

end decideClassWrite

/-! ### The decision of CLASS READ (R9) -/

theorem decideClassRead_inTable {cls : Nat} (h : cls ≤ 7) :
    decideClassRead cls s = answer .ok [.bytes (classAt s.set.classes cls).bytes] s := by
  rw [decideClassRead, if_neg (by omega)]

theorem decideClassRead_aboveTable {cls : Nat} (h : 8 ≤ cls) : decideClassRead cls s = refuse .argument s := by
  rw [decideClassRead, if_pos (by omega)]

/-! ### CLASS WRITE and CLASS READ in a part that serves requests -/

/-- A refused CLASS WRITE changes no state. -/
theorem exec_classWrite_refused {tag : Byte} {cls : Nat} {f : ClassFields} {r : Result} (hs : s.serves)
    (hd : decideClassWrite cls f (s.holding 0x13#8 tag) = refuse r (s.holding 0x13#8 tag)) :
    exec (.classWrite tag cls f) s = .next (s.answeredWith 0x13#8 tag r) :=
  exec_unchanged hs rfl rfl rfl (fun _ => nofun) hd

/-- An accepted CLASS WRITE changes the record of its class alone. -/
theorem exec_classWrite_writes {tag : Byte} {cls : Nat} {f : ClassFields} {c : ClassRec} {clamped : Bool} (hs : s.serves)
    (hl : s.pins.lockEngaged = false) (hc : ¬ 7 < cls) (hr : classRecord? f = some (c, clamped)) :
    exec (.classWrite tag cls f) s
      = .next (State.answered 0x13#8 tag ⟨.ok, [.flag clamped]⟩
          { s with set := { s.set with classes := s.set.classes.set cls c } }) :=
  exec_writesSettings hs rfl rfl rfl (fun _ => nofun) (decideClassWrite_writes hl hc hr)

/-- CLASS WRITE with a value of each enumeration: the lock, then the class, then the clamped record. -/
theorem exec_classWrite_values {tag : Byte} {cls : Nat} {f : ClassFields} {c : ClassRec} {clamped : Bool} (hs : s.serves)
    (hr : classRecord? f = some (c, clamped)) :
    exec (.classWrite tag cls f) s
      = .next (if s.pins.lockEngaged then s.answeredWith 0x13#8 tag .locked
          else if 7 < cls then s.answeredWith 0x13#8 tag .argument
          else State.answered 0x13#8 tag ⟨.ok, [.flag clamped]⟩
            { s with set := { s.set with classes := s.set.classes.set cls c } }) := by
  cases hl : s.pins.lockEngaged with
  | true => exact exec_classWrite_refused hs (decideClassWrite_locked hl)
  | false =>
    by_cases hc : 7 < cls
    · simpa [hc] using exec_classWrite_refused hs (decideClassWrite_aboveTable hl hc)
    · simpa [hc] using exec_classWrite_writes hs hl hc hr

/-- CLASS WRITE with another value of an enumerated field: the lock is tested first. -/
theorem exec_classWrite_otherValue {tag : Byte} {cls : Nat} {f : ClassFields} (hs : s.serves)
    (hr : classRecord? f = none) :
    exec (.classWrite tag cls f) s
      = .next (s.answeredWith 0x13#8 tag (if s.pins.lockEngaged then .locked else .argument)) := by
  cases hl : s.pins.lockEngaged with
  | true => exact exec_classWrite_refused hs (decideClassWrite_locked hl)
  | false => exact exec_classWrite_refused hs (decideClassWrite_otherValue hl hr)

/-- CLASS READ of a class of the table. -/
theorem exec_classRead_inTable {tag : Byte} {cls : Nat} (hs : s.serves) (h : cls ≤ 7) :
    exec (.classRead tag cls) s
      = .next (s.answered 0x14#8 tag ⟨.ok, [.bytes (classAt s.set.classes cls).bytes]⟩) :=
  exec_unchanged hs rfl rfl rfl (fun _ => nofun) (decideClassRead_inTable h)

/-- CLASS READ above the table. -/
theorem exec_classRead_aboveTable {tag : Byte} {cls : Nat} (hs : s.serves) (h : 8 ≤ cls) :
    exec (.classRead tag cls) s = .next (s.answeredWith 0x14#8 tag .argument) :=
  exec_unchanged hs rfl rfl rfl (fun _ => nofun) (decideClassRead_aboveTable h)

/-- Settles O22, branch by branch of the two decisions. -/
theorem classesAreWrittenAndRead : Obligations.ClassesAreWrittenAndRead := by
  intro tag cls s hs
  refine ⟨?written, ?otherValue, ?inTable, ?aboveTable⟩
  case written =>
    intro f ambient turning policy ha ht hp
    exact exec_classWrite_values hs (classRecord?_clamps ha ht hp)
  case otherValue =>
    intro f h
    exact exec_classWrite_otherValue hs (classRecord?_otherValue h)
  case inTable => exact exec_classRead_inTable hs
  case aboveTable => exact exec_classRead_aboveTable hs

end Sys2Proof.Machine
end

