-- ==== Sys2Proof/Proofs/TurnTests.lean ====
section
/-! TURN is tested (02 R24): the tests of the decision in their order, what an accepted TURN leaves of RC and LK as it
begins (R25), and the answers of a part that serves requests. -/

namespace Sys2Proof.Machine

variable {s : State} {n : Int} {clampAfter : Option Bool}

/-! ### TURN's tests (R24) -/

theorem turnRefusal_unmounted {fromHost : Bool} (h : s.sau.volume = none) :
    s.turnRefusal n clampAfter fromHost = some .notMounted := by
  simp [State.turnRefusal, h]

/-- The tests that a TURN from the host meets over a mounted volume, one after the other. -/
theorem turnRefusal_mounted {v : Volume} (h : s.sau.volume = some v) :
    s.turnRefusal n clampAfter true
      = if s.tc.state ≠ .unclamped ∧ s.tc.state ≠ .clamped then some .state
        else if s.ticketOpen = true then some .state
        else if s.runOwnsTc = true then some .state
        else if v.limits.turning = .manualOnly then some .cls
        else if n = 0 ∨ n < -16 ∨ 16 < n ∨ (s.tc.j : Int) + n < 0 ∨ (v.n : Int) < (s.tc.j : Int) + n
            ∨ clampAfter = none then some .argument
        else none := by
  simp only [State.turnRefusal, h, Bool.true_and, or_left_comm (a := 16 < n)]

/-- A run that is ACTIVE owns TC, so a TURN that passes its tests meets none (R24, 07 R143). -/
theorem runActive_false_of_turnRefusal (h : s.turnRefusal n clampAfter true = none) : s.runActive = false := by
  cases hv : s.sau.volume with
  | none => simp [turnRefusal_unmounted hv] at h
  | some v =>
    rw [turnRefusal_mounted hv] at h
    split_ifs at h with _ _ howns
    simp only [State.runOwnsTc, Bool.or_eq_true, not_or, Bool.not_eq_true] at howns
    exact howns.1

/-! ### The beginning of an accepted TURN (R25) -/

/-- Whichever way a turn begins, the run's state, the closes RC has been told, the receive queue and the frame being sent
stay. -/
theorem beginTurn_leaves (s : State) (n : Int) (clampAfter byRun : Bool) :
    (s.beginTurn n clampAfter byRun).rc.state = s.rc.state
    ∧ (s.beginTurn n clampAfter byRun).rc.heardClose = s.rc.heardClose
    ∧ (s.beginTurn n clampAfter byRun).lk.queue = s.lk.queue
    ∧ (s.beginTurn n clampAfter byRun).lk.sending = s.lk.sending := by
  unfold State.beginTurn
  dsimp only
  split
  next => simp
  next =>
    split
    next => simp [State.beginRaise]
    next => simp [State.beginLeaf, State.beginAttempt]

/-! ### The decision of TURN (R24, R25) -/

theorem decideTurn_refused {fromHost : Bool} {r : Result} (h : s.turnRefusal n clampAfter fromHost = some r) :
    decideTurn n clampAfter fromHost s = refuse r s := by
  simp [decideTurn, h]

theorem decideTurn_accepted {fromHost : Bool} (h : s.turnRefusal n clampAfter fromHost = none) :
    decideTurn n clampAfter fromHost s
      = answer .accepted [] (s.beginTurn n (clampAfter.getD false) (!fromHost)) := by
  simp [decideTurn, h]

/-! ### TURN in a part that serves requests -/

/-- A refused TURN changes no state. -/
theorem exec_turn_refused {tag : Byte} {r : Result} (hs : s.serves) (h : s.turnRefusal n clampAfter true = some r) :
    exec (.turn tag n clampAfter) s = .next (s.answeredWith 0x20#8 tag r) :=
  exec_unchanged hs rfl rfl rfl (fun _ => nofun) (decideTurn_refused h)

/-- A TURN that passes its tests is accepted, and an idle transmitter begins the reply. -/
theorem exec_turn_accepted {tag : Byte} (hs : s.serves) (h : s.turnRefusal n clampAfter true = none) :
    ∃ t, exec (.turn tag n clampAfter) s = .next t
      ∧ (s.lk.sending = none →
          t.lk.sending = some (.reply { kind := 0xA0#8, tag := tag, result := .accepted, body := [] })) := by
  obtain ⟨htakes, hstarted⟩ := hs
  obtain ⟨-, hqueue, -, hclose, -⟩ := htakes.1
  obtain ⟨bstate, bclose, bqueue, bsending⟩ :=
    beginTurn_leaves (s.holding 0x20#8 tag) n (clampAfter.getD false) (!true)
  have hd : decisionOf (.turn tag n clampAfter) (s.holding 0x20#8 tag) = _ := decideTurn_accepted h
  rw [exec_request rfl]
  refine request_ends htakes rfl rfl rfl (by rw [hstarted]; rfl) (fun _ => nofun) ?queue ?resting ?close ?reply
  case queue =>
    rw [hd]
    exact bqueue.trans hqueue
  case resting =>
    rw [hd]
    have hactive := runActive_false_of_turnRefusal h
    unfold State.runActive at hactive ⊢
    exact (congrArg (· == RunState.active) bstate).trans hactive
  case close =>
    rw [hd]
    exact bclose.trans hclose
  case reply =>
    rw [hd]
    intro hidle
    exact answered_sending _ _ _ _ (bsending.trans hidle)

/-- Settles O27: the first test of R24 that fails is the refusal, and one lemma gives the answer of every refusal. -/
theorem turnIsTestedInOrder : Obligations.TurnIsTestedInOrder := by
  intro tag n clampAfter s hs
  refine ⟨fun hv => exec_turn_refused hs (turnRefusal_unmounted hv), fun v hv => ?_⟩
  have htests := turnRefusal_mounted (n := n) (clampAfter := clampAfter) hv
  split_ifs at htests ⊢ with hstate hticket howns hcls harg
  · exact exec_turn_refused hs htests
  · exact exec_turn_refused hs htests
  · exact exec_turn_refused hs htests
  · exact exec_turn_refused hs htests
  · exact exec_turn_refused hs htests
  · exact exec_turn_accepted hs htests

end Sys2Proof.Machine
end

