-- ==== Sys2Proof/Proofs/Illumination.lean ====
section
/-! Illumination (03): a preview expires (R70), and PROFILE LEVEL steps one bank of a profile (R64). -/

namespace Sys2Proof.Machine

variable {s : State}

/-! ### A preview expires (R70) -/

/-- A timer whose instant has come carries the part nowhere. -/
theorem goTo_reached {t : Nat} (h : t ≤ s.now) : s.goTo t = s := by
  simp [State.goTo, Nat.max_eq_left h]

/-- The first instant of a ms that the elapsed clock has reached. -/
theorem atMs_le_of_le_clock {ms t : Nat} (h : ms ≤ t / 1000) : atMs ms ≤ t := by
  unfold atMs
  omega

/-- The expiry of a preview whose end the clock has reached is its end EXPIRED and the next frame: neither LK nor RC hears
of it. -/
theorem exec_previewExpiry_reached {p : Preview} (hs : s.quiet) (hp : s.lc.preview = some p)
    (hend : p.finish ≤ s.now / 1000) : exec .previewExpiry s = .next (s.endPreview .expired).kick := by
  obtain ⟨hpowered, hqueue, hrun⟩ := hs
  have hreached : atMs p.finish ≤ s.now := atMs_le_of_le_clock hend
  have hdue : s.previewDue? = some (atMs p.finish) := by simp [State.previewDue?, hp]
  refine timer_next hpowered hdue (Nat.div_le_div_right hreached) (by rw [goTo_reached hreached]) ?queue ?run
  case queue => rw [endPreview_lk, hqueue]
  case run => exact runQuiet_rc (endPreview_rc _ _) hrun

/-- Settles O40: the expiry is the end of the preview, whose fields `endPreview_some` gives. -/
theorem previewExpires : Obligations.PreviewExpires := by
  intro s p hs hp hend
  obtain ⟨learned, hlearned, hended⟩ := endPreview_some .expired hp
  refine ⟨learned, hlearned, ?_⟩
  rw [exec_previewExpiry_reached hs hp hend, hended]
  rfl

/-! ### The decision of PROFILE LEVEL (R64) -/

section decideProfileLevel
variable {profile : Nat} {bank : Option LampBank} {action : Option LevelAction}

theorem decideProfileLevel_refused (h : 3 < profile ∨ bank = none ∨ action = none) :
    decideProfileLevel profile bank action s = refuse .argument s := by
  unfold decideProfileLevel
  split
  next => rw [if_pos (by simpa using h)]
  next => rfl

theorem decideProfileLevel_steps {b : LampBank} {a : LevelAction} {level : Nat} {clamped : Bool} (h : profile ≤ 3)
    (hl : levelAfter ((profileAt s.set.profiles profile).levels.get b) a = (level, clamped)) :
    decideProfileLevel profile (some b) (some a) s
      = answer .ok [.num level, .flag clamped]
          { s with
            set := { s.set with
              profiles := s.set.profiles.set profile
                { profileAt s.set.profiles profile with
                  levels := (profileAt s.set.profiles profile).levels.set b level } }
            lc := { s.lc with
              learned := s.lc.learned.set profile ((learnedAt s.lc.learned profile).set b level) } } := by
  simp only [decideProfileLevel, if_neg (Nat.not_lt.mpr h), hl]

end decideProfileLevel

/-! ### PROFILE LEVEL in a part that serves requests -/

/-- A request whose decision leaves LK's part and RC's as they were: the state it decides, with its reply going out. -/
theorem exec_decided {i : Instr} {k tg : Byte} {a : Answer} {t : State} (hs : s.serves) (hk : i.kind? = some k)
    (ht : i.tag? = some tg) (hkn : knownKind k = true) (hns : ∀ t, i ≠ .store t)
    (hd : decisionOf i (s.holding k tg) = (t.holding k tg, a)) (hlk : t.lk = s.lk) (hrc : t.rc = s.rc) :
    exec i s = .next (t.answered k tg a) := by
  obtain ⟨htakes, hstarted⟩ := hs
  obtain ⟨-, hqueue, hrun⟩ := htakes.1
  rw [exec_request (by rw [hk]; rfl)]
  exact request_decided htakes hk ht hkn (by rw [hstarted]; rfl) hns hd (by rw [hlk, hqueue]) (runQuiet_rc hrc hrun)

/-- A refused PROFILE LEVEL changes no state. -/
theorem exec_profileLevel_refused {tag : Byte} {profile : Nat} {bank : Option LampBank} {action : Option LevelAction}
    (hs : s.serves) (h : 3 < profile ∨ bank = none ∨ action = none) :
    exec (.profileLevel tag profile bank action) s = .next (s.answeredWith 0x32#8 tag .argument) :=
  exec_unchanged hs rfl rfl rfl (fun _ => nofun) (decideProfileLevel_refused h)

/-- Settles O41: the two branches of the decision; the statement's level is `levelAfter`, action by action. -/
theorem profileLevelStepsOneBank : Obligations.ProfileLevelStepsOneBank := by
  intro tag profile s hs
  refine ⟨fun bank action h => exec_profileLevel_refused hs h, ?_⟩
  rintro b a p l level clamped hprofile rfl rfl hlevel
  have hl : levelAfter ((profileAt s.set.profiles profile).levels.get b) a = (level, clamped) := by
    cases a with
    | up => exact hlevel.symm
    | down => exact hlevel.symm
    | set v => exact hlevel.symm
  exact exec_decided hs rfl rfl rfl (fun _ => nofun)
    (decideProfileLevel_steps (s := s.holding 0x32#8 tag) hprofile hl) rfl rfl

end Sys2Proof.Machine
end

