-- ==== Sys2Proof/Proofs/CarryTable.lean ====
section
/-! The carry table is read and an entry dropped (04 R98, R99): what the decisions of CARRY READ and CARRY DROP are, branch
by branch, and the answers of a part that serves requests. -/

namespace Sys2Proof.Machine

variable {s : State}

/-! ### The entry of a mark (R94) -/

theorem findCarry_eq_none_iff {mark : Text} {carry : List CarryEntry} :
    findCarry mark carry = none ↔ ∀ e ∈ carry, e.mark ≠ mark := by
  simp [findCarry]

/-! ### The decision of CARRY READ (R98) -/

section decideCarryRead
variable {index : Nat}

theorem decideCarryRead_aboveTable (h : 15 < index) : decideCarryRead index s = refuse .argument s := by
  rw [decideCarryRead, if_pos h]

theorem decideCarryRead_none (h : index ≤ 15) (hn : s.di.carry.length ≤ index) :
    decideCarryRead index s = answer .absent [.num s.di.carry.length] s := by
  simp only [decideCarryRead, if_neg (Nat.not_lt.mpr h), List.getElem?_eq_none hn]

theorem decideCarryRead_entry {e : CarryEntry} (h : index ≤ 15) (he : s.di.carry[index]? = some e) :
    decideCarryRead index s
      = answer .ok [.bytes e.mark, .num e.dose, .time (some e.time), .num e.cls, .num s.di.carry.length] s := by
  simp only [decideCarryRead, if_neg (Nat.not_lt.mpr h), he]

end decideCarryRead

/-! ### The decision of CARRY DROP (R1, R10, R99) -/

section decideCarryDrop
variable {raw mark : Text}

theorem decideCarryDrop_locked (h : s.pins.lockEngaged = true) : decideCarryDrop raw s = refuse .locked s := by
  rw [decideCarryDrop, if_pos h]

theorem decideCarryDrop_noMark (h : s.pins.lockEngaged = false) (hm : shelfMark? raw = none) :
    decideCarryDrop raw s = refuse .argument s := by
  simp [decideCarryDrop, h, hm]

theorem decideCarryDrop_noEntry (h : s.pins.lockEngaged = false) (hm : shelfMark? raw = some mark)
    (he : findCarry mark s.di.carry = none) : decideCarryDrop raw s = refuse .absent s := by
  simp [decideCarryDrop, h, hm, he]

theorem decideCarryDrop_drops {e : CarryEntry} (h : s.pins.lockEngaged = false) (hm : shelfMark? raw = some mark)
    (he : findCarry mark s.di.carry = some e) :
    decideCarryDrop raw s
      = answer .ok [.num e.dose] { s with di := { s.di with carry := dropCarry mark s.di.carry } } := by
  simp [decideCarryDrop, h, hm, he]

end decideCarryDrop

/-! ### CARRY READ and CARRY DROP in a part that serves requests -/

/-- CARRY READ changes no state, whatever it answers and whatever the lock (R98). -/
theorem exec_carryRead_answered {tag : Byte} {index : Nat} {a : Answer} (hs : s.serves)
    (hd : decideCarryRead index (s.holding 0x3A#8 tag) = (s.holding 0x3A#8 tag, a)) :
    exec (.carryRead tag index) s = .next (s.answered 0x3A#8 tag a) :=
  exec_unchanged hs rfl rfl rfl (fun _ => nofun) hd

/-- A refused CARRY DROP changes no state. -/
theorem exec_carryDrop_refused {tag : Byte} {raw : Text} {r : Result} (hs : s.serves)
    (hd : decideCarryDrop raw (s.holding 0x3B#8 tag) = refuse r (s.holding 0x3B#8 tag)) :
    exec (.carryDrop tag raw) s = .next (s.answeredWith 0x3B#8 tag r) :=
  exec_unchanged hs rfl rfl rfl (fun _ => nofun) hd

/-- An accepted CARRY DROP changes the carry table alone. -/
theorem exec_carryDrop_drops {tag : Byte} {raw mark : Text} {e : CarryEntry} (hs : s.serves)
    (hl : s.pins.lockEngaged = false) (hm : shelfMark? raw = some mark) (he : findCarry mark s.di.carry = some e) :
    exec (.carryDrop tag raw) s
      = .next (State.answered 0x3B#8 tag ⟨.ok, [.num e.dose]⟩
          { s with di := { s.di with carry := dropCarry mark s.di.carry } }) :=
  exec_decided hs rfl rfl rfl (fun _ => nofun) (decideCarryDrop_drops (s := s.holding 0x3B#8 tag) hl hm he) rfl rfl

/-- Settles O47, branch by branch of the decision. -/
theorem carryReadReturnsAnEntry : Obligations.CarryReadReturnsAnEntry := by
  intro tag index s hs
  refine ⟨?aboveTable, ?noEntry, ?entry⟩
  case aboveTable =>
    intro h
    exact exec_carryRead_answered hs (decideCarryRead_aboveTable h)
  case noEntry =>
    intro h hn
    exact exec_carryRead_answered hs (decideCarryRead_none h hn)
  case entry =>
    intro e h he
    exact exec_carryRead_answered hs (decideCarryRead_entry h he)

/-- Settles O48: the lock, then the mark, then the table; the statement's search and filter are `findCarry` and
`dropCarry`. -/
theorem carryDropRemovesAnEntry : Obligations.CarryDropRemovesAnEntry := by
  intro tag raw s hs
  split
  next hl => exact exec_carryDrop_refused hs (decideCarryDrop_locked hl)
  next hl =>
    have hunlocked : s.pins.lockEngaged = false := Bool.eq_false_of_not_eq_true hl
    refine ⟨?noMark, ?noEntry, ?drops⟩
    case noMark =>
      intro hm
      exact exec_carryDrop_refused hs (decideCarryDrop_noMark hunlocked hm)
    case noEntry =>
      intro mark hm hall
      exact exec_carryDrop_refused hs (decideCarryDrop_noEntry hunlocked hm (findCarry_eq_none_iff.mpr hall))
    case drops =>
      intro mark e hm he
      exact exec_carryDrop_drops hs hunlocked hm he

end Sys2Proof.Machine
end

