-- ==== Sys2Proof/Proofs/Profiles.lean ====
section
/-! Capture profiles are written and read (05 R103, R104): what the decisions of PROFILE WRITE and PROFILE READ are, branch
by branch, and the answers of a part that serves requests. -/

namespace Sys2Proof.Machine

variable {s : State}

/-! ### The profile of PROFILE WRITE (R103) -/

section writtenProfile
variable {f : ProfileFields}

/-- With the exposure and the enable set in range and a value of each enumeration, the profile is the clamped one, flagged
where a clamped number was outside its range. -/
theorem profile?_clamps {mode : LampMode} {hold : Bool} {selection : SideSelection} (hlo : 1 ≤ f.exposure)
    (hhi : f.exposure ≤ 2000) (he : f.enable ≤ 15) (hm : f.mode = some mode) (hh : f.hold = some hold)
    (hr : f.selection = some selection) :
    profile? f
      = some
        ({ mode := mode
           enabled := ⟨f.enable.testBit 0, f.enable.testBit 1, f.enable.testBit 2, f.enable.testBit 3⟩
           levels := ⟨min 99 f.levelLa, min 99 f.levelLb, min 99 f.levelRa, min 99 f.levelRb⟩
           target := max 1 (min 65456 f.target), interval := max 1 (min 1000 f.interval), hold := hold
           settle := max 5 (min 200 f.settle), exposure := f.exposure, selection := selection },
         decide (99 < f.levelLa ∨ 99 < f.levelLb ∨ 99 < f.levelRa ∨ 99 < f.levelRb ∨ f.target < 1 ∨ 65456 < f.target
           ∨ f.interval < 1 ∨ 1000 < f.interval ∨ f.settle < 5 ∨ 200 < f.settle)) := by
  have hinRange : ¬ (f.exposure < 1 ∨ 2000 < f.exposure ∨ 15 < f.enable) := by omega
  simp only [profile?, hm, hh, hr, if_neg hinRange]
  simp [clampTo, outside, Bool.or_assoc]

/-- An exposure outside its range or an enable set with another bit leaves no profile, whatever the enumerations. -/
theorem profile?_outOfRange (h : f.exposure < 1 ∨ 2000 < f.exposure ∨ 15 < f.enable) : profile? f = none := by
  unfold profile?
  split
  next => rw [if_pos h]
  next => rfl

/-- Another value of one enumeration leaves no profile. -/
theorem profile?_otherValue (h : f.mode = none ∨ f.hold = none ∨ f.selection = none) : profile? f = none := by
  unfold profile?
  split
  next hm hh hr => simp [hm, hh, hr] at h
  next => rfl

end writtenProfile

/-! ### The decision of PROFILE WRITE (R103) -/

section decideProfileWrite
variable {index : Nat} {f : ProfileFields}

theorem decideProfileWrite_aboveTable (h : 3 < index) : decideProfileWrite index f s = refuse .argument s := by
  rw [decideProfileWrite, if_pos h]

theorem decideProfileWrite_noProfile (hp : profile? f = none) : decideProfileWrite index f s = refuse .argument s := by
  simp [decideProfileWrite, hp]

/-- Each of R103's tests by itself refuses: the index, the exposure, the enable set, the enumerations. -/
theorem decideProfileWrite_refused (h : 3 < index ∨ f.exposure < 1 ∨ 2000 < f.exposure ∨ 15 < f.enable ∨ f.mode = none
    ∨ f.hold = none ∨ f.selection = none) : decideProfileWrite index f s = refuse .argument s := by
  rcases h with hindex | hlow | hhigh | hbit | hvalue
  · exact decideProfileWrite_aboveTable hindex
  · exact decideProfileWrite_noProfile (profile?_outOfRange (.inl hlow))
  · exact decideProfileWrite_noProfile (profile?_outOfRange (.inr (.inl hhigh)))
  · exact decideProfileWrite_noProfile (profile?_outOfRange (.inr (.inr hbit)))
  · exact decideProfileWrite_noProfile (profile?_otherValue hvalue)

theorem decideProfileWrite_writes {p : Profile} {clamped : Bool} (h : index ≤ 3) (hp : profile? f = some (p, clamped)) :
    decideProfileWrite index f s
      = answer .ok [.flag clamped]
          { s with
            set := { s.set with profiles := s.set.profiles.set index p }
            lc := { s.lc with learned := s.lc.learned.set index p.levels } } := by
  simp only [decideProfileWrite, if_neg (Nat.not_lt.mpr h), hp]

end decideProfileWrite

/-! ### The decision of PROFILE READ (R104) -/

theorem decideProfileRead_inTable {index : Nat} (h : index ≤ 3) :
    decideProfileRead index s = answer .ok [.bytes (profileAt s.set.profiles index).bytes] s := by
  rw [decideProfileRead, if_neg (Nat.not_lt.mpr h)]

theorem decideProfileRead_aboveTable {index : Nat} (h : 4 ≤ index) : decideProfileRead index s = refuse .argument s := by
  rw [decideProfileRead, if_pos (by omega)]

/-! ### PROFILE WRITE and PROFILE READ in a part that serves requests -/

/-- A refused PROFILE WRITE changes no state. -/
theorem exec_profileWrite_refused {tag : Byte} {index : Nat} {f : ProfileFields} {r : Result} (hs : s.serves)
    (hd : decideProfileWrite index f (s.holding 0x40#8 tag) = refuse r (s.holding 0x40#8 tag)) :
    exec (.profileWrite tag index f) s = .next (s.answeredWith 0x40#8 tag r) :=
  exec_unchanged hs rfl rfl rfl (fun _ => nofun) hd

/-- An accepted PROFILE WRITE changes the profile at its index and the learned levels of that profile alone. -/
theorem exec_profileWrite_writes {tag : Byte} {index : Nat} {f : ProfileFields} {p : Profile} {clamped : Bool}
    (hs : s.serves) (h : index ≤ 3) (hp : profile? f = some (p, clamped)) :
    exec (.profileWrite tag index f) s
      = .next (State.answered 0x40#8 tag ⟨.ok, [.flag clamped]⟩
          { s with
            set := { s.set with profiles := s.set.profiles.set index p }
            lc := { s.lc with learned := s.lc.learned.set index p.levels } }) :=
  exec_decided hs rfl rfl rfl (fun _ => nofun) (decideProfileWrite_writes (s := s.holding 0x40#8 tag) h hp) rfl rfl

/-- PROFILE READ changes no state, whatever it answers (R104). -/
theorem exec_profileRead_answered {tag : Byte} {index : Nat} {a : Answer} (hs : s.serves)
    (hd : decideProfileRead index (s.holding 0x41#8 tag) = (s.holding 0x41#8 tag, a)) :
    exec (.profileRead tag index) s = .next (s.answered 0x41#8 tag a) :=
  exec_unchanged hs rfl rfl rfl (fun _ => nofun) hd

/-- Settles O49, branch by branch of the two decisions. -/
theorem profilesAreWrittenAndRead : Obligations.ProfilesAreWrittenAndRead := by
  intro tag index s hs
  refine ⟨?refused, ?written, ?inTable, ?aboveTable⟩
  case refused =>
    intro f h
    exact exec_profileWrite_refused hs (decideProfileWrite_refused h)
  case written =>
    intro f mode hold selection hindex hlo hhi he hm hh hr
    exact exec_profileWrite_writes hs hindex (profile?_clamps hlo hhi he hm hh hr)
  case inTable =>
    intro h
    exact exec_profileRead_answered hs (decideProfileRead_inTable h)
  case aboveTable =>
    intro h
    exact exec_profileRead_answered hs (decideProfileRead_aboveTable h)

end Sys2Proof.Machine
end

