-- ==== Sys2Proof/Proofs/Identity.lean ====
section
/-! IDENTIFY and CLOCK READ (10 R186): what they read, and their replies in a part that may still be starting. -/

namespace Sys2Proof.Machine

variable {s : State}

/-- A request that is answered at any time and changes no state, where start-up may still be going on: only its reply goes
out (10 R185). -/
theorem exec_unchanged_atStart {i : Instr} {k tg : Byte} {a : Answer} (hs : s.takes) (hk : i.kind? = some k)
    (ht : i.tag? = some tg) (hkn : knownKind k = true) (hany : answeredAtStart k = true) (hns : ∀ t, i ≠ .store t)
    (hd : decisionOf i (s.holding k tg) = (s.holding k tg, a)) : exec i s = .next (s.answered k tg a) := by
  have hopen : (s.starting && !answeredAtStart k) = false := by simp [hany]
  rw [exec_request (by rw [hk]; rfl)]
  exact request_unchanged hs hk ht hkn hopen hns hd

/-- The starting flag is set until start-up is done (11 R191). -/
theorem starting_eq_decide (s : State) : s.starting = decide (s.start.phase ≠ .done) := by
  rw [Bool.eq_iff_iff, State.starting, bne_iff_ne, decide_eq_true_iff]

/-- IDENTIFY reads the part's names and serial number, the line rate and the starting flag, and changes nothing. -/
theorem decideIdentify_reads (s : State) :
    decideIdentify s
      = (s, ⟨.ok, [.bytes vendorName, .bytes partName, .bytes revisionName, .num Config.serialNumber.toNat, .num s.lk.rate,
          .flag (decide (s.start.phase ≠ .done))]⟩) := by
  rw [decideIdentify, starting_eq_decide, answer]

/-- CLOCK READ reads the clock, the day's start and length, and what is left to the alarm, and changes nothing. -/
theorem decideClockRead_reads (s : State) :
    decideClockRead s
      = (s, ⟨.ok, [.time (some (s.now / 1000)), .time (some s.di.dayStart), .num s.set.dayLength,
          .num (s.di.alarm - s.now / 1000)]⟩) :=
  rfl

/-- Settles O13: both requests are answered while starting, and their decisions change nothing. -/
theorem identifyAndClockReadAnswer : Obligations.IdentifyAndClockReadAnswer := by
  intro tag s hs
  constructor
  case left =>
    exact exec_unchanged_atStart hs rfl rfl rfl rfl (fun _ => nofun) (decideIdentify_reads (s.holding 0x01#8 tag))
  case right =>
    exact exec_unchanged_atStart hs rfl rfl rfl rfl (fun _ => nofun) (decideClockRead_reads (s.holding 0x02#8 tag))

end Sys2Proof.Machine
end

