-- ==== Sys2Proof/Proofs/Invariants.lean ====
section
/-! Every step keeps the invariants (R15, R22, R50, R56, R79, R82, R85, R94, R127, R128, R176, R184): what each kind of
command keeps, and that the state right after reset, and after any cold start, has them. -/

namespace Sys2Proof.Machine

variable {s t : State}

/-- What every command keeps: the bounds, the ring, the opening table, the counters, and the lamps. -/
structure Sustains (s t : State) : Prop where
  bounds : s.bounded → t.bounded
  ring   : s.cc.ringSound → t.cc.ringSound
  table  : s.sau.tableSound → t.sau.tableSound
  counts : s.countersHold → t.countersHold
  lamps  : s.lampsSafe → t.lampsSafe
  lights : s.lampsSafe → s.lightSound → t.lightSound

theorem Sustains.refl (s : State) : Sustains s s :=
  ⟨id, id, id, id, id, fun _ => id⟩

/-- In a powered part what `Keeps` and `Lights` say of an event's effect is all there is to show. -/
theorem Keeps.sustains (h : Keeps s t) (hp : s.powered = true) (hl : Lights s → Lights t) : Sustains s t where
  bounds := h.bounds
  ring := h.ring
  table := h.table
  counts := h.counts
  lamps := h.lampsSafe hp
  lights _ hs := lightSound_iff.mpr (hl (lightSound_iff.mp hs))

/-! ### Events, pins and timers -/

theorem event_sustains {f : State → State} (hk : Keeps s (f s)) (hl : Lights s → Lights (f s)) :
    Sustains s (s.event f) := by
  cases hp : s.powered with
  | false => rw [event_unpowered hp]; exact .refl s
  | true => exact (event_keeps hk).sustains hp fun h => event_lights h (hl h)

/-- Without supply a pin's level changes, and every bank is dark. -/
theorem pin_sustains {p : Pins} (hp : s.powered = false) : Sustains s { s with pins := p } where
  bounds := id
  ring := id
  table := id
  counts := id
  lamps hs := ⟨fun _ => hs.1 (.inl hp), hs.2⟩
  lights hs hl := ⟨fun _ hb => lit_false (hs.1 (.inl hp)) hb, hl.2⟩

theorem pinEvent_sustains {g f : State → State} {p : Pins} (hg : g s = { s with pins := p }) (hk : Keeps s (f s))
    (hl : Lights s → Lights (f s)) : Sustains s (s.pinEvent g f) := by
  unfold State.pinEvent
  cases hp : s.powered with
  | false => rw [if_neg Bool.false_ne_true, hg]; exact pin_sustains hp
  | true => exact hk.settle.sustains hp fun h => (hl h).settle

/-- A timer's effect keeps the invariants at whatever instant it is carried to. -/
theorem timer_sustains {due : State → Option Nat} {f : State → State} (hk : ∀ {u : State}, Keeps s u → Keeps s (f u))
    (hl : ∀ {u : State} {n : Nat}, Lights u → due u = some n → Lights (f (u.goTo n))) :
    Sustains s (s.event (State.atDue due f)) :=
  event_sustains ((Keeps.refl s).atDue hk) fun h => h.atDue hl

/-! ### The guard (02 R50) -/

theorem guardOpen_sustains (s : State) :
    Sustains s (s.pinEvent (fun u => { u with pins := { u.pins with guardOpen := true } }) State.guardOpened) := by
  unfold State.pinEvent
  cases hp : s.powered with
  | false => exact pin_sustains hp
  | true =>
    obtain ⟨hbounds, hring, htable, hcounts, hpower, hlamps⟩ := guardOpened_keeps s
    have hsettle : Keeps s.guardOpened s.guardOpened.settle := (Keeps.refl _).settle
    exact
      { bounds := fun h => hsettle.bounds (hbounds h)
        ring := fun h => hsettle.ring (hring h)
        table := fun h => hsettle.table (htable h)
        counts := fun h => hsettle.counts (hcounts h)
        lamps := fun h => hsettle.lampsSafe (hpower.trans hp) (hlamps h)
        lights := fun _ h => lightSound_iff.mpr (lightSound_iff.mp h).guardOpened.settle }

/-! ### Cold start and the supply (11 R191, R194) -/

section cold
variable {pins : Pins} {rate : Nat} {w : Settings} {o : RestoreOutcome} {x : Ss} {q : List Instr}

theorem thresholdsOk_factory : thresholdsOk Settings.factory.thresholds := by
  intro b
  cases b <;> decide

theorem cold_bounded : (State.cold pins rate w o x q).bounded := by
  refine ⟨Nat.zero_le _, Nat.zero_le _, ?_, Nat.zero_le _⟩
  exact Nat.zero_lt_succ _

theorem cold_ringSound : (State.cold pins rate w o x q).cc.ringSound := by
  refine ⟨trivial, ?_, ⟨?_, ?_⟩, ?_, ?_⟩ <;> simp [State.cold, Cc.cold]

theorem cold_tableSound : (State.cold pins rate w o x q).sau.tableSound := by
  intro v hv
  cases hv

/-- Every count is 0 after cold start, and no threshold is. -/
theorem cold_countersHold (hw : thresholdsOk w.thresholds) (hc : thresholdsOk x.copy.thresholds)
    (hn : x.writing = none) : (State.cold pins rate w o x q).countersHold := by
  refine ⟨fun b => ?_, hw, hc, fun p hp => ?_⟩
  · have hpos : ¬ w.thresholds.get b ≤ 0 := by have := (hw b).1; omega
    cases b <;> exact ⟨Nat.zero_le _, (decide_eq_false hpos).symm⟩
  · rw [show (State.cold pins rate w o x q).ss.writing = none from hn] at hp
    cases hp

theorem cold_dark : (State.cold pins rate w o x q).dark := by
  intro b
  cases b <;> rfl

theorem cold_doseSound : (State.cold pins rate w o x q).doseSound := by
  refine ⟨nofun, fun b hb => cold_dark b, Nat.zero_le _, ?_⟩
  intro e he
  cases he

theorem cold_lampsSafe : (State.cold pins rate w o x q).lampsSafe :=
  ⟨fun _ => cold_dark, cold_doseSound⟩

theorem cold_lights : Lights (State.cold pins rate w o x q) :=
  .ofDark cold_dark fun _ => ⟨rfl, rfl, rfl⟩

/-- A state with every invariant, from whatever state it comes; its counters rest on the store's. -/
theorem Sustains.ofCold (hw : s.countersHold → thresholdsOk w.thresholds) :
    Sustains s (State.cold pins rate w o s.ss.powerLost q) where
  bounds _ := cold_bounded
  ring _ := cold_ringSound
  table _ := cold_tableSound
  counts hs := cold_countersHold (hw hs) hs.2.2.1 rfl
  lamps _ := cold_lampsSafe
  lights _ _ := lightSound_iff.mpr cold_lights

end cold

theorem Sustains.trans {u : State} (h : Sustains s t) (k : Sustains t u) : Sustains s u where
  bounds := k.bounds ∘ h.bounds
  ring := k.ring ∘ h.ring
  table := k.table ∘ h.table
  counts := k.counts ∘ h.counts
  lamps := k.lamps ∘ h.lamps
  lights hs hl := k.lights (h.lamps hs) (h.lights hs hl)

theorem coldStarted_powered (restore : Bool) (rate : Nat) (s : State) : (s.coldStarted restore rate).powered = true := by
  unfold State.coldStarted
  dsimp only
  split_ifs
  · rfl
  · exact report_powered _ _ _
  · rfl

/-- Cold start loads the factory settings or the stored copy (11 R191). -/
theorem coldStarted_sustains (restore : Bool) (rate : Nat) (s : State) : Sustains s (s.coldStarted restore rate) := by
  unfold State.coldStarted
  dsimp only
  split_ifs
  · exact .ofCold fun h => h.2.2.1
  · exact (Sustains.ofCold fun _ => thresholdsOk_factory).trans
      ((Keeps.refl _).report.sustains rfl (·.report))
  · exact .ofCold fun _ => thresholdsOk_factory

theorem coldStart_sustains (restore : Bool) (rate : Nat) (s : State) :
    Sustains s (s.coldStarted restore rate).settle :=
  (coldStarted_sustains restore rate s).trans
    ((Keeps.refl _).settle.sustains (coldStarted_powered restore rate s) (·.settle))

/-- A part in the dark keeps the invariants as its supply goes. -/
theorem Sustains.unpowered (hd : s.dark) : Sustains s { s with powered := false } where
  bounds := id
  ring := id
  table := id
  counts := id
  lamps hs := ⟨fun _ => hd, hs.2⟩
  lights _ hl := hl

theorem powerFailed_sustains (s : State) : Sustains s s.powerFailed :=
  (Sustains.ofCold fun _ => thresholdsOk_factory).trans (.unpowered cold_dark)

/-! ### Every command -/

/-- The part's own warm reset, which a part that is starting does not take (11 R192). -/
theorem warmReset_sustains (s : State) : Sustains s (s.event fun u => if u.starting then u else u.warmReset) := by
  refine event_sustains ?_ fun h => ?_
  · split
    · exact .refl s
    · exact (Keeps.refl s).warmReset
  · split
    · exact h
    · next hs => exact (warmReset_dusk (Bool.eq_false_of_not_eq_true hs)).lights

theorem frameReceived_sustains (bytes : List Byte) (s : State) :
    Sustains s (if s.powered then s.bytesReceived bytes else s) := by
  cases hp : s.powered with
  | false => exact .refl s
  | true => exact (Keeps.refl s).bytesReceived.sustains hp (·.bytesReceived)

/-- A command that is no request. -/
theorem exec_event_sustains {i : Instr} (hi : i.kind?.isSome = false) : exec i s = .next t → Sustains s t := by
  intro he
  cases i
  case coldStart restore rate => cases he; exact coldStart_sustains restore rate s
  case warmReset => cases he; exact warmReset_sustains s
  case powerFail => cases he; exact powerFailed_sustains s
  case lockSwitchChange e => cases he; exact pinEvent_sustains rfl (Keeps.refl s).same (·.same)
  case frameReceived l => cases he; exact frameReceived_sustains l s
  case rxTimeout => cases he; exact timer_sustains (·.rxTimedOut) fun h _ => h.goTo.rxTimedOut
  case transmitFrameEnd => cases he; exact event_sustains (Keeps.refl s).frameEnded (·.frameEnded)
  case storeComplete => cases he; exact event_sustains (Keeps.refl s).storeDone (·.storeDone)
  case guardOpen => cases he; exact guardOpen_sustains s
  case guardClose => cases he; exact pinEvent_sustains rfl (Keeps.refl s).guardClosed (·.guardClosed)
  case leafSensorReport r => cases he; exact pinEvent_sustains rfl (Keeps.refl s).leafReport (·.leafReport)
  case endOfSweep => cases he; exact event_sustains (Keeps.refl s).endCarry (·.endCarry)
  case releaseHeadUp => cases he; exact event_sustains (Keeps.refl s).headUp (·.headUp)
  case armParkMade => cases he; exact pinEvent_sustains rfl (Keeps.refl s).parkMade (·.parkMade)
  case platenUpMade => cases he; exact pinEvent_sustains rfl (Keeps.refl s).upMade (·.upMade)
  case forceReading v => cases he; exact event_sustains (Keeps.refl s).forceRead (·.forceRead)
  case strokeTimeout => cases he; exact timer_sustains (·.phaseTimeout) fun h hd => h.goTo.phaseTimeout hd
  case homeFail => cases he; exact timer_sustains (·.homeLimit) fun h _ => h.goTo.homeLimit
  case dwellExpiry => cases he; exact timer_sustains (·.dwellExpired) fun h _ => h.goTo.dwellExpired
  case bankCurrentFault b r => cases he; exact event_sustains (Keeps.refl s).bankFault (·.bankFault)
  case regulationComparison => cases he; exact timer_sustains (·.compare) fun h _ => h.goTo.compare
  case previewExpiry => cases he; exact timer_sustains (·.endPreview) fun h _ => h.goTo.endPreview
  case sensorReading r => cases he; exact pinEvent_sustains rfl (Keeps.refl s).sensorReading (·.sensorReading)
  case sensorSaturated => cases he; exact event_sustains (Keeps.refl s).tenthSaturated (·.tenthSaturated)
  case sensorDark => cases he; exact event_sustains (Keeps.refl s).fiftiethDark (·.fiftiethDark)
  case ambientAccrual => cases he; exact event_sustains (Keeps.refl s).ambientTick (·.ambientTick)
  case rollover => cases he; exact timer_sustains (·.alarmExpired) fun h _ => h.goTo.alarmExpired
  case settleEnd => cases he; exact timer_sustains (·.settleEnded) fun h _ => h.goTo.settleEnded
  case externalSyncEdge n =>
    cases he
    exact event_sustains ((Keeps.refl s).atDue (·.externalEdge)) fun h => h.atDue fun k _ => k.goTo.externalEdge
  case internalSyncEdge => cases he; exact timer_sustains (·.generatorEdge) fun h _ => h.goTo.generatorEdge
  case syncLoss => cases he; exact timer_sustains (·.sourceLost) fun h _ => h.goTo.sourceLost
  case syncWatchEnd => cases he; exact timer_sustains (·.syncWatchEnded) fun h _ => h.goTo.syncWatchEnded
  case cameraExposing c l r =>
    cases he; exact pinEvent_sustains rfl (Keeps.refl s).cameraExposing (·.cameraExposing)
  case exposureElapsed => cases he; exact timer_sustains (·.exposureElapsed) fun h _ => h.goTo.exposureElapsed
  case exposingTimeout c => cases he; exact timer_sustains (·.camDone) fun h _ => h.goTo.camDone
  case cameraStored c r => cases he; exact pinEvent_sustains rfl (Keeps.refl s).cameraStored (·.cameraStored)
  case frameLimit => cases he; exact timer_sustains (·.framePassed) fun h _ => h.goTo.framePassed
  case backlogAge => cases he; exact timer_sustains (·.retestBacklog) fun h _ => h.goTo.retestBacklog
  case pendantInputChange k b =>
    cases he; exact pinEvent_sustains rfl (Keeps.refl s).inputChange (·.inputChange)
  case keyPress k => cases he; exact timer_sustains (·.keyStable) fun h _ => h.goTo.keyStable
  all_goals exact Bool.noConfusion hi

/-- Every command keeps the invariants; every request does so as a frame that joins the receive queue. -/
theorem exec_sustains {i : Instr} (h : exec i s = .next t) : Sustains s t := by
  cases hi : i.kind?.isSome with
  | true =>
    rw [exec_request hi] at h
    cases h
    exact event_sustains (Keeps.refl s).submit (·.submit)
  | false => exact exec_event_sustains hi h

/-- The clock and the queue of waiting commands are none of the invariants' concern. -/
theorem Sustains.ofClock {n : Nat} {q : List Instr} : Sustains s { s with now := n, pending := q } where
  bounds := id
  ring := id
  table := id
  counts := id
  lamps := id
  lights _ := id

theorem idle_sustains (h : s.idle = .next t) : Sustains s t := by
  unfold State.idle at h
  dsimp only at h
  split at h
  · cases h; exact .refl s
  · split at h
    · cases h
    · split at h
      · split at h
        · cases h; exact .ofClock
        · cases h; exact .ofClock
      · cases h; exact .ofClock

theorem step_sustains (h : step s = .next t) : Sustains s t := by
  unfold step at h
  split at h
  · exact Sustains.trans (.ofClock (q := _)) (exec_sustains h)
  · exact idle_sustains h

/-- Settles O4. -/
theorem stepsKeepTheBounds : Obligations.StepsKeepTheBounds := by
  intro s t h
  exact ⟨(step_sustains h).bounds, (step_sustains h).ring, (step_sustains h).table⟩

/-- Settles O5. -/
theorem stepsKeepTheCounters : Obligations.StepsKeepTheCounters := by
  intro s t hs h
  exact (step_sustains h).counts hs

/-- Settles O6. -/
theorem stepsKeepTheLampsSafe : Obligations.StepsKeepTheLampsSafe := by
  intro s t hs h
  exact ⟨(step_sustains h).lamps hs, (step_sustains h).lights hs⟩

end Sys2Proof.Machine
end

