-- ==== Sys2Proof/Proofs/WholeMachine.lean ====
section
/-! The whole machine: a step runs the front command, every command answers with a next state, time passes on an empty queue
(log entry 2), and what reset leaves (11 R191). -/

namespace Sys2Proof.Machine

variable {s t : State}

/-- Settles O1: the step's own first branch. -/
theorem stepRunsTheFrontCommand : Obligations.StepRunsTheFrontCommand :=
  fun _ _ _ => rfl

/-- Settles O3: every arm of `exec` ends in a next state. -/
theorem everyCommandAnswersNext : Obligations.EveryCommandAnswersNext := by
  intro c s
  cases hk : c.kind?.isSome with
  | true => exact ⟨_, exec_request hk⟩
  | false => cases c <;> exact ⟨_, rfl⟩

/-! ### The timer that ends first (log entry 2) -/

/-- No later timer of a list displaces one that none of them precedes. -/
theorem foldl_earlier_stays {a : Nat × Instr} {l : List (Nat × Instr)} (h : ∀ p ∈ l, a.1 ≤ p.1) :
    l.foldl earlier a = a := by
  induction l with
  | nil => rfl
  | cons p l ih =>
    have hp : a.1 ≤ p.1 := h p List.mem_cons_self
    rw [List.foldl_cons, earlier, if_neg (Nat.not_lt.mpr hp)]
    exact ih fun q hq => h q (List.mem_cons_of_mem p hq)

theorem earlier_eq_or (a b : Nat × Instr) : earlier a b = a ∨ earlier a b = b := by
  unfold earlier
  split
  · exact .inr rfl
  · exact .inl rfl

/-- A timer that ends before all that stand in front of it, and not after those behind it, is the one found. -/
theorem foldl_earlier_reaches {c : Nat × Instr} {before after : List (Nat × Instr)} (ha : ∀ p ∈ after, c.1 ≤ p.1) :
    ∀ {a : Nat × Instr}, c.1 < a.1 → (∀ p ∈ before, c.1 < p.1) → (before ++ c :: after).foldl earlier a = c := by
  induction before with
  | nil =>
    intro a hlt _
    rw [List.nil_append, List.foldl_cons, earlier, if_pos hlt]
    exact foldl_earlier_stays ha
  | cons p l ih =>
    intro a hlt hb
    rw [List.cons_append, List.foldl_cons]
    refine ih ?_ fun q hq => hb q (List.mem_cons_of_mem p hq)
    rcases earlier_eq_or a p with h | h
    · rw [h]; exact hlt
    · rw [h]; exact hb p List.mem_cons_self

/-- The timer found is one of the list. -/
theorem foldl_earlier_mem : ∀ {l : List (Nat × Instr)} {a : Nat × Instr}, l.foldl earlier a ∈ a :: l
  | [], _ => List.mem_cons_self
  | p :: l, a => by
    rw [List.foldl_cons]
    rcases List.mem_cons.mp (foldl_earlier_mem (l := l) (a := earlier a p)) with h | h
    · rw [h]
      rcases earlier_eq_or a p with e | e <;> simp [e]
    · simp [h]

theorem nextTimer?_first {c : Nat × Instr} {before after : List (Nat × Instr)} (ht : s.timers = before ++ c :: after)
    (hb : ∀ p ∈ before, c.1 < p.1) (ha : ∀ p ∈ after, c.1 ≤ p.1) : s.nextTimer? = some c := by
  unfold State.nextTimer?
  rw [ht]
  cases before with
  | nil => exact congrArg some (foldl_earlier_stays ha)
  | cons p l =>
    exact congrArg some
      (foldl_earlier_reaches ha (hb p List.mem_cons_self) fun q hq => hb q (List.mem_cons_of_mem p hq))

theorem nextTimer?_mem {c : Nat × Instr} (h : s.nextTimer? = some c) : c ∈ s.timers := by
  unfold State.nextTimer? at h
  split at h
  · cases h
  · next p l hl =>
    cases h
    rw [hl]
    exact foldl_earlier_mem

/-! ### The idle step (log entries 2 and 29) -/

theorem step_idle (h : s.pending = []) : step s = s.idle := by
  unfold step
  rw [h]

theorem idle_unpowered (hp : s.powered = false) : s.idle = .next s :=
  if_pos hp

/-- A timer that ends by the next whole millisecond has its command queued at its instant. -/
theorem idle_timer {n : Nat} {c : Instr} (hp : s.powered = true) (hc : s.clock < clockLast)
    (ht : s.nextTimer? = some (n, c)) (hn : n ≤ (s.clock + 1) * 1000) :
    s.idle = .next { s.goTo n with pending := [c] } := by
  have hn' : n ≤ atMs (s.clock + 1) := hn
  simp [State.idle, hp, Nat.not_le.mpr hc, ht, hn']

/-- With no timer ending by then the clock goes on to the next whole millisecond. -/
theorem idle_tick (hp : s.powered = true) (hc : s.clock < clockLast)
    (ht : ∀ p ∈ s.timers, (s.clock + 1) * 1000 < p.1) : s.idle = .next (s.goTo ((s.clock + 1) * 1000)) := by
  simp only [State.idle, hp, Bool.true_eq_false, if_false, if_neg (Nat.not_le.mpr hc)]
  split
  · next n c hnext => exact if_neg (Nat.not_le.mpr (ht _ (nextTimer?_mem hnext)))
  · rfl

/-- From the end of start-up on the sensor's reading is one of the timers (04 R75). -/
theorem reading_mem_timers (h : s.starting = false) :
    (if s.di.lastRead = some (s.now / 1000) then (s.now / 1000 + 1) * 1000 else s.now,
      Instr.sensorReading s.pins.sensorRaw) ∈ s.timers := by
  refine List.reduceOption_mem_iff.mpr (List.mem_cons.mpr (.inl ?_))
  rw [State.readingDue?, h]
  rfl

/-- Settles O2, by the branches of the idle step. -/
theorem emptyQueueLetsTimePass : Obligations.EmptyQueueLetsTimePass := by
  intro s hq
  rw [step_idle hq]
  refine ⟨idle_unpowered, reading_mem_timers, fun hp hc => ⟨?timer, fun ht => ?tick⟩⟩
  case timer =>
    intro n c before after ht hn hb ha
    exact idle_timer hp hc (nextTimer?_first ht hb ha) hn
  case tick =>
    rw [idle_tick hp hc ht, State.goTo, hq]

/-! ### Reset (11 R191) -/

/-- Settles O7: the invariants are those of any cold start, and the fields are read off. -/
theorem resetLeavesTheColdStartState : Obligations.ResetLeavesTheColdStartState := by
  refine ⟨⟨cold_bounded, cold_ringSound, cold_tableSound, ?counters, cold_lampsSafe, lightSound_iff.mpr cold_lights⟩,
    ?fields⟩
  case counters => exact cold_countersHold thresholdsOk_factory thresholdsOk_factory rfl
  case fields =>
    refine ⟨rfl, rfl, rfl, rfl, rfl, rfl, rfl, rfl, rfl, rfl, ?banks, rfl, rfl, rfl, rfl, rfl, rfl, rfl, rfl, rfl, rfl, rfl,
      rfl, rfl, rfl, ?faults, rfl, rfl, rfl, rfl, rfl⟩
    case banks => intro b; cases b <;> exact ⟨rfl, rfl, rfl, rfl⟩
    case faults => intro b; cases b <;> rfl

end Sys2Proof.Machine
end

