-- ==== Sys2Proof/Proofs/Frames.lean ====
section
/-! Frames (10 R181 to R189, 12): the frame of a well-formed request is taken as that request, bad frames are dropped and good
ones queued, requests are gated, and the transmitter's choice of the next frame. -/

namespace Sys2Proof

/-! ### The BODY of a well-formed request is read back (12) -/

theorem syncSourceOf_byte (o : Option SyncSource) : syncSourceOf (enumByte syncSourceNumber o) = o := by
  rcases o with _ | _ | _ <;> rfl

theorem bankRefOf_byte (o : Option BankRef) : bankRefOf (bankRefByte o) = o := by
  rcases o with _ | b | _
  · rfl
  · cases b <;> rfl
  · rfl

/-- A request with no fields is read from the empty BODY (12 Table 12-1). -/
theorem parseRequest_noField {kind tag : Byte} {i : Instr} (h : noFieldRequest kind tag = some i) :
    parseRequest kind tag [] = some i := by
  rw [parseRequest, h]
  rfl

/-- A request whose layout chapter 12 gives is read from its BODY field by field. -/
theorem parseRequest_stated {kind tag : Byte} {body : List Byte} {i : Instr} (hn : noFieldRequest kind tag = none)
    (hk : statedKinds.contains kind.toNat = true) (h : statedRequest kind tag body = some i) :
    parseRequest kind tag body = some i := by
  rw [parseRequest, hn]
  exact (if_pos hk).trans h

theorem statedRequest_noticeMask {tag : Byte} {mask : Nat} (h : fits 2 mask = true) :
    statedRequest 0x04#8 tag (beBytes 2 mask) = some (.noticeMask tag mask) :=
  congrArg (some ∘ Instr.noticeMask tag) (beNat_beBytes_two h)

/-- The BODY of a well-formed request is read back as that request (12 R195). -/
theorem parseRequest_body {i : Instr} {kind tag : Byte} {body : List Byte} (hw : i.wf = true)
    (hb : i.body? = some body) (hk : i.kind? = some kind) (ht : i.tag? = some tag) :
    parseRequest kind tag body = some i := by
  cases i
  case noticeMask tag mask =>
    cases hb; cases hk; cases ht
    exact parseRequest_stated rfl rfl (statedRequest_noticeMask hw)
  case patternWrite tag f =>
    cases hb; cases hk; cases ht
    exact parseRequest_stated rfl rfl (congrArg (Option.map (Instr.patternWrite tag)) (parsePattern_body hw))
  case classWrite tag c f =>
    cases hb; cases hk; cases ht
    obtain ⟨hc, hf⟩ := Bool.and_eq_true_iff.mp hw
    refine parseRequest_stated rfl rfl ((congrArg (Option.map _) (parseClassRecord_body hf)).trans ?_)
    rw [byte_toNat hc]
    rfl
  case mount tag f =>
    cases hb; cases hk; cases ht
    exact parseRequest_stated rfl rfl (congrArg (Option.map (Instr.mount tag)) (parseMount_body hw))
  case profileWrite tag n f =>
    cases hb; cases hk; cases ht
    obtain ⟨hn, hf⟩ := Bool.and_eq_true_iff.mp hw
    refine parseRequest_stated rfl rfl ((congrArg (Option.map _) (parseProfileRecord_body hf)).trans ?_)
    rw [byte_toNat hn]
    rfl
  case faultMask tag bank mask =>
    cases hb; cases hk; cases ht
    refine parseRequest_stated rfl rfl (?_ : some (Instr.faultMask _ (faultBankOf _) (BitVec.toNat _)) = _)
    rw [faultBankOf_byte, byte_toNat hw]
  case dismount tag force =>
    cases hb; cases hk; cases ht
    exact parseRequest_stated rfl rfl (congrArg (some ∘ Instr.dismount tag) (yesNo_byte force))
  case syncSelect tag source =>
    cases hb; cases hk; cases ht
    exact parseRequest_stated rfl rfl (congrArg (some ∘ Instr.syncSelect tag) (syncSourceOf_byte source))
  case faultRead tag bank =>
    cases hb; cases hk; cases ht
    exact parseRequest_stated rfl rfl (congrArg (some ∘ Instr.faultRead tag) (bankRefOf_byte bank))
  case faultClear tag bank =>
    cases hb; cases hk; cases ht
    exact parseRequest_stated rfl rfl (congrArg (some ∘ Instr.faultClear tag) (faultBankOf_byte bank))
  case thresholdClear tag bank =>
    cases hb; cases hk; cases ht
    exact parseRequest_stated rfl rfl (congrArg (some ∘ Instr.thresholdClear tag) (faultBankOf_byte bank))
  all_goals
    cases hb <;> cases hk <;> cases ht <;> exact parseRequest_noField rfl

namespace Machine

variable {s : State}

/-! ### The frame of a request (10 R181, R183) -/

/-- A frame of up to 250 bytes of BODY, collected by a hunting receiver. -/
theorem bytesReceived_frame {kind tag c1 c0 : Byte} {body : List Byte} (hr : s.lk.receiver = .hunting)
    (hl : body.length ≤ 250) :
    s.bytesReceived (0xC3#8 :: BitVec.ofNat 8 body.length :: kind :: tag :: (body ++ [c1, c0]))
      = (s.frameComplete (0xC3#8 :: BitVec.ofNat 8 body.length :: kind :: tag :: (body ++ [c1, c0]))).settle := by
  have hlen : (BitVec.ofNat 8 body.length).toNat = body.length := by
    rw [BitVec.toNat_ofNat]
    omega
  have hbody : body ++ [c1, c0] = body ++ [c1] ++ [c0] := by rw [List.append_assoc]; rfl
  rw [bytesReceived_hunting hr, hbody]
  exact collectsFrame hr _ kind tag c0 (body ++ [c1]) (by omega) (by rw [List.length_append, hlen]; rfl)

/-- A frame whose CRC checks joins the receive queue with what its BODY carries. -/
theorem bytesReceived_frameBytes {kind tag : Byte} {body : List Byte} (hr : s.lk.receiver = .hunting)
    (hl : body.length ≤ 250) :
    s.bytesReceived (frameBytes kind tag body)
      = (s.joinQueue { kind := kind, tag := tag, request := parseRequest kind tag body }).settle := by
  have hcrc := crcChecks_frame (BitVec.ofNat 8 body.length) kind tag
    ((crc16 (BitVec.ofNat 8 body.length :: kind :: tag :: body)).extractLsb' 8 8)
    ((crc16 (BitVec.ofNat 8 body.length :: kind :: tag :: body)).extractLsb' 0 8) body
  rw [beq_self_eq_true] at hcrc
  refine (bytesReceived_frame hr hl).trans (congrArg State.settle ?_)
  rw [State.frameComplete, if_pos hcrc, rxFrameOf_frame, hunt_hunting hr]

/-- A request command is its good frame joining the receive queue (log entry 1). -/
theorem submit_request {i : Instr} {kind tag : Byte} (hk : i.kind? = some kind) (ht : i.tag? = some tag) :
    s.submit i = s.joinQueue { kind := kind, tag := tag, request := some i } := by
  rw [State.submit, hk, ht]

/-- Settles O8: both commands are one frame joining the receive queue. -/
theorem framesCarryTheirRequests : Obligations.FramesCarryTheirRequests := by
  intro i kind tag body s hw hb hk ht hr
  refine ⟨_, rfl, ?_⟩
  rw [exec_request (by rw [hk]; rfl), request, State.event, submit_request hk ht,
    bytesReceived_frameBytes hr (body_length hw hb), parseRequest_body hw hb hk ht]

/-! ### Bad frames (10 R183) -/

/-- An effect that is a report, on a part with no frame waiting and a quiet RC, brings the next frame alone. -/
theorem settle_report {c : FaultCode} {d : List Nat} (hq : s.lk.queue = []) (hr : s.runQuiet) :
    (s.report c d).settle = (s.report c d).kick :=
  settle_quiet (by rw [report_queue, hq]) (runQuiet_rc (report_rc s c d) hr)

theorem bytesReceived_badCrc {kind tag c1 c0 : Byte} {body : List Byte} (hs : s.quiet) (hr : s.lk.receiver = .hunting)
    (hl : body.length ≤ 250)
    (hc : [c1, c0] ≠ [(crc16 (BitVec.ofNat 8 body.length :: kind :: tag :: body)).extractLsb' 8 8,
                      (crc16 (BitVec.ofNat 8 body.length :: kind :: tag :: body)).extractLsb' 0 8]) :
    s.bytesReceived (0xC3#8 :: BitVec.ofNat 8 body.length :: kind :: tag :: (body ++ [c1, c0]))
      = (s.report .badCrc [kind.toNat]).kick := by
  obtain ⟨-, hq, hrun⟩ := hs
  have hbad := crcChecks_frame (BitVec.ofNat 8 body.length) kind tag c1 c0 body
  rw [beq_eq_false_iff_ne.mpr hc] at hbad
  rw [bytesReceived_frame hr hl, State.frameComplete, if_neg (by rw [hbad]; exact Bool.false_ne_true), hunt_hunting hr]
  exact settle_report hq hrun

/-- A LEN above 250 ends the frame at its second byte. -/
theorem bytesReceived_badLength {b : Byte} (hs : s.quiet) (hr : s.lk.receiver = .hunting) (hb : 250 < b.toNat) :
    s.bytesReceived [0xC3#8, b] = (s.report .badLength [b.toNat]).kick := by
  obtain ⟨-, hq, hrun⟩ := hs
  have hsync : s.rxByte 0xC3#8 = s.withLk fun l => { l with receiver := .inFrame [0xC3#8] s.now } := by
    rw [State.rxByte, hr]
    rfl
  rw [bytesReceived_hunting hr, List.foldl_cons, hsync, List.foldl_cons, List.foldl_nil]
  have hlen : (s.withLk fun l => { l with receiver := .inFrame [0xC3#8] s.now }).rxByte b
      = (((s.withLk fun l => { l with receiver := .inFrame [0xC3#8] s.now }).hunt).report .badLength [b.toNat]).settle :=
    if_pos ⟨rfl, hb⟩
  rw [hlen, hunt_withLk, hunt_hunting hr]
  exact settle_report hq hrun

/-- The gap inside a frame has passed 20 ms at the instant after. -/
theorem exec_rxTimeout {bytes : List Byte} {last : Nat} (hs : s.quiet) (hr : s.lk.receiver = .inFrame bytes last)
    (hnow : s.endsNow (last + 20001)) :
    exec .rxTimeout s
      = .next (State.report .rxTimeout [bytes.length]
          { s with now := max s.now (last + 20001), lk := { s.lk with receiver := .hunting } }).kick := by
  obtain ⟨hp, hq, hrun⟩ := hs
  have hdue : s.rxDue? = some (last + 20001) := by rw [State.rxDue?, hr]; rfl
  have hdrop : (s.goTo (last + 20001)).rxTimedOut
      = State.report .rxTimeout [bytes.length]
          { s with now := max s.now (last + 20001), lk := { s.lk with receiver := .hunting } } := by
    rw [State.rxTimedOut, goTo_lk, hr]
    rfl
  refine timer_next hp hdue hnow hdrop ?queue ?run
  case queue => rw [report_queue]; exact hq
  case run => exact runQuiet_rc (report_rc _ _ _) hrun

/-! ### A frame that is not taken (10 R184) -/

/-- While a request is in hand, or after a RESET, LK takes nothing. -/
theorem tryTake_held (h : s.lk.inHand.isSome = true ∨ s.lk.resetTaken = true) : s.tryTake = s :=
  h.elim tryTake_inHand tryTake_reset

/-- LK then only begins the next frame, whatever waits in the queue. -/
theorem pump_held (n : Nat) : ∀ {s : State}, s.lk.inHand.isSome = true ∨ s.lk.resetTaken = true →
    pump (n + 1) s = s.kick := by
  induction n with
  | zero =>
    intro s h
    rw [pump, pump, tryTake_held h]
  | succ n ih =>
    intro s h
    rw [pump, tryTake_held h, ih (by rw [kick_inHand, kick_resetTaken]; exact h), kick_kick]

theorem settle_held (hr : s.runQuiet) (h : s.lk.inHand.isSome = true ∨ s.lk.resetTaken = true) : s.settle = s.kick := by
  rw [State.settle, serveRun_quiet hr]
  exact pump_held 2 h

/-- A further good frame joins the queue where it has room, and is else dropped with OVERRUN. -/
theorem exec_held {i : Instr} {kind tag : Byte} (hp : s.powered = true) (hrun : s.runQuiet)
    (hheld : s.lk.inHand.isSome = true ∨ s.lk.resetTaken = true) (hk : i.kind? = some kind) (ht : i.tag? = some tag) :
    exec i s
      = .next (if s.lk.queue.length < 2 then
          ({ s with lk := { s.lk with
              queue := s.lk.queue ++ [{ kind := kind, tag := tag, request := some i }] } } : State).kick
        else (s.report .overrun [kind.toNat]).kick) := by
  rw [exec_request (by rw [hk]; rfl), request, State.event, if_pos hp, submit_request hk ht, State.joinQueue]
  split
  · exact congrArg _ (settle_held hrun hheld)
  · exact congrArg _ (settle_held (runQuiet_rc (report_rc _ _ _) hrun)
      (by rw [report_inHand, report_resetTaken]; exact hheld))

/-- Settles O9. -/
theorem framesAreDroppedAndQueued : Obligations.FramesAreDroppedAndQueued := by
  refine ⟨fun s hs => ⟨?badCrc, ?badLength, ?timeout⟩, ?queued⟩
  case badCrc =>
    intro kind tag c1 c0 body hr hl hc
    exact congrArg _ ((if_pos hs.1).trans (bytesReceived_badCrc hs hr hl hc))
  case badLength =>
    intro b hr hb
    exact congrArg _ ((if_pos hs.1).trans (bytesReceived_badLength hs hr hb))
  case timeout =>
    intro bytes last hr hnow
    exact exec_rxTimeout hs hr hnow
  case queued =>
    intro i kind tag s hp hrun hheld hk ht
    exact exec_held hp hrun hheld hk ht

/-! ### Requests that no block sees (10 R185) -/

/-- A request that LK answers by itself: only the reply goes out. -/
theorem request_answeredByLink {i : Instr} {kind tag : Byte} {r : Reply} (hs : s.takes) (hk : i.kind? = some kind)
    (ht : i.tag? = some tag)
    (hd : (s.holding kind tag).decideFrame ⟨kind, tag, some i⟩ = (s.holding kind tag).putReply r) :
    request i s = .next (s.putReply r).kick := by
  obtain ⟨⟨hp, hq, hrun⟩, -⟩ := id hs
  have hquiet : serveRun runFuel ((s.holding kind tag).decideFrame ⟨kind, tag, some i⟩) = (s.holding kind tag).putReply r := by
    rw [hd]
    exact serveRun_quiet (s := (s.holding kind tag).putReply r) hrun runFuel
  rw [request, State.event, if_pos hp, submit_request hk ht, settle_taken hs ⟨kind, tag, some i⟩ (by rw [hquiet]; exact hq),
    hquiet]
  rfl

/-- With no request in hand a reply fills the slot and changes nothing else. -/
theorem putReply_idle {r : Reply} (h : s.lk.inHand = none) :
    s.putReply r = { s with lk := { s.lk with slot := some r } } := by
  rw [State.putReply, State.withLk, ← h]

theorem decideFrame_unknown {f : RxFrame} (h : knownKind f.kind = false) :
    s.decideFrame f = s.putReply { kind := 0xFF#8, tag := f.tag, result := .unknown, body := [] } := by
  rw [State.decideFrame, h]
  rfl

theorem decideFrame_starting {f : RxFrame} (hk : knownKind f.kind = true) (hs : s.starting = true)
    (ha : answeredAtStart f.kind = false) :
    s.decideFrame f = s.putReply (replyTo f.kind f.tag ⟨.starting, []⟩) := by
  rw [State.decideFrame, hk, hs, ha]
  rfl

/-- Settles O10: LK answers both kinds of request before any block sees them. -/
theorem requestsAreGated : Obligations.RequestsAreGated := by
  refine ⟨?unknown, ?starting⟩
  case unknown =>
    intro tag kind s hs hk
    rw [exec_request rfl, request_answeredByLink hs rfl rfl (decideFrame_unknown hk), putReply_idle hs.2.1]
  case starting =>
    intro i kind tag s hs hstart hk ht hkn h1 h2 h3
    have hclosed : answeredAtStart kind = false := by simp [answeredAtStart, h1, h2, h3]
    rw [exec_request (by rw [hk]; rfl),
      request_answeredByLink hs hk ht (decideFrame_starting hkn hstart hclosed)]
    rfl

/-! ### The transmitter (10 R181, R188, R189) -/

/-- The fields of a frame take no more than the room they have. -/
theorem fieldBytes_length (kind : Byte) (room : Nat) (fields : List Item) : (fieldBytes kind room fields).length ≤ room := by
  rw [fieldBytes, List.length_take]
  exact Nat.min_le_left _ _

theorem body_fits (f : TxFrame) : f.body.length ≤ 250 := by
  cases f with
  | reply r => exact Nat.succ_le_succ (fieldBytes_length _ 249 _)
  | notice k fields => exact fieldBytes_length _ _ _

/-- The earliest pending kind: pending, with none of the kinds before it pending. -/
theorem earliest?_first {k : NoticeKind} (hk : s.lk.pendingSet.getLsbD k.bit = true)
    (hb : ∀ k' : NoticeKind, k'.bit < k.bit → s.lk.pendingSet.getLsbD k'.bit = false) : s.earliest? = some k := by
  have horder : NoticeKind.order = NoticeKind.order.take k.bit ++ k :: NoticeKind.order.drop (k.bit + 1) := by
    cases k <;> rfl
  have hbefore : ∀ k' ∈ NoticeKind.order.take k.bit, k'.bit < k.bit := by
    cases k <;> decide
  rw [State.earliest?, horder]
  exact List.find?_eq_some_iff_append.mpr ⟨hk, _, _, rfl, fun k' h => by rw [hb k' (hbefore k' h)]; rfl⟩

theorem earliest?_none (h : s.lk.pendingSet = 0) : s.earliest? = none := by
  refine List.find?_eq_none.mpr fun k _ => ?_
  rw [h, show (0 : BitVec 12) = 0#12 from rfl, BitVec.getLsbD_zero]
  exact Bool.false_ne_true

/-- The end of a frame that is no reply to the RESET: the next frame begins. -/
theorem exec_transmitFrameEnd {f : TxFrame} (hs : s.quiet) (hf : s.lk.sending = some f) (hr : s.resetReplied = false) :
    exec .transmitFrameEnd s = .next (s.withLk fun l => { l with sending := none }).kick := by
  have hended : s.frameEnded = s.withLk fun l => { l with sending := none } := by
    simp [State.frameEnded, hf, hr]
  exact event_next hs.1 hended hs.2.1 hs.2.2

/-- The end of the OK reply to the RESET: the warm reset begins (R187). -/
theorem exec_transmitFrameEnd_reset {f : TxFrame} (hs : s.quiet) (hf : s.lk.sending = some f)
    (hr : s.resetReplied = true) :
    exec .transmitFrameEnd s = .next (State.warmReset { s with lk := { s.lk with sending := none } }).settle := by
  have hended : s.frameEnded = State.warmReset { s with lk := { s.lk with sending := none } } := by
    simp [State.frameEnded, hf, hr, State.withLk]
  refine congrArg _ ((if_pos hs.1).trans ?_)
  rw [hended]

/-- Settles O11: the bytes of a frame, and the transmitter's choice case by case. -/
theorem transmitterChoosesTheNextFrame : Obligations.TransmitterChoosesTheNextFrame := by
  refine ⟨fun f => ⟨body_fits f, _, rfl, rfl, ?form⟩, fun s f hs hf => ⟨fun hr => ⟨?reply, ?notice, ?nothing⟩, ?reset⟩⟩
  case form =>
    cases f with
    | reply r => exact ⟨rfl, rfl, rfl⟩
    | notice k fields => exact ⟨rfl, rfl⟩
  case reply =>
    intro r hslot
    exact (exec_transmitFrameEnd hs hf hr).trans
      (congrArg _ (kick_reply (s := s.withLk fun l => { l with sending := none }) rfl hslot))
  case notice =>
    intro k hslot hk hb
    exact (exec_transmitFrameEnd hs hf hr).trans
      (congrArg _ (kick_notice (s := s.withLk fun l => { l with sending := none }) rfl hslot (earliest?_first hk hb)))
  case nothing =>
    intro hslot hp
    exact (exec_transmitFrameEnd hs hf hr).trans
      (congrArg _ (kick_idle (s := s.withLk fun l => { l with sending := none }) hslot (earliest?_none hp)))
  case reset => exact exec_transmitFrameEnd_reset hs hf

/-! ### RESET, NOTICE MASK and the lock switch (10 R187, R188, 01 R10) -/

theorem decideNoticeMask_otherBit {mask : Nat} (h : 4096 ≤ mask) : decideNoticeMask mask s = refuse .argument s :=
  if_pos h

theorem decideNoticeMask_writes {mask : Nat} (h : ¬ 4096 ≤ mask) :
    decideNoticeMask mask s = answer .ok [] { s with set := { s.set with noticeMask := BitVec.ofNat 12 mask } } :=
  if_neg (fun hlt => h hlt)

/-- Settles O12. -/
theorem resetMaskAndLock : Obligations.ResetMaskAndLock := by
  refine ⟨?reset, ?mask, ?lock⟩
  case reset =>
    intro tag s hs
    obtain ⟨htakes, hstarted⟩ := hs
    obtain ⟨-, hqueue, hrun⟩ := htakes.1
    rw [exec_request rfl]
    exact request_decided htakes rfl rfl rfl (by rw [hstarted]; rfl) (fun _ => nofun)
      (t := { s with lk := { s.lk with resetTaken := true } }) rfl hqueue hrun
  case mask =>
    intro tag mask s hs
    split
    next h => exact exec_unchanged hs rfl rfl rfl (fun _ => nofun) (decideNoticeMask_otherBit h)
    next h => exact exec_writesSettings hs rfl rfl rfl (fun _ => nofun) (decideNoticeMask_writes h)
  case lock =>
    intro engaged s hs
    exact pinEvent_next hs.1 rfl hs.2.1 hs.2.2

end Machine
end Sys2Proof
end

