-- ==== Sys2Proof/Proofs/SettingsRequests.lean ====
section
/-! Settings are read, written and stored (05 R113, 10 R190, 11 R193, R194): what the decisions are, item by item, and the
answers of a part that serves requests. -/

namespace Sys2Proof.Machine

variable {s : State}

/-! ### LINK STATUS (R190) -/

/-- LINK STATUS finds itself in hand, and no frame waits (log entry 36). -/
theorem decideLinkStatus_reads (tag : Byte) (hq : s.lk.queue = []) :
    decideLinkStatus (s.holding 0x05#8 tag)
      = (s.holding 0x05#8 tag, ⟨.ok,
          [.num s.lk.rate, .num s.lk.receiver.order, .num 0, .flag true, .num 0x05, .num s.lk.pendingSet.toNat,
           .num s.set.noticeMask.toNat]⟩) := by
  rw [decideLinkStatus, holding_queue, hq]
  rfl

theorem exec_linkStatus {tag : Byte} (hs : s.serves) :
    exec (.linkStatus tag) s
      = .next (s.answered 0x05#8 tag ⟨.ok,
          [.num s.lk.rate, .num s.lk.receiver.order, .num 0, .flag true, .num 0x05, .num s.lk.pendingSet.toNat,
           .num s.set.noticeMask.toNat]⟩) :=
  exec_unchanged hs rfl rfl rfl (fun _ => nofun) (decideLinkStatus_reads tag hs.1.1.2.1)

/-! ### SETTINGS READ (R193) -/

/-- SETTINGS READ changes no state, whatever it answers. -/
theorem exec_settingsRead {tag : Byte} {item : Option SettingItem} {a : Answer} (hs : s.serves)
    (hd : decideSettingsRead item (s.holding 0x09#8 tag) = (s.holding 0x09#8 tag, a)) :
    exec (.settingsRead tag item) s = .next (s.answered 0x09#8 tag a) :=
  exec_unchanged hs rfl rfl rfl (fun _ => nofun) hd

/-! ### SETTINGS WRITE (R193, Table 11-3) -/

theorem exec_settingsWrite_refused {tag : Byte} {c : SettingChange} {r : Result} (hs : s.serves)
    (hd : decideSettingsWrite c (s.holding 0x08#8 tag) = refuse r (s.holding 0x08#8 tag)) :
    exec (.settingsWrite tag c) s = .next (s.answeredWith 0x08#8 tag r) :=
  exec_unchanged hs rfl rfl rfl (fun _ => nofun) hd

theorem exec_settingsWrite_writes {tag : Byte} {c : SettingChange} {w : Settings} {a : Answer} (hs : s.serves)
    (hd : decideSettingsWrite c (s.holding 0x08#8 tag) = ({ s.holding 0x08#8 tag with set := w }, a)) :
    exec (.settingsWrite tag c) s = .next (State.answered 0x08#8 tag a { s with set := w }) :=
  exec_writesSettings hs rfl rfl rfl (fun _ => nofun) hd

/-- The clamped flag in one spelling. -/
theorem outside_eq (lo hi v : Nat) : outside lo hi v = decide (v < lo ∨ hi < v) := by
  rw [outside, Bool.decide_or]

theorem decideSettingsWrite_locked {c : SettingChange} (hl : s.pins.lockEngaged = true)
    (hc : (∃ v, c = .k v) ∨ ∃ b v, c = .luxPerStep b v) : decideSettingsWrite c s = refuse .locked s := by
  rcases hc with ⟨v, rfl⟩ | ⟨b, v, rfl⟩ <;> exact if_pos hl

theorem decideSettingsWrite_k {v : Nat} (hl : s.pins.lockEngaged = false) :
    decideSettingsWrite (.k v) s
      = ({ s with set := { s.set with k := max 1 (min 1023 v) } },
          ⟨.ok, [.num (max 1 (min 1023 v)), .flag (decide (v < 1 ∨ 1023 < v))]⟩) := by
  rw [← outside_eq]
  exact if_neg (by rw [hl]; exact Bool.false_ne_true)

theorem decideSettingsWrite_luxPerStep {b : LampBank} {v : Nat} (hl : s.pins.lockEngaged = false) :
    decideSettingsWrite (.luxPerStep b v) s
      = ({ s with set := { s.set with luxPerStep := s.set.luxPerStep.set b (max 1 (min 655 v)) } },
          ⟨.ok, [.num (max 1 (min 655 v)), .flag (decide (v < 1 ∨ 655 < v))]⟩) := by
  rw [← outside_eq]
  exact if_neg (by rw [hl]; exact Bool.false_ne_true)

theorem decideSettingsWrite_dayLength {h : Nat} :
    decideSettingsWrite (.dayLength h) s
      = ({ s with set := { s.set with dayLength := max 1 (min 48 h) } },
          ⟨.ok, [.num (max 1 (min 48 h)), .flag (decide (h < 1 ∨ 48 < h))]⟩) := by
  rw [← outside_eq]
  rfl

/-! ### The sync rate (05 R113) -/

section syncRate
variable {hz : Nat}

theorem isRate_iff : isRate hz = true ↔ hz ∈ [50, 60, 100, 120] := by
  simp [isRate, or_assoc]

theorem decideSettingsWrite_otherRate (h : hz ∉ [50, 60, 100, 120]) :
    decideSettingsWrite (.syncRate hz) s = refuse .argument s := by
  have hrate : isRate hz = false := Bool.eq_false_of_not_eq_true (mt isRate_iff.mp h)
  rw [decideSettingsWrite, hrate]
  rfl

theorem decideSettingsWrite_rateBusy (h : hz ∈ [50, 60, 100, 120])
    (hb : s.ticketOpen = true ∨ s.lc.preview.isSome = true) :
    decideSettingsWrite (.syncRate hz) s = refuse .busy s := by
  simp only [decideSettingsWrite, isRate_iff.mpr h, Bool.not_true, Bool.false_eq_true, if_false]
  exact if_pos (Bool.or_eq_true_iff.mpr hb)

theorem decideSettingsWrite_rate (h : hz ∈ [50, 60, 100, 120]) (ho : s.ticketOpen = false)
    (hp : s.lc.preview = none) :
    decideSettingsWrite (.syncRate hz) s = (s.setRate hz, ⟨.ok, [.num hz, .flag false]⟩) := by
  simp only [decideSettingsWrite, isRate_iff.mpr h, ho, hp]
  rfl

/-- A new rate outside detection changes the rate alone; during detection the watch restarts as well (log entry 44). -/
theorem setRate_eq (s : State) (hz : Nat) :
    s.setRate hz
      = { s with
          set := { s.set with syncRate := hz }
          cc := if s.cc.sync.state = .detecting then { s.cc with sync := { s.cc.sync with
              goodCount := 0, found := false, watchEnd := s.now + 500000, lastExt := none, gen := none } }
            else s.cc } := by
  unfold State.setRate
  split
  next hd =>
    rw [State.beginDetection, State.withSync, ← hd]
    rfl
  next => rfl

/-- The loss test of an external source runs from its last edge (R108). -/
theorem lossDue?_external (h : s.cc.sync.state = .external ∨ s.cc.sync.state = .manualExternal) :
    s.lossDue? = s.cc.sync.lastExt.map fun edge => edge + lossUs s.set.syncRate := by
  unfold State.lossDue?
  rcases h with h | h <;> rw [h] <;> cases s.cc.sync.lastExt <;> rfl

theorem exec_settingsWrite_rate {tag : Byte} (hs : s.serves) (h : hz ∈ [50, 60, 100, 120]) (ho : s.ticketOpen = false)
    (hp : s.lc.preview = none) :
    exec (.settingsWrite tag (.syncRate hz)) s
      = .next (State.answered 0x08#8 tag ⟨.ok, [.num hz, .flag false]⟩ (s.setRate hz)) := by
  refine exec_decided hs rfl rfl rfl (fun _ => nofun)
    ((decideSettingsWrite_rate (s := s.holding 0x08#8 tag) h ho hp).trans ?held) ?lk ?rc
  case held => rw [setRate_eq, setRate_eq]; rfl
  case lk => rw [setRate_eq]
  case rc => rw [setRate_eq]

end syncRate

/-- Settles O14, item by item of the two decisions. -/
theorem settingsAreReadAndWritten : Obligations.SettingsAreReadAndWritten := by
  refine ⟨?reads, ?writes⟩
  case reads =>
    intro tag s hs
    refine ⟨?link, exec_settingsRead hs rfl, exec_settingsRead hs rfl, fun b => exec_settingsRead hs rfl,
      exec_settingsRead hs rfl, exec_settingsRead hs rfl, exec_settingsRead hs rfl, exec_settingsRead hs rfl⟩
    case link =>
      rw [exec_linkStatus hs]
      cases s.lk.receiver <;> rfl
  case writes =>
    intro tag s hs
    refine ⟨fun v => ?k, fun b v => ?luxPerStep, fun h => exec_settingsWrite_writes hs decideSettingsWrite_dayLength,
      fun hz h => exec_settingsWrite_refused hs (decideSettingsWrite_otherRate h),
      fun hz h hb => exec_settingsWrite_refused hs (decideSettingsWrite_rateBusy h hb), fun hz h ho hp => ?rate,
      fun m => exec_settingsWrite_writes hs rfl, exec_settingsWrite_refused hs rfl, exec_settingsWrite_refused hs rfl,
      exec_settingsWrite_refused hs rfl⟩
    case k =>
      split
      next hl => exact exec_settingsWrite_refused hs (decideSettingsWrite_locked hl (.inl ⟨v, rfl⟩))
      next hl => exact exec_settingsWrite_writes hs (decideSettingsWrite_k (Bool.eq_false_of_not_eq_true hl))
    case luxPerStep =>
      split
      next hl => exact exec_settingsWrite_refused hs (decideSettingsWrite_locked hl (.inr ⟨b, v, rfl⟩))
      next hl => exact exec_settingsWrite_writes hs (decideSettingsWrite_luxPerStep (Bool.eq_false_of_not_eq_true hl))
    case rate =>
      refine ⟨_, rfl, ?_, fun hd => ⟨?edge, fun he => ?loss⟩⟩
      · rw [exec_settingsWrite_rate hs h ho hp, setRate_eq]
      case edge => rw [State.edgeDue?, if_neg hd]; rfl
      case loss => rw [lossDue?_external (by rw [if_neg hd]; exact he), if_neg hd]; rfl

/-! ### STORE (R194) -/

/-- STORE is taken: the copy is made, and the request stays in hand. -/
theorem decideFrame_store {tag : Byte} (h : s.starting = false) :
    s.decideFrame ⟨0x0A#8, tag, some (.store tag)⟩ = s.beginStore := by
  simp only [State.decideFrame, h]
  rfl

theorem exec_store {tag : Byte} (hs : s.serves) :
    exec (.store tag) s = .next (s.holding 0x0A#8 tag).beginStore.kick := by
  obtain ⟨htakes, hstarted⟩ := hs
  obtain ⟨hp, hq, hrun⟩ := htakes.1
  have hd : serveRun runFuel ((s.holding 0x0A#8 tag).decideFrame ⟨0x0A#8, tag, some (.store tag)⟩)
      = (s.holding 0x0A#8 tag).beginStore := by
    rw [decideFrame_store (s := s.holding 0x0A#8 tag) hstarted]
    exact serveRun_quiet (s := (s.holding 0x0A#8 tag).beginStore) hrun runFuel
  rw [exec_request rfl, request, State.event, if_pos hp, submit_request rfl rfl,
    settle_taken htakes ⟨0x0A#8, tag, some (.store tag)⟩ (by rw [hd]; exact hq), hd]

/-- A write that completes with its STORE in hand: the copy stands, and the reply goes out. -/
theorem storeDone_replies {tag : Byte} {copy : Settings} {began : Nat} (hw : s.ss.writing = some (copy, began))
    (hi : s.lk.inHand = some (0x0A#8, tag)) :
    s.storeDone
      = State.putReply (replyTo 0x0A#8 tag ⟨.ok, [.time (some (s.now / 1000))]⟩)
          { s with ss := { copy := copy, crcGood := true, writing := none, lastStore := some (s.now / 1000) } } := by
  simp only [State.storeDone, hw, hi]
  rfl

/-- Settles O15. -/
theorem storeWritesTheWorkingSettings : Obligations.StoreWritesTheWorkingSettings := by
  refine ⟨fun tag s hs => exec_store hs, ?completes⟩
  case completes =>
    intro tag copy began s hs hw hi
    exact event_next hs.1 (storeDone_replies hw hi) hs.2.1 hs.2.2

end Sys2Proof.Machine
end

