-- ==== Sys2Proof/Proofs/FaultBanks.lean ====
section
/-! The fault banks (09): what a report does to its bank (R171, R172, R176), and the requests FB takes (R172, R174, R175, R177,
R178). -/

namespace Sys2Proof.Machine

variable {s : State}

/-! ### A report (R171, R172, R176) -/

theorem PerFaultBank.set_get {α : Type} (p : PerFaultBank α) (b : FaultBank) : p.set b (p.get b) = p := by
  cases b <;> rfl

theorem PerFaultBank.set_set {α : Type} (p : PerFaultBank α) (b : FaultBank) (v w : α) :
    (p.set b v).set b w = p.set b w := by
  cases b <;> rfl

/-- The record of a bank after an unmasked report: R171's three cases. -/
def recordAfter (s : State) (code : FaultCode) (detail : List Nat) : FaultRecord :=
  match (s.fb.banks.get code.bank).record with
  | none =>
    { overflow := false, code := code, detail := detail, time := s.clock, mountNo := s.sau.volume.map Volume.mountNo }
  | some old =>
    if old.code.severity.rank < code.severity.rank then
      { overflow := true, code := code, detail := detail, time := s.clock, mountNo := s.sau.volume.map Volume.mountNo }
    else { old with overflow := true }

/-- An unmasked report sets its bank's record, and nothing else of the banks. -/
theorem recordFault_fb (s : State) (code : FaultCode) (detail : List Nat) :
    (s.recordFault code detail).fb
      = { banks := s.fb.banks.set code.bank
            { (s.fb.banks.get code.bank) with record := some (recordAfter s code detail) } } := by
  unfold State.recordFault
  dsimp only
  split
  next hnone =>
    rw [notifyWith_fb, recordAfter, hnone]
    rfl
  next old hold =>
    split
    next hrank =>
      rw [notifyWith_fb, recordAfter, hold]
      simp only [if_pos hrank]
      rfl
    next hrank =>
      have hafter : recordAfter s code detail = { old with overflow := true } := by
        rw [recordAfter, hold]
        exact if_neg hrank
      rw [hafter]
      split
      next hover =>
        rw [show ({ old with overflow := true } : FaultRecord) = old by rw [← hover], ← hold, PerFaultBank.set_get]
      next =>
        rw [notifyWith_fb]
        rfl

theorem report_unmasked {code : FaultCode} {detail : List Nat}
    (h : (s.set.faultMasks.get code.bank).getLsbD code.bit = true) :
    s.report code detail
      = if code = thresholdKind code.bank then
          (s.recordFault code detail).recount code.bank
            (satAdd 4095 ((s.recordFault code detail).fb.banks.get code.bank).count 1)
        else s.recordFault code detail :=
  if_pos h

/-- What an unmasked report makes of the banks: the record, and the count of the bank's threshold kind with its flag. -/
theorem report_fb {code : FaultCode} {detail : List Nat}
    (h : (s.set.faultMasks.get code.bank).getLsbD code.bit = true) :
    (s.report code detail).fb
      = { banks := s.fb.banks.set code.bank
            { record := some (recordAfter s code detail)
              count := if code = thresholdKind code.bank then min 4095 ((s.fb.banks.get code.bank).count + 1)
                else (s.fb.banks.get code.bank).count
              crossed := if code = thresholdKind code.bank then
                  decide (s.set.thresholds.get code.bank ≤ min 4095 ((s.fb.banks.get code.bank).count + 1))
                else (s.fb.banks.get code.bank).crossed } } := by
  rw [report_unmasked h]
  by_cases hkind : code = thresholdKind code.bank
  · rw [if_pos hkind, recount_eq]
    simp only [if_pos hkind, recordFault_fb, PerFaultBank.get_set_same, PerFaultBank.set_set, recordFault_set]
    rfl
  · simp only [if_neg hkind, recordFault_fb]

/-- Settles O18: the masked report, and what an unmasked one makes of its bank. -/
theorem reportsAreRankedAndCounted : Obligations.ReportsAreRankedAndCounted :=
  fun code detail s => ⟨report_masked, fun h => ⟨report_fb h, report_frame s code detail⟩⟩

/-! ### FAULT READ, FAULT CLEAR, FAULT MASK (R172, R174, R175) -/

theorem bankBytes_eq (s : State) (b : FaultBank) :
    s.bankBytes b
      = faultRecordBytes (s.fb.banks.get b).record ++ [s.set.faultMasks.get b] ++ beBytes 2 (s.fb.banks.get b).count
        ++ beBytes 2 (s.set.thresholds.get b) ++ [BitVec.ofNat 8 (s.fb.banks.get b).crossed.toNat] := by
  cases hc : (s.fb.banks.get b).crossed <;> simp only [State.bankBytes, faultBankBytes, hc] <;> rfl

theorem allBankBytes_eq (s : State) :
    s.bankBytes .turn ++ s.bankBytes .lamp ++ s.bankBytes .capture ++ s.bankBytes .link ++ s.bankBytes .account
      = [FaultBank.turn, .lamp, .capture, .link, .account].flatMap s.bankBytes := by
  simp

theorem exec_faultRead {tag : Byte} {bank : Option BankRef} {a : Answer} (hs : s.serves)
    (hd : decideFaultRead bank (s.holding 0x58#8 tag) = (s.holding 0x58#8 tag, a)) :
    exec (.faultRead tag bank) s = .next (s.answered 0x58#8 tag a) :=
  exec_unchanged hs rfl rfl rfl (fun _ => nofun) hd

theorem decideFaultMask_otherBank {b : FaultBank} {mask : Nat} (h : ¬ mask < 2 ^ codeCount b) :
    decideFaultMask (some b) mask s = refuse .argument s :=
  if_pos (Nat.not_lt.mp h)

theorem decideFaultMask_writes {b : FaultBank} {mask : Nat} (h : mask < 2 ^ codeCount b) :
    decideFaultMask (some b) mask s
      = answer .ok [] { s with set := { s.set with faultMasks := s.set.faultMasks.set b (BitVec.ofNat 8 mask) } } :=
  if_neg (Nat.not_le.mpr h)

theorem exec_faultMask {tag : Byte} {b : FaultBank} {mask : Nat} (hs : s.serves) :
    exec (.faultMask tag (some b) mask) s
      = .next (if mask < 2 ^ codeCount b then
          State.answeredWith 0x5A#8 tag .ok
            { s with set := { s.set with faultMasks := s.set.faultMasks.set b (BitVec.ofNat 8 mask) } }
        else s.answeredWith 0x5A#8 tag .argument) := by
  split
  next h => exact exec_writesSettings hs rfl rfl rfl (fun _ => nofun) (decideFaultMask_writes h)
  next h => exact exec_unchanged hs rfl rfl rfl (fun _ => nofun) (decideFaultMask_otherBank h)

/-! ### THRESHOLD SET and THRESHOLD CLEAR (R177, R178) -/

/-- A recount whose flag does not go from clear to set makes no notice pending. -/
theorem recount_quiet {b : FaultBank} {n : Nat}
    (h : (decide (s.set.thresholds.get b ≤ n) && !(s.fb.banks.get b).crossed) = false) :
    s.recount b n
      = { s with
          fb := { banks := s.fb.banks.set b { (s.fb.banks.get b) with
            count := n, crossed := decide (s.set.thresholds.get b ≤ n) } } } :=
  if_neg (by rw [h]; exact Bool.false_ne_true)

/-- A count of 0 is below every threshold. -/
theorem decideThresholdClear_clears {b : FaultBank} (hc : s.countersHold) :
    decideThresholdClear (some b) s
      = answer .ok [.num (s.fb.banks.get b).count]
          { s with fb := { banks := s.fb.banks.set b { (s.fb.banks.get b) with count := 0, crossed := false } } } := by
  obtain ⟨-, hthresholds, -⟩ := hc
  have hbelow : decide (s.set.thresholds.get b ≤ 0) = false := decide_eq_false (by have := (hthresholds b).1; omega)
  rw [decideThresholdClear, recount_quiet (by rw [hbelow]; rfl), hbelow]

theorem exec_thresholdClear {tag : Byte} {b : FaultBank} (hs : s.serves) (hc : s.countersHold) :
    exec (.thresholdClear tag (some b)) s
      = .next (State.answered 0x5C#8 tag ⟨.ok, [.num (s.fb.banks.get b).count]⟩
          { s with fb := { banks := s.fb.banks.set b { (s.fb.banks.get b) with count := 0, crossed := false } } }) :=
  exec_decided hs rfl rfl rfl (fun _ => nofun) (decideThresholdClear_clears (s := s.holding 0x5C#8 tag) hc) rfl rfl

/-- The state after a THRESHOLD SET: the threshold taken, and the count tested against it. -/
def State.withThreshold (b : FaultBank) (v : Nat) (s : State) : State :=
  State.recount b (s.fb.banks.get b).count
    { s with set := { s.set with thresholds := s.set.thresholds.set b (max 1 (min 4095 v)) } }

theorem decideThresholdSet_sets (b : FaultBank) (v : Nat) (s : State) :
    decideThresholdSet (some b) v s
      = (s.withThreshold b v, ⟨.ok,
          [.num (max 1 (min 4095 v)), .flag (decide (v < 1 ∨ 4095 < v)), .num (s.fb.banks.get b).count,
           .flag (decide (max 1 (min 4095 v) ≤ (s.fb.banks.get b).count))]⟩) := by
  rw [← outside_eq]
  rfl

theorem withThreshold_set (b : FaultBank) (v : Nat) (s : State) :
    (s.withThreshold b v).set = { s.set with thresholds := s.set.thresholds.set b (max 1 (min 4095 v)) } := by
  rw [State.withThreshold, recount_set]

theorem withThreshold_fb (b : FaultBank) (v : Nat) (s : State) :
    (s.withThreshold b v).fb = { banks := s.fb.banks.set b { (s.fb.banks.get b) with
      crossed := decide (max 1 (min 4095 v) ≤ (s.fb.banks.get b).count) } } := by
  rw [State.withThreshold, recount_eq]
  simp only [PerFaultBank.get_set_same]

/-- Beyond the threshold and its bank only LK's part can differ: a flag that comes up makes its notice pending. -/
theorem withThreshold_frame (b : FaultBank) (v : Nat) (s : State) :
    s.withThreshold b v
      = { s with set := (s.withThreshold b v).set, fb := (s.withThreshold b v).fb, lk := (s.withThreshold b v).lk } := by
  rw [State.withThreshold, recount_eq]

theorem exec_thresholdSet {tag : Byte} {b : FaultBank} {v : Nat} (hs : s.serves) :
    exec (.thresholdSet tag (some b) v) s
      = .next (((s.holding 0x5B#8 tag).withThreshold b v).answered 0x5B#8 tag ⟨.ok,
          [.num (max 1 (min 4095 v)), .flag (decide (v < 1 ∨ 4095 < v)), .num (s.fb.banks.get b).count,
           .flag (decide (max 1 (min 4095 v) ≤ (s.fb.banks.get b).count))]⟩) := by
  obtain ⟨htakes, hstarted⟩ := hs
  obtain ⟨-, hqueue, hrun⟩ := htakes.1
  rw [exec_request rfl]
  refine request_next htakes rfl rfl rfl (by rw [hstarted]; rfl) (fun _ => nofun) (decideThresholdSet_sets b v _) ?_ ?_
  · rw [State.withThreshold, recount_queue]; exact hqueue
  · exact runQuiet_rc (recount_rc _ _ _) hrun

/-- Settles O19, request by request. -/
theorem faultBanksTakeTheirRequests : Obligations.FaultBanksTakeTheirRequests := by
  refine ⟨fun tag s hs => ⟨fun b => ?readOne, ?readAll, exec_faultRead hs rfl, fun b => ?clear, ?clearNone,
      fun b mask => exec_faultMask hs, fun mask => ?maskNone⟩,
    fun tag s hs hc => ⟨fun b v => ?set, fun b => exec_thresholdClear hs hc, fun v => ?setNone, ?thresholdNone⟩⟩
  case readOne =>
    rw [← bankBytes_eq]
    exact exec_faultRead hs rfl
  case readAll =>
    simp only [← bankBytes_eq]
    rw [← allBankBytes_eq]
    exact exec_faultRead hs rfl
  case clear => exact exec_decided hs rfl rfl rfl (fun _ => nofun) rfl rfl rfl
  case clearNone => exact exec_unchanged hs rfl rfl rfl (fun _ => nofun) rfl
  case maskNone => exact exec_unchanged hs rfl rfl rfl (fun _ => nofun) rfl
  case set =>
    refine ⟨_, exec_thresholdSet hs, ?_, ?_, ?_, fun hidle => ?_⟩
    · rw [answered_set]; exact withThreshold_set b v _
    · rw [answered_fb]; exact withThreshold_fb b v _
    · refine State.ext_fields ?_ ?_ ?_ ?_ rfl ?_ ?_ ?_ ?_ ?_ ?_ ?_ rfl rfl ?_ ?_ <;>
        simp [State.withThreshold]
    · exact answered_sending _ _ _ _ (by rw [State.withThreshold, recount_sending]; exact hidle)
  case setNone => exact exec_unchanged hs rfl rfl rfl (fun _ => nofun) rfl
  case thresholdNone => exact exec_unchanged hs rfl rfl rfl (fun _ => nofun) rfl

end Sys2Proof.Machine
end

