-- ==== Sys2Proof/Proofs/Power.lean ====
section
/-! The supply fails and returns (10 R182, 11 R191, R194): the state a cold start begins in, by the restore strap and the
store. -/

namespace Sys2Proof.Machine

variable {s : State} {restore : Bool} {rate : Nat}

/-! ### Cold start, by the restore strap and the store (11 R191 step 1) -/

/-- The pins of a part whose straps are read. -/
def State.strapped (restore : Bool) (rate : Nat) (s : State) : Pins :=
  { s.pins with restoreStrap := restore, rateStrap := rate }

theorem coldStarted_factory :
    s.coldStarted false rate
      = State.cold (s.strapped false rate) (rateOf rate) Settings.factory .factory s.ss.powerLost s.pending :=
  rfl

theorem coldStarted_restored (h : s.ss.powerLost.crcGood = true) :
    s.coldStarted true rate
      = State.cold (s.strapped true rate) (rateOf rate) s.ss.copy .restored s.ss.powerLost s.pending :=
  if_pos h

theorem coldStarted_crcBad (h : s.ss.powerLost.crcGood = false) :
    s.coldStarted true rate
      = (State.cold (s.strapped true rate) (rateOf rate) Settings.factory .factoryCrcBad s.ss.powerLost
          s.pending).report .storeCrc [] :=
  if_neg (by rw [h]; exact Bool.false_ne_true)

/-- After a failed supply the stored copy's CRC checks if it did and no write was in progress (11 R194). -/
theorem powerLost_crcGood (x : Ss) : x.powerLost.crcGood = true ↔ x.crcGood = true ∧ x.writing = none := by
  rw [Ss.powerLost, Bool.and_eq_true, Option.isNone_iff_eq_none]

theorem powerLost_crcBad {x : Ss} (h : x.crcGood = false ∨ x.writing.isSome = true) : x.powerLost.crcGood = false := by
  refine Bool.eq_false_of_not_eq_true fun hgood => ?_
  obtain ⟨hcrc, hnone⟩ := (powerLost_crcGood x).mp hgood
  rcases h with h | h
  · rw [hcrc] at h; cases h
  · rw [hnone] at h; cases h

/-- The blocks at their cold-start values, whatever settings are loaded and whatever is reported of them. -/
def State.atColdStart (rate : Nat) (q : List Instr) (t : State) : Prop :=
  t.now = 0 ∧ t.powered = true ∧ t.start.phase = .detecting ∧ t.cc.sync.state = .detecting ∧ t.lk.rate = rateOf rate
  ∧ t.sau.volume = none ∧ t.sau.tally = none ∧ t.di.carry = [] ∧ t.cc.tickets = [] ∧ t.cc.nextSerial = 1
  ∧ t.rc.state = .idle ∧ t.tc.state = .homing ∧ t.pending = q

theorem coldStarted_atColdStart : (s.coldStarted restore rate).atColdStart rate s.pending := by
  unfold State.coldStarted
  dsimp only
  split_ifs
  · exact ⟨rfl, rfl, rfl, rfl, rfl, rfl, rfl, rfl, rfl, rfl, rfl, rfl, rfl⟩
  · simp only [State.atColdStart, report_now, report_powered, report_start, report_cc, report_rate, report_sau, report_di,
      report_rc, report_tc, report_pending]
    exact ⟨rfl, rfl, rfl, rfl, rfl, rfl, rfl, rfl, rfl, rfl, rfl, rfl, rfl⟩
  · exact ⟨rfl, rfl, rfl, rfl, rfl, rfl, rfl, rfl, rfl, rfl, rfl, rfl, rfl⟩

/-- The report of a bad store at cold start is the first record of its bank (09 R171). -/
theorem cold_storeCrc_record (pins : Pins) (x : Ss) (q : List Instr) :
    ((State.cold pins (rateOf rate) Settings.factory .factoryCrcBad x q).report .storeCrc []).fb.banks.account.record
      = some { overflow := false, code := .storeCrc, detail := [], time := 0, mountNo := none } := by
  have hmask : (Settings.factory.faultMasks.get FaultCode.storeCrc.bank).getLsbD FaultCode.storeCrc.bit = true := by decide
  rw [report_fb (s := State.cold pins (rateOf rate) Settings.factory .factoryCrcBad x q) (code := .storeCrc) hmask]
  simp [recordAfter, State.cold, Fb.cold, FaultBankState.cold, Sau.cold, State.clock, PerFaultBank.set, PerFaultBank.get,
    FaultCode.bank]

/-- A cold start brings its own effect and the next frame: no frame waits, and RC has nothing to take up. -/
theorem exec_coldStart : exec (.coldStart restore rate) s = .next (s.coldStarted restore rate).kick := by
  have hquiet : (s.coldStarted restore rate).lk.queue = [] ∧ (s.coldStarted restore rate).rc = Rc.cold := by
    unfold State.coldStarted
    dsimp only
    split_ifs
    · exact ⟨rfl, rfl⟩
    · rw [report_queue, report_rc]
      exact ⟨rfl, rfl⟩
    · exact ⟨rfl, rfl⟩
  refine congrArg _ (settle_quiet hquiet.1 ?_)
  unfold State.runQuiet State.runActive
  rw [hquiet.2]
  exact ⟨rfl, rfl, nofun⟩

/-- Settles O16, by the restore strap and the store. -/
theorem powerFailsAndReturns : Obligations.PowerFailsAndReturns := by
  refine ⟨fun restore rate s _ => ⟨_, exec_coldStart, ?starts⟩, fun s rate hw => ⟨_, rfl, rfl, ?lost, rfl, _,
    exec_coldStart, ?reloads⟩⟩
  case starts =>
    obtain ⟨hnow, hpower, hphase, hsync, hrate, hvolume, htally, hcarry, htickets, hserial, hrun, htc, hpending⟩ :=
      coldStarted_atColdStart (s := s) (restore := restore) (rate := rate)
    simp only [kick_now, kick_powered, kick_start, kick_cc, kick_rate, kick_sau, kick_di, kick_rc, kick_tc, kick_pending,
      kick_set, kick_fb, kick_lc]
    refine ⟨hnow, hpower, hphase, hsync, hrate, hvolume, htally, hcarry, htickets, hserial, hrun, htc, hpending, ?factory,
      ?restored, ?crcBad⟩
    case factory =>
      rintro rfl
      exact ⟨rfl, rfl, rfl⟩
    case restored =>
      rintro rfl hcrc hwriting
      rw [coldStarted_restored ((powerLost_crcGood s.ss).mpr ⟨hcrc, hwriting⟩)]
      exact ⟨rfl, rfl, rfl, rfl, rfl⟩
    case crcBad =>
      rintro rfl hbad
      rw [coldStarted_crcBad (powerLost_crcBad hbad), report_set, report_start, cold_storeCrc_record]
      exact ⟨rfl, rfl, rfl⟩
  case lost => exact powerLost_crcBad (.inr hw)
  case reloads =>
    rw [coldStarted_crcBad (s := s.powerFailed) (powerLost_crcBad (.inl (powerLost_crcBad (.inr hw))))]
    simp only [kick_set, kick_start, kick_fb, report_set, report_start, cold_storeCrc_record]
    exact ⟨rfl, rfl, rfl⟩

end Sys2Proof.Machine
end

