-- ==== Sys2Proof/Proofs/WarmReset.lean ====
section
/-! The warm reset (02 R55, 08 R165 to R169, 11 R192): its steps as states of their own, what each leaves, and the tally it
draws up. -/

namespace Sys2Proof.Machine

variable {s : State}

/-! ### The tally of a completed dismount (08 R165, R166) -/

/-- The tally that a dismount for a cause draws up, after the forced steps where it is not one by request. -/
def State.closingTally (v : Volume) (c : TallyCause) (s : State) : Tally :=
  (if c = .dismount then s else s.forceSides v).buildTally v c
    (if c = .dismount then 0 else heldCount v s.sau.openings)

/-- A completed dismount leaves no volume, no opening table, and the tally. -/
theorem completeDismount_sau {v : Volume} (hv : s.sau.volume = some v) (c : TallyCause) :
    (s.completeDismount c).sau
      = { s.sau with volume := none, openings := [], tally := some (s.closingTally v c) } := by
  unfold State.completeDismount
  rw [hv]
  cases c <;> simp [State.closingTally, State.forceSides, State.orphan]

theorem completeDismount_tc {v : Volume} (hv : s.sau.volume = some v) (c : TallyCause) :
    (s.completeDismount c).tc = s.tc.dismounted c := by
  unfold State.completeDismount
  rw [hv]
  cases c <;> simp [State.forceSides, State.orphan]

theorem completeDismount_unmounted (hv : s.sau.volume = none) (c : TallyCause) : s.completeDismount c = s := by
  unfold State.completeDismount
  rw [hv]

/-- Whatever is mounted, no volume is after a completed dismount. -/
theorem completeDismount_volume (s : State) (c : TallyCause) : (s.completeDismount c).sau.volume = none := by
  cases hv : s.sau.volume with
  | none => rw [completeDismount_unmounted hv, hv]
  | some v => rw [completeDismount_sau hv]

/-- The tally of a state that agrees with an earlier one on what Table 8-2 takes is the earlier one's. -/
theorem closingTally_closes {u : State} {v : Volume} {c : TallyCause} (hv : s.sau.volume = some v)
    (hl : s.sau.openings.length = v.n + 1) (ho : u.sau = s.sau) (hn : u.now = s.now)
    (hd : u.di.dayDose = s.di.dayDose ∧ u.di.carriedIn = s.di.carriedIn)
    (ht : u.tc.turnsDone = s.tc.turnsDone ∧ u.tc.missRetries = s.tc.missRetries
      ∧ u.tc.doubleRetries = s.tc.doubleRetries) (hr : u.rc.volumeSkips = s.rc.volumeSkips) :
    (u.closingTally v c).closes v c s := by
  rw [State.closingTally, ho]
  cases c <;> exact buildTally_closes hv hl (by simp [State.forceSides, State.orphan, ho]) hn hd ht hr

/-! ### The steps of the reset (11 R192) -/

/-- Steps 1 and 2: the run is ended, a preview and a capture are cut, and the banks are dark. -/
def State.resetCut (s : State) : State :=
  (((s.withRc Rc.aborted).endPreview .reset).abandonCapture).banksDark

/-- Step 4: LK is empty, PS takes its inputs as read, and RC has nothing to hear. -/
def State.resetLink (s : State) : State :=
  { s with
    lk := s.lk.afterReset
    ps := Ps.asRead s.pins.keys s.ps.lastLocal
    rc := { s.rc with heardEnd := none, heardClose := none }
    cc := { s.cc with backlog := false } }

theorem warmReset_stroke (h : s.tc.state.armStroke = true) :
    s.warmReset = s.resetCut.beginResetStroke.resetLink := by
  simp only [State.warmReset, h, if_true]
  rfl

theorem warmReset_resting (h : s.tc.state.armStroke = false) :
    s.warmReset = s.resetCut.completeResetDismount.resetLink.homeAfterReset := by
  simp only [State.warmReset, h, Bool.false_eq_true, if_false]
  rfl

/-- What a warm reset leaves as it was, wherever the arm stands, and what it leaves of the run, the lamps, CC and LK. -/
def resetLeaves (s t : State) : Prop :=
  (t.rc.state = s.rc.aborted.state ∧ t.lc.preview = none ∧ t.cc.state = .idle)
  ∧ (t.now = s.now ∧ t.set = s.set ∧ t.ss = s.ss ∧ t.di.dayStart = s.di.dayStart ∧ t.di.alarm = s.di.alarm
    ∧ t.di.remainder = s.di.remainder ∧ t.cc.nextSerial = s.cc.nextSerial ∧ t.cc.sync = s.cc.sync
    ∧ t.sau.mountCounter = s.sau.mountCounter ∧ t.lk.rate = s.lk.rate)

/-- The two states agree on everything that `resetLeaves` speaks of. -/
def resetAlike (t u : State) : Prop :=
  u.rc.state = t.rc.state ∧ u.lc = t.lc ∧ u.cc.state = t.cc.state ∧ u.now = t.now ∧ u.set = t.set ∧ u.ss = t.ss
  ∧ u.di.dayStart = t.di.dayStart ∧ u.di.alarm = t.di.alarm ∧ u.di.remainder = t.di.remainder
  ∧ u.cc.nextSerial = t.cc.nextSerial ∧ u.cc.sync = t.cc.sync ∧ u.sau.mountCounter = t.sau.mountCounter
  ∧ u.lk.rate = t.lk.rate

theorem resetLeaves.to {t u : State} (h : resetLeaves s t) (k : resetAlike t u) : resetLeaves s u := by
  obtain ⟨hrun, hlc, hcap, hnow, hset, hss, hstart, halarm, hrem, hserial, hsync, hcount, hrate⟩ := k
  unfold resetLeaves
  rw [hrun, hlc, hcap, hnow, hset, hss, hstart, halarm, hrem, hserial, hsync, hcount, hrate]
  exact h

theorem resetCut_leaves (s : State) : resetLeaves s s.resetCut := by
  refine ⟨⟨?_, ?_, ?_⟩, ?_, ?_, ?_, ?_, ?_, ?_, ?_, ?_, ?_, ?_⟩ <;>
    simp [State.resetCut, banksDark_lcOf]

theorem beginResetStroke_alike (s : State) : resetAlike s s.beginResetStroke := by
  unfold State.beginResetStroke
  dsimp only
  split <;> exact ⟨rfl, rfl, rfl, rfl, rfl, rfl, rfl, rfl, rfl, rfl, rfl, rfl, rfl⟩

theorem completeResetDismount_alike (s : State) : resetAlike s s.completeResetDismount := by
  simp [resetAlike]

theorem resetLink_alike (s : State) : resetAlike s s.resetLink :=
  ⟨rfl, rfl, rfl, rfl, rfl, rfl, rfl, rfl, rfl, rfl, rfl, rfl, rfl⟩

theorem homeAfterReset_alike (s : State) : resetAlike s s.homeAfterReset := by
  unfold State.homeAfterReset
  split_ifs <;> simp [resetAlike]

theorem warmReset_leaves (s : State) : resetLeaves s s.warmReset := by
  cases h : s.tc.state.armStroke with
  | true =>
    rw [warmReset_stroke h]
    exact ((resetCut_leaves s).to (beginResetStroke_alike _)).to (resetLink_alike _)
  | false =>
    rw [warmReset_resting h]
    exact (((resetCut_leaves s).to (completeResetDismount_alike _)).to (resetLink_alike _)).to (homeAfterReset_alike _)

/-! ### LK after the reset (10 R187) -/

/-- LK holds no frame and no request. -/
def Lk.emptied (l : Lk) : Prop :=
  l.queue = [] ∧ l.inHand = none ∧ l.slot = none ∧ l.resetTaken = false

theorem resetLink_emptied (s : State) : s.resetLink.lk.emptied :=
  ⟨rfl, rfl, rfl, rfl⟩

theorem homeAfterReset_emptied (h : s.lk.emptied) : s.homeAfterReset.lk.emptied := by
  unfold State.homeAfterReset
  split_ifs <;> simpa [Lk.emptied] using h

theorem warmReset_emptied (s : State) : s.warmReset.lk.emptied := by
  cases h : s.tc.state.armStroke with
  | true =>
    rw [warmReset_stroke h]
    exact resetLink_emptied _
  | false =>
    rw [warmReset_resting h]
    exact homeAfterReset_emptied (resetLink_emptied _)

theorem kick_emptied (h : s.lk.emptied) : s.kick.lk.emptied := by
  obtain ⟨hqueue, hhand, hslot, hreset⟩ := h
  exact ⟨by rw [kick_queue, hqueue], by rw [kick_inHand, hhand], kick_slot_none hslot, by rw [kick_resetTaken, hreset]⟩

/-! ### A stroke in flight (02 R55) -/

theorem beginResetStroke_stroke (s : State) :
    s.beginResetStroke.sau = s.sau ∧ s.beginResetStroke.tc.resetStroke = true ∧ s.beginResetStroke.tc.j = s.tc.j := by
  unfold State.beginResetStroke
  dsimp only
  split <;> exact ⟨rfl, rfl, rfl⟩

theorem resetCut_parts (s : State) :
    s.resetCut.sau = s.sau ∧ s.resetCut.tc = s.tc ∧ s.resetCut.pins = s.pins ∧ s.resetCut.start = s.start := by
  simp [State.resetCut]

/-- With a stroke in flight the dismount waits for its end. -/
theorem warmReset_waits (h : s.tc.state.armStroke = true) :
    s.warmReset.sau.volume = s.sau.volume ∧ s.warmReset.tc.resetStroke = true ∧ s.warmReset.tc.j = s.tc.j := by
  rw [warmReset_stroke h]
  obtain ⟨hsau, hstroke, hj⟩ := beginResetStroke_stroke s.resetCut
  obtain ⟨csau, ctc, -, -⟩ := resetCut_parts s
  exact ⟨by rw [← csau, ← hsau]; rfl, hstroke, by rw [← ctc]; exact hj⟩

/-! ### No stroke in flight (02 R55, 08 R169) -/

theorem homeAfterReset_sau (s : State) : s.homeAfterReset.sau = s.sau := by
  unfold State.homeAfterReset
  split_ifs <;> simp

theorem homeAfterReset_pins (s : State) : s.homeAfterReset.pins = s.pins := by
  unfold State.homeAfterReset
  split_ifs <;> simp

/-- Homing keeps j (02 R53). -/
theorem homeFor_j (s : State) (c : HomeCause) (b : Bool) : (s.homeFor c b).tc.j = s.tc.j := by
  unfold State.homeFor State.beginHoming State.homeArm State.homingDone
  dsimp only
  split_ifs <;> simp [Tc.homed, Tc.cleared]

/-- Homing for a warm reset ends in UNCLAMPED at once with both switches made (02 R53). -/
theorem homeFor_reset_state (s : State) (b : Bool) :
    (s.homeFor .warmReset b).tc.state
      = if s.pins.platenUp = true ∧ s.pins.armPark = true then .unclamped else .homing := by
  unfold State.homeFor State.beginHoming State.homeArm State.homingDone
  cases hup : s.pins.platenUp <;> cases hpark : s.pins.armPark <;> simp [hup, hpark, Tc.homed, Tc.cleared]

theorem homeAfterReset_j (s : State) : s.homeAfterReset.tc.j = s.tc.j := by
  unfold State.homeAfterReset
  split_ifs
  · rfl
  · rfl
  · exact homeFor_j s _ _

/-- TC's state at the end of the reset: SAFE-STOP, ATTENTION with a leaf on the head, or homing. -/
theorem homeAfterReset_state (s : State) :
    s.homeAfterReset.tc.state
      = if s.pins.guardOpen = true ∨ s.tc.state = .safeStop then .safeStop
        else if s.tc.state = .attention ∧ s.pins.leafSensor ≠ .zero then .attention
        else if s.pins.platenUp = true ∧ s.pins.armPark = true then .unclamped else .homing := by
  unfold State.homeAfterReset
  simp only [Bool.or_eq_true, beq_iff_eq, State.leafOnHead, bne_iff_ne]
  split_ifs with hstop hleaf
  all_goals simp_all [homeFor_reset_state]

theorem homeAfterReset_origin (h : s.pins.guardOpen = true ∨ s.tc.state = .safeStop) :
    s.homeAfterReset.tc.origin = some .homing := by
  have hstop : (s.pins.guardOpen || s.tc.state == .safeStop) = true := by simpa using h
  rw [State.homeAfterReset, if_pos hstop]
  rfl

/-- The dismount of a warm reset leaves TC's state as it is. -/
theorem completeResetDismount_state (s : State) : s.completeResetDismount.tc.state = s.tc.state := by
  cases hv : s.sau.volume with
  | none => rw [State.completeResetDismount, completeDismount_unmounted hv]; rfl
  | some v =>
    rw [State.completeResetDismount, withTc_tc, completeDismount_tc hv]
    rfl

theorem warmReset_rests (h : s.tc.state.armStroke = false) :
    s.warmReset.sau.volume = none ∧ s.warmReset.pins = s.pins
    ∧ s.warmReset.tc.state
      = (if s.pins.guardOpen = true ∨ s.tc.state = .safeStop then .safeStop
        else if s.tc.state = .attention ∧ s.pins.leafSensor ≠ .zero then .attention
        else if s.pins.platenUp = true ∧ s.pins.armPark = true then .unclamped else .homing)
    ∧ (s.pins.guardOpen = true ∨ s.tc.state = .safeStop → s.warmReset.tc.origin = some .homing) := by
  have hpins : s.resetCut.completeResetDismount.resetLink.pins = s.pins :=
    (completeResetDismount_pins _).trans (resetCut_parts s).2.2.1
  have hstate : s.resetCut.completeResetDismount.resetLink.tc.state = s.tc.state :=
    (completeResetDismount_state _).trans (congrArg Tc.state (resetCut_parts s).2.1)
  rw [warmReset_resting h, homeAfterReset_sau, homeAfterReset_pins, homeAfterReset_state, hpins, hstate]
  refine ⟨completeDismount_volume _ _, rfl, rfl, fun hstop => homeAfterReset_origin ?_⟩
  rw [hpins, hstate]
  exact hstop

/-- The account of the mounted volume is closed: j is 0, and the tally is drawn up from the state before the reset. -/
theorem warmReset_closes {v : Volume} (h : s.tc.state.armStroke = false) (hv : s.sau.volume = some v) :
    s.warmReset.tc.j = 0 ∧ s.warmReset.sau.tally = some (s.resetCut.closingTally v .warmReset) := by
  have hv' : s.resetCut.sau.volume = some v := by rw [(resetCut_parts s).1]; exact hv
  rw [warmReset_resting h, homeAfterReset_j, homeAfterReset_sau]
  constructor
  · change (s.resetCut.completeDismount .warmReset).tc.j = 0
    rw [completeDismount_tc hv']
    rfl
  · change (s.resetCut.completeDismount .warmReset).sau.tally = _
    rw [completeDismount_sau hv']

/-- The reset's tally is that of the state before it (08 Table 8-2). -/
theorem resetCut_closes {v : Volume} (hv : s.sau.volume = some v) (hl : s.sau.openings.length = v.n + 1) :
    (s.resetCut.closingTally v .warmReset).closes v .warmReset s := by
  apply closingTally_closes hv hl <;> simp [State.resetCut, Rc.aborted, Rc.stopped]

theorem resetCut_dayDose (s : State) : s.resetCut.di.dayDose = s.di.dayDose := by
  simp [State.resetCut]

/-! ### The event -/

theorem aborted_state (r : Rc) :
    r.aborted.state = (match r.state with
      | .active | .paused _ => .ended .aborted
      | .idle => .idle
      | .ended e => .ended e) :=
  rfl

theorem aborted_resting (r : Rc) : r.aborted.state ≠ .active := by
  rw [aborted_state]
  cases r.state <;> exact nofun

/-- A warm reset brings its own effect, RC's record of what it was told, and the next frame. -/
theorem exec_warmReset (hp : s.powered = true) (hs : s.starting = false) :
    ∃ r : Rc, exec .warmReset s = .next (State.kick { s.warmReset with rc := r }) ∧ r.state = s.warmReset.rc.state := by
  have hrest : s.warmReset.runActive = false := by
    unfold State.runActive
    rw [(warmReset_leaves s).1.1]
    exact beq_eq_false_iff_ne.mpr (aborted_resting s.rc)
  obtain ⟨r, hsettle, hstate, -⟩ := settle_resting (s := s.warmReset) (warmReset_emptied s).1 hrest
  refine ⟨r, ?_, hstate⟩
  have heffect : (if s.starting then s else s.warmReset) = s.warmReset := by rw [hs]; rfl
  exact congrArg _ ((if_pos hp).trans ((congrArg State.settle heffect).trans hsettle))

/-- Settles O17. -/
theorem warmResetClosesTheAccount : Obligations.WarmResetClosesTheAccount := by
  intro s hp hs
  obtain ⟨r, hexec, hr⟩ := exec_warmReset hp hs
  obtain ⟨⟨hrun, hpreview, hidle⟩, hnow, hset, hss, hstart, halarm, hrem, hserial, hsync, hcount, hrate⟩ :=
    warmReset_leaves s
  obtain ⟨hqueue, hhand, hslot, hreset⟩ := kick_emptied (s := { s.warmReset with rc := r }) (warmReset_emptied s)
  have hdark : s.warmReset.dark := (warmReset_dusk hs).dark
  refine ⟨_, hexec, ?_⟩
  simp only [State.dark, kick_lc, kick_cc, kick_now, kick_set, kick_ss, kick_di, kick_sau, kick_rate, kick_tc, kick_pins,
    kick_rc]
  refine ⟨hr.trans hrun, hdark, hpreview, hidle, hqueue, hhand, hslot, hreset, hnow, hset, hss, hstart, halarm, hrem,
    hserial, hsync, hcount, hrate, warmReset_waits, fun hrest => ?_⟩
  obtain ⟨hvolume, hpins, hstate, horigin⟩ := warmReset_rests hrest
  refine ⟨hvolume, hpins, fun v hv => ?_, hstate, horigin⟩
  obtain ⟨hj, htally⟩ := warmReset_closes hrest hv
  exact ⟨hj, _, htally, rfl, rfl, rfl, resetCut_dayDose s, resetCut_closes hv⟩

end Sys2Proof.Machine
end

