-- ==== Sys2Proof/Proofs/Served.lean ====
section
/-! A served request (10 R184, R185) and an event: what they leave, from what the decision or the effect does; and what a
reply changes, and a report of a fault rests on. -/

namespace Sys2Proof.Machine

variable {s : State} {i : Instr} {k tag : Byte}

/-- A request whose decision leaves RC quiet and LK's queue empty. -/
theorem exec_next {t : State} {a : Answer} (hs : s.serves) (hk : i.kind? = some k) (ht : i.tag? = some tag)
    (hkn : knownKind k = true) (hns : ∀ t, i ≠ .store t) (hd : decisionOf i (s.holding k tag) = (t, a))
    (hq : t.lk.queue = []) (hr : t.runQuiet) : exec i s = .next (t.answered k tag a) := by
  obtain ⟨htakes, hstarted⟩ := hs
  rw [exec_request (by rw [hk]; rfl)]
  exact request_next htakes hk ht hkn (by rw [hstarted]; rfl) hns hd hq hr

/-- The same where the decision is that of the part with no request in hand. -/
theorem exec_decides {t : State} {a : Answer} (hs : s.serves) (hk : i.kind? = some k) (ht : i.tag? = some tag)
    (hkn : knownKind k = true) (hns : ∀ t, i ≠ .store t) (hd : decisionOf i (s.holding k tag) = (t.holding k tag, a))
    (hq : t.lk.queue = []) (hr : t.runQuiet) : exec i s = .next (t.answered k tag a) := by
  obtain ⟨htakes, hstarted⟩ := hs
  rw [exec_request (by rw [hk]; rfl)]
  exact request_decided htakes hk ht hkn (by rw [hstarted]; rfl) hns hd hq hr

/-- A request whose decision may end an operation and close a ticket, with no run ACTIVE after it: RC records what it was
told, and the reply goes out. -/
theorem exec_records {t : State} {a : Answer} (hs : s.serves) (hk : i.kind? = some k) (ht : i.tag? = some tag)
    (hkn : knownKind k = true) (hns : ∀ t, i ≠ .store t) (hd : decisionOf i (s.holding k tag) = (t, a))
    (hq : t.lk.queue = []) (hr : t.runActive = false) :
    ∃ r : Rc, r.state = t.rc.state ∧ exec i s = .next (State.answered k tag a { t with rc := r }) := by
  obtain ⟨htakes, hstarted⟩ := hs
  rw [exec_request (by rw [hk]; rfl)]
  obtain ⟨u, hu, r, hrun, rfl⟩ := request_rests
    (P := fun u => ∃ r : Rc, r.state = t.rc.state ∧ u = State.answered k tag a { t with rc := r }) htakes hk ht hkn
    (by rw [hstarted]; rfl) hns (by rw [hd]; exact hq) (by rw [hd]; exact hr)
    (by rw [hd]; exact fun r hrun _ _ => ⟨r, hrun, rfl⟩)
  exact ⟨r, hrun, hu⟩

/-! ### Events that may end an operation and close a ticket, with no run ACTIVE after them -/

theorem event_records {f : State → State} {t : State} (hp : s.powered = true) (hf : f s = t) (hq : t.lk.queue = [])
    (hr : t.runActive = false) :
    ∃ r : Rc, r.state = t.rc.state
      ∧ (Host.Outcome.next (s.event f) : Host.Outcome State Fault Refusal) = .next (State.kick { t with rc := r }) := by
  obtain ⟨u, hu, r, hrun, rfl⟩ := event_rests (f := f)
    (P := fun u => ∃ r : Rc, r.state = t.rc.state ∧ u = State.kick { t with rc := r }) hp (by rw [hf]; exact hq)
    (by rw [hf]; exact hr) (by rw [hf]; exact fun r hrun _ _ => ⟨r, hrun, rfl⟩)
  exact ⟨r, hrun, hu⟩

theorem pinEvent_records {g f : State → State} {t : State} (hp : s.powered = true) (hf : f s = t) (hq : t.lk.queue = [])
    (hr : t.runActive = false) :
    ∃ r : Rc, r.state = t.rc.state
      ∧ (Host.Outcome.next (s.pinEvent g f) : Host.Outcome State Fault Refusal) = .next (State.kick { t with rc := r }) := by
  obtain ⟨u, hu, r, hrun, rfl⟩ := pinEvent_rests (g := g) (f := f)
    (P := fun u => ∃ r : Rc, r.state = t.rc.state ∧ u = State.kick { t with rc := r }) hp (by rw [hf]; exact hq)
    (by rw [hf]; exact hr) (by rw [hf]; exact fun r hrun _ _ => ⟨r, hrun, rfl⟩)
  exact ⟨r, hrun, hu⟩

theorem timer_records {due : State → Option Nat} {f : State → State} {d : Nat} {t : State} (hp : s.powered = true)
    (hd : due s = some d) (hm : d / 1000 ≤ s.now / 1000) (hf : f (s.goTo d) = t) (hq : t.lk.queue = [])
    (hr : t.runActive = false) :
    ∃ r : Rc, r.state = t.rc.state ∧ timer due f s = .next (State.kick { t with rc := r }) := by
  obtain ⟨u, hu, r, hrun, rfl⟩ := timer_rests (f := f)
    (P := fun u => ∃ r : Rc, r.state = t.rc.state ∧ u = State.kick { t with rc := r }) hp hd hm (by rw [hf]; exact hq)
    (by rw [hf]; exact hr) (by rw [hf]; exact fun r hrun _ _ => ⟨r, hrun, rfl⟩)
  exact ⟨r, hrun, hu⟩

/-! ### Replies and reports -/

/-- A reply changes LK's part alone. -/
theorem answered_frame (k tag : Byte) (a : Answer) (s : State) : sameOutsideLink s (s.answered k tag a) :=
  kick_frame (s.putReply (replyTo k tag a))

/-- What a report makes of the fault banks rests on the clock, the settings, the mounted volume and the banks. -/
theorem report_banks {t : State} (h : banksAlike s t) (c : FaultCode) (d : List Nat) :
    (s.report c d).fb = (t.report c d).fb := by
  obtain ⟨-, -, -, hbanks⟩ := report_banksAlike h c d
  exact hbanks

end Sys2Proof.Machine
end

