-- ==== Sys2Proof/Proofs/Patterns.lean ====
section
/-! The pattern table is written, read and searched (01 R3 to R6): what the decisions of PATTERN WRITE, PATTERN READ and
CLASSIFY are, branch by branch, and the answers of a part that serves requests. -/

namespace Sys2Proof.Machine

variable {s : State} {tag : Byte}

/-! ### The entry of PATTERN WRITE (R4) -/

section entry
variable {f : PatternFields} {enabled : Bool}

/-- Another value of the enabled field leaves no entry. -/
theorem patternEntry?_otherValue (h : f.enabled = none) : patternEntry? f = none := by
  simp [patternEntry?, h]

/-- A pattern short enough for its layout makes an entry where every field is in its range. -/
theorem patternEntry?_value (h : f.enabled = some enabled) (hlen : ¬ 40 < f.pattern.length) :
    patternEntry? f
      = if f.position ≤ 11 ∧ f.cls ≤ 7 ∧ (normalise f.pattern).length ≤ 24
            ∧ patternChars (normalise f.pattern) = true ∧ (enabled = true → normalise f.pattern ≠ []) then
          some { enabled := enabled, pattern := normalise f.pattern, cls := f.cls }
        else none := by
  simp only [patternEntry?, h]
  rw [← ite_not]
  refine ite_congr (propext ?_) (fun _ => rfl) fun _ => rfl
  simp [hlen]

end entry

/-! ### PATTERN WRITE in a part that serves requests -/

section patternWrite
variable {f : PatternFields}

theorem exec_patternWrite_refused {r : Result} (hs : s.serves)
    (hd : decidePatternWrite f (s.holding 0x10#8 tag) = refuse r (s.holding 0x10#8 tag)) :
    exec (.patternWrite tag f) s = .next (s.answeredWith 0x10#8 tag r) :=
  exec_unchanged hs rfl rfl rfl (fun _ => nofun) hd

/-- Within the layout and with the lock disengaged, a PATTERN WRITE with no entry is refused. -/
theorem exec_patternWrite_noEntry (hs : s.serves) (hlen : ¬ 40 < f.pattern.length) (hlock : s.pins.lockEngaged = false)
    (he : patternEntry? f = none) : exec (.patternWrite tag f) s = .next (s.answeredWith 0x10#8 tag .argument) :=
  exec_patternWrite_refused hs (by simp [decidePatternWrite, hlen, hlock, he])

/-- Within the layout and with the lock disengaged, a PATTERN WRITE writes its entry and nothing else. -/
theorem exec_patternWrite_writes {e : PatternEntry} (hs : s.serves) (hlen : ¬ 40 < f.pattern.length)
    (hlock : s.pins.lockEngaged = false) (he : patternEntry? f = some e) :
    exec (.patternWrite tag f) s
      = .next (State.answeredWith 0x10#8 tag .ok
          { s with set := { s.set with patterns := s.set.patterns.set f.position e } }) :=
  exec_writesSettings hs rfl rfl rfl (fun _ => nofun) <| show decidePatternWrite f (s.holding 0x10#8 tag) = _ by
    simp [decidePatternWrite, hlen, hlock, he, answer]

end patternWrite

/-- The bytes of an entry, one field after the other (12 Table 12-13). -/
theorem patternEntry_bytes (position : Nat) (e : PatternEntry) :
    e.bytes position
      = [BitVec.ofNat 8 position, BitVec.ofNat 8 e.enabled.toNat, BitVec.ofNat 8 e.cls,
          BitVec.ofNat 8 e.pattern.length] ++ e.pattern := by
  simp [PatternEntry.bytes, flagByte, byte1, beBytes]

/-- Settles O20: the tests of PATTERN WRITE one after the other, and the two branches of PATTERN READ. -/
theorem patternsAreWrittenAndRead : Obligations.PatternsAreWrittenAndRead := by
  constructor
  · intro tag f s hs
    by_cases hlen : 40 < f.pattern.length
    · rw [if_pos hlen]
      exact exec_patternWrite_refused hs (if_pos hlen)
    rw [if_neg hlen]
    cases hlock : s.pins.lockEngaged with
    | true => exact exec_patternWrite_refused hs (by simp [decidePatternWrite, hlen, hlock])
    | false =>
      rw [if_neg Bool.false_ne_true]
      cases henabled : f.enabled with
      | none => exact exec_patternWrite_noEntry hs hlen hlock (patternEntry?_otherValue henabled)
      | some enabled =>
        have hentry := patternEntry?_value henabled hlen
        split at hentry
        next hfields =>
          simp only [if_pos hfields]
          exact exec_patternWrite_writes hs hlen hlock hentry
        next hfields =>
          simp only [if_neg hfields]
          exact exec_patternWrite_noEntry hs hlen hlock hentry
  · intro tag position e s hs he
    subst he
    by_cases hp : position ≤ 11
    · rw [if_pos hp]
      rw [← patternEntry_bytes]
      exact exec_unchanged hs rfl rfl rfl (fun _ => nofun) (if_neg (Nat.not_lt.mpr hp))
    · rw [if_neg hp]
      exact exec_unchanged hs rfl rfl rfl (fun _ => nofun) (if_pos (Nat.not_le.mp hp))

/-! ### CLASSIFY (R3, R6) -/

/-- CLASSIFY of a good mark replies with what the search of the table finds. -/
theorem exec_classify_found {raw mark : Text} {cls : Nat} {position : Option Nat} (hs : s.serves)
    (hm : shelfMark? raw = some mark) (hc : classify s.set.patterns mark = (cls, position)) :
    exec (.classify tag raw) s
      = .next (s.answered 0x12#8 tag ⟨.ok, [.bytes mark, .num cls, Item.ofNat? position]⟩) :=
  exec_unchanged hs rfl rfl rfl (fun _ => nofun) <| show decideClassify raw (s.holding 0x12#8 tag) = _ by
    simp [decideClassify, hm, hc, answer]

/-- Settles O21: `matchFrom` stops at the first match, and finds none where nothing matches. -/
theorem classifyFindsTheFirstMatch : Obligations.ClassifyFindsTheFirstMatch := by
  intro tag raw s hs
  refine ⟨fun hm => ?badMark, fun mark i e hm hi hon hmatch hfirst => ?found, fun mark hm hnone => ?notFound⟩
  case badMark =>
    exact exec_unchanged hs rfl rfl rfl (fun _ => nofun) <|
      show decideClassify raw (s.holding 0x12#8 tag) = _ by simp [decideClassify, hm, refuse]
  case found =>
    have hsearch := matchFrom_first mark s.set.patterns 0 i e hi hon hmatch hfirst
    rw [Nat.zero_add] at hsearch
    exact exec_classify_found hs hm hsearch
  case notFound => exact exec_classify_found hs hm (matchFrom_none mark s.set.patterns 0 hnone)

end Sys2Proof.Machine
end

