-- ==== Sys2Proof/Proofs/Mount.lean ====
section
/-! MOUNT (01 R11 to R16): its tests in their order, the volume it mounts, and the carried dose tested in that event
(04 R85, R87, R95). -/

namespace Sys2Proof.Machine

variable {s : State} {tag : Byte} {f : MountFields}

/-! ### The tests (R11 to R13) -/

theorem exec_mount_refused {r : Result} (hs : s.serves)
    (hd : decideMount f (s.holding 0x15#8 tag) = refuse r (s.holding 0x15#8 tag)) :
    exec (.mount tag f) s = .next (s.answeredWith 0x15#8 tag r) :=
  exec_unchanged hs rfl rfl rfl (fun _ => nofun) hd

theorem mountFits_iff : mountFits f = true ↔ f.raw.length ≤ 40 ∧ f.foldouts.length ≤ 32 ∧ f.blanks.length ≤ 16 := by
  simp [mountFits, and_assoc]

theorem decideMount_overlong (h : ¬ mountFits f = true) : decideMount f s = refuse .argument s := by
  simp [decideMount, h]

theorem decideMount_busy (hf : mountFits f = true) (h : s.sau.volume.isSome = true ∨ s.tc.state ≠ .unclamped) :
    decideMount f s = refuse .state s := by
  rw [decideMount, hf, if_neg (by simp)]
  exact if_pos h

/-- MOUNT's own field tests: a number or a list outside its range (R12). -/
def outOfRange (f : MountFields) : Prop :=
  f.n = 0 ∨ 2047 < f.n ∨ f.n < f.j0 ∨ overrideOk f.override = false ∨ foldoutsOk f.n f.foldouts = false
    ∨ blanksOk f.n f.blanks = false

theorem overrideOk_iff {o : ClassOverride} : overrideOk o = false ↔ ∃ c, o = .cls c ∧ 7 < c := by
  cases o <;> simp [overrideOk]

/-- The volume that an accepted MOUNT mounts (R14). -/
def mountedVolume (f : MountFields) (mark : Text) (d : Direction) (cls : Nat) (source : ClassSource)
    (position : Option Nat) (s : State) : Volume :=
  { mark := mark, n := f.n, direction := d, j0 := f.j0, mountNo := (s.sau.mountCounter + 1) % 65536, cls := cls
    source := source, position := position, limits := classAt s.set.classes cls, foldouts := f.foldouts
    blanks := f.blanks }

section ready
variable (hf : mountFits f = true) (hv : s.sau.volume = none) (ht : s.tc.state = .unclamped)
include hf hv ht

theorem decideMount_badField (h : shelfMark? f.raw = none ∨ f.direction = none) :
    decideMount f s = refuse .argument s := by
  rw [decideMount, hf, if_neg (by simp), if_neg (by simp [State.mounted, hv, ht])]
  split
  next hm hd => rcases h with h | h <;> simp_all
  next => rfl

theorem decideMount_outOfRange (h : outOfRange f) : decideMount f s = refuse .argument s := by
  rw [decideMount, hf, if_neg (by simp), if_neg (by simp [State.mounted, hv, ht])]
  split
  next => exact if_pos h
  next => rfl

variable {mark : Text} {d : Direction} {matched : Nat} {position : Option Nat} (hm : shelfMark? f.raw = some mark)
  (hd : f.direction = some d) (hr : ¬ outOfRange f) (hc : classify s.set.patterns mark = (matched, position))
include hm hd hr hc

/-- An override that the lock does not allow. -/
theorem decideMount_locked (h : mountClass s.pins.lockEngaged matched f.override = none) :
    decideMount f s = refuse .locked s := by
  rw [decideMount, hf, if_neg (by simp), if_neg (by simp [State.mounted, hv, ht])]
  simp only [hm, hd]
  refine (if_neg hr).trans ?_
  simp only [hc, h]

theorem decideMount_accepts {cls : Nat} {source : ClassSource}
    (h : mountClass s.pins.lockEngaged matched f.override = some (cls, source)) :
    decideMount f s
      = answer .ok
        [.bytes (byte2 ((s.sau.mountCounter + 1) % 65536) ++ byte1 cls ++ byte1 source.code ++ byte1 (position.getD 0xFF))]
        (s.mountVolume (mountedVolume f mark d cls source position s)) := by
  rw [decideMount, hf, if_neg (by simp), if_neg (by simp [State.mounted, hv, ht])]
  simp only [hm, hd]
  refine (if_neg hr).trans ?_
  simp only [hc, h]
  rfl

end ready

/-- The class of a mount under the lock (R13). -/
theorem mountClass_locked {matched c : Nat} (h : c ≠ matched) : mountClass true matched (.cls c) = none := by
  simp [mountClass, h]

/-- The class and its source, as the override gives them. -/
theorem mountClass_some {locked : Bool} {matched cls : Nat} {source : ClassSource} {o : ClassOverride}
    (h : (source = .matched ∧ cls = matched ∧ (o = .absent ∨ (o = .cls cls ∧ cls ≤ 7)))
      ∨ (source = .override ∧ cls ≠ matched ∧ o = .cls cls ∧ cls ≤ 7 ∧ locked = false)) :
    mountClass locked matched o = some (cls, source) ∧ overrideOk o = true := by
  rcases h with ⟨rfl, rfl, rfl | ⟨rfl, hle⟩⟩ | ⟨rfl, hne, rfl, hle, rfl⟩
  · exact ⟨rfl, rfl⟩
  · exact ⟨if_pos rfl, decide_eq_true hle⟩
  · exact ⟨(if_neg hne).trans (if_neg nofun), decide_eq_true hle⟩

/-! ### The carried dose (04 R95) -/

/-- The carried dose of a mark: that of its entry in the carry table. -/
def carriedDose (mark : Text) (carry : List CarryEntry) : Nat :=
  match carry.find? fun e => e.mark == mark with
  | some e => e.dose
  | none => 0

/-- The state of an accepted MOUNT before the tests of the day dose. -/
def State.taken (v : Volume) (s : State) : State :=
  { s with
    sau := { mountCounter := v.mountNo, volume := some v, openings := buildOpenings v.direction v.n v.foldouts v.blanks
             tally := none }
    tc := { s.tc with j := v.j0, turnsDone := 0, missRetries := 0, doubleRetries := 0 }
    rc := { s.rc with volumeSkips := 0 }
    di := { s.di with
      carry := s.di.carry.filter fun e => !(e.mark == v.mark), dayDose := carriedDose v.mark s.di.carry
      carriedIn := carriedDose v.mark s.di.carry, exhausted := false, warned := false } }

theorem mountVolume_eq (v : Volume) (s : State) : s.mountVolume v = (s.taken v).testDayDose :=
  rfl

/-! ### The tests of the day dose with no capture in progress (04 R85, R87) -/

/-- A state at the warning level whose flag is clear: the warning is given. -/
theorem testWarning_warns {c : ClassRec} (h : warningLevel c.dayBudget ≤ s.di.dayDose) (hw : s.di.warned = false) :
    s.testWarning c = { s with di := { s.di with warned := true } }.doseNotice .warning :=
  if_pos ⟨h, hw⟩

theorem testBudget_below {c : ClassRec} (h : s.di.dayDose < c.dayBudget) : s.testBudget c = s :=
  if_neg fun ⟨hle, _⟩ => absurd h (Nat.not_lt.mpr hle)

/-- At the budget, with no capture in progress: a lit preview ends CUT, every bank is dark, and the exhaustion is reported
and told. -/
theorem testBudget_idle {c : ClassRec} (h : c.dayBudget ≤ s.di.dayDose) (he : s.di.exhausted = false)
    (hi : s.cc.state = .idle) :
    s.testBudget c
      = (((State.endPreview .cut { s with di := { s.di with exhausted := true } }).banksDark.report .doseExhausted
          [s.di.dayDose, c.dayBudget]).doseNotice .exhausted) := by
  have hcut := cutLight_idle (s := { s with di := { s.di with exhausted := true } }) .doseCut hi
  rw [State.testBudget, if_pos ⟨h, he⟩]
  dsimp only
  rw [hcut]

/-- What the tests of the day dose leave as it was. -/
def doseTested (s t : State) : Prop :=
  (t.sau = s.sau ∧ t.tc = s.tc ∧ t.rc = s.rc ∧ t.set = s.set ∧ t.pins = s.pins ∧ t.now = s.now)
  ∧ t.lk.queue = s.lk.queue ∧ t.di.dayDose = s.di.dayDose ∧ t.di.carriedIn = s.di.carriedIn ∧ t.di.carry = s.di.carry
  ∧ t.di.warned = true

section tests
variable {c : ClassRec} (hc : s.limits? = some c) (hw : s.di.warned = false) (he : s.di.exhausted = false)
include hc hw he

/-- From the warning level on, below the budget: the warning alone. -/
theorem testDayDose_warns (h : warningLevel c.dayBudget ≤ s.di.dayDose) (hb : s.di.dayDose < c.dayBudget) :
    doseTested s s.testDayDose ∧ s.testDayDose.di.exhausted = false ∧ s.testDayDose.fb = s.fb
    ∧ s.testDayDose.lc = s.lc
    ∧ (s.set.noticeMask.getLsbD 6 = true → s.testDayDose.lk.pendingSet.getLsbD 6 = true) := by
  have htest : s.testDayDose = { s with di := { s.di with warned := true } }.doseNotice .warning := by
    rw [State.testDayDose, hc]
    change (s.testWarning c).testBudget c = _
    rw [testWarning_warns h hw]
    exact testBudget_below (by simpa [State.doseNotice] using hb)
  rw [htest]
  refine ⟨by simp [doseTested, State.doseNotice], by simpa [State.doseNotice] using he, by simp [State.doseNotice],
    by simp [State.doseNotice], fun hm => ?_⟩
  exact notifyWith_pends (k := .dose) hm

/-- From the budget on, with no capture in progress: the volume is EXHAUSTED. -/
theorem testDayDose_exhausts (hb : c.dayBudget ≤ s.di.dayDose) (hi : s.cc.state = .idle) :
    doseTested s s.testDayDose ∧ s.testDayDose.di.exhausted = true ∧ s.testDayDose.dark
    ∧ s.testDayDose.lc.preview = none
    ∧ s.testDayDose.fb = (s.report .doseExhausted [s.di.dayDose, c.dayBudget]).fb
    ∧ (s.set.noticeMask.getLsbD 6 = true → s.testDayDose.lk.pendingSet.getLsbD 6 = true) := by
  have hwarn : warningLevel c.dayBudget ≤ s.di.dayDose := by unfold warningLevel; omega
  obtain ⟨w, hwarned⟩ : ∃ w, w = { s with di := { s.di with warned := true } }.doseNotice .warning := ⟨_, rfl⟩
  have hdose : w.di = { s.di with warned := true } := by simp [hwarned, State.doseNotice]
  have hfields : w.sau = s.sau ∧ w.tc = s.tc ∧ w.rc = s.rc ∧ w.set = s.set ∧ w.pins = s.pins ∧ w.now = s.now
      ∧ w.cc = s.cc ∧ w.fb = s.fb ∧ w.lk.queue = s.lk.queue := by simp [hwarned, State.doseNotice]
  obtain ⟨hsau, htc, hrc, hset, hpins, hnow, hcc, hfb, hqueue⟩ := hfields
  have htest : s.testDayDose
      = (((State.endPreview .cut { w with di := { w.di with exhausted := true } }).banksDark.report .doseExhausted
          [s.di.dayDose, c.dayBudget]).doseNotice .exhausted) := by
    rw [State.testDayDose, hc]
    change (s.testWarning c).testBudget c = _
    rw [testWarning_warns hwarn hw, ← hwarned, testBudget_idle (by rw [hdose]; exact hb) (by rw [hdose]; exact he)
      (by rw [hcc]; exact hi)]
    simp only [hdose]
  rw [htest]
  refine ⟨?tested, ?exhausted, ?dark, ?preview, ?banks, fun hm => ?notice⟩
  case tested => simp [doseTested, State.doseNotice, hsau, htc, hrc, hset, hpins, hnow, hqueue, hdose]
  case exhausted => simp [State.doseNotice]
  case dark => exact doseNotice_dark (report_dark (banksDark_dark _))
  case preview => simp [State.doseNotice, banksDark_lcOf]
  case banks =>
    simp only [State.doseNotice, notifyWith_fb]
    exact report_banks ⟨by simp [hnow], by simp [hset], by simp [hsau], by simp [hfb]⟩ _ _
  case notice => exact notifyWith_pends (k := .dose) (by simpa [hset, NoticeKind.bit] using hm)

/-- From the warning level on, with no capture in progress. -/
theorem testDayDose_tested (h : warningLevel c.dayBudget ≤ s.di.dayDose) (hi : s.cc.state = .idle) :
    doseTested s s.testDayDose ∧ s.testDayDose.di.exhausted = decide (c.dayBudget ≤ s.di.dayDose)
    ∧ (s.set.noticeMask.getLsbD 6 = true → s.testDayDose.lk.pendingSet.getLsbD 6 = true)
    ∧ (s.di.dayDose < c.dayBudget → s.testDayDose.fb = s.fb ∧ s.testDayDose.lc = s.lc)
    ∧ (c.dayBudget ≤ s.di.dayDose → s.testDayDose.dark ∧ s.testDayDose.lc.preview = none
        ∧ s.testDayDose.fb = (s.report .doseExhausted [s.di.dayDose, c.dayBudget]).fb) := by
  by_cases hb : c.dayBudget ≤ s.di.dayDose
  · obtain ⟨htested, hexhausted, hdark, hpreview, hbanks, hnotice⟩ := testDayDose_exhausts hc hw he hb hi
    exact ⟨htested, hexhausted.trans (decide_eq_true hb).symm, hnotice, fun hlt => absurd hb (Nat.not_le.mpr hlt),
      fun _ => ⟨hdark, hpreview, hbanks⟩⟩
  · obtain ⟨htested, hexhausted, hbanks, hlamps, hnotice⟩ := testDayDose_warns hc hw he h (Nat.not_le.mp hb)
    exact ⟨htested, hexhausted.trans (decide_eq_false hb).symm, hnotice, fun _ => ⟨hbanks, hlamps⟩,
      fun hle => absurd hle hb⟩

end tests

/-! ### MOUNT in a part that serves requests -/

section mounts
variable {v : Volume} {a : Answer} (hs : s.serves)
  (hd : decideMount f (s.holding 0x15#8 tag) = (((s.holding 0x15#8 tag).taken v).testDayDose, a))
include hs hd

/-- A carried dose below the warning level brings the mounted volume and nothing more. -/
theorem exec_mount_below (h : carriedDose v.mark s.di.carry < warningLevel v.limits.dayBudget) :
    exec (.mount tag f) s = .next ((s.taken v).answered 0x15#8 tag a) := by
  have ⟨⟨⟨_, hqueue, hquiet⟩, _⟩, _⟩ := hs
  rw [testDayDose_below (c := v.limits) rfl h] at hd
  exact exec_decides (t := s.taken v) hs rfl rfl rfl (fun _ => nofun) hd hqueue hquiet

/-- A carried dose at the warning level or above is tested in that event, and its outcome is what the tests leave. -/
theorem exec_mount_tested
    (ht : doseTested ((s.holding 0x15#8 tag).taken v) ((s.holding 0x15#8 tag).taken v).testDayDose) :
    exec (.mount tag f) s = .next (((s.holding 0x15#8 tag).taken v).testDayDose.answered 0x15#8 tag a) := by
  have ⟨⟨⟨_, hqueue, hquiet⟩, _⟩, _⟩ := hs
  obtain ⟨⟨-, -, hrc, -⟩, hq, -⟩ := ht
  exact exec_next hs rfl rfl rfl (fun _ => nofun) hd (hq.trans hqueue)
    (runQuiet_rc (s := (s.holding 0x15#8 tag).taken v) hrc hquiet)

end mounts

/-- Settles O23: the tests in their order, and the accepted volume with its carried dose tested. -/
theorem mountTakesTheVolume : Obligations.MountTakesTheVolume := by
  intro tag f s hs
  refine ⟨fun hlong => ?overlong, fun hraw hfold hblank => ?fits⟩
  case overlong => exact exec_mount_refused hs (decideMount_overlong fun h => by have := mountFits_iff.mp h; omega)
  have hfits : mountFits f = true := mountFits_iff.mpr ⟨hraw, hfold, hblank⟩
  refine ⟨fun hbusy => ?busy, fun hv ht hbad => ?badField, fun mark d matched position hv ht hm hd h1 hN hj hfo hbl hc => ?mounts⟩
  case busy => exact exec_mount_refused hs (decideMount_busy hfits hbusy)
  case badField =>
    refine exec_mount_refused hs ?_
    rcases hbad with h | h | h | h | h | h | h | h
    · exact decideMount_badField hfits hv ht (.inl h)
    · exact decideMount_badField hfits hv ht (.inr h)
    all_goals refine decideMount_outOfRange hfits hv ht ?_
    · exact .inl (by omega)
    · exact .inr (.inl h)
    · exact .inr (.inr (.inl h))
    · exact .inr (.inr (.inr (.inl (overrideOk_iff.mpr h))))
    · exact .inr (.inr (.inr (.inr (.inl h))))
    · exact .inr (.inr (.inr (.inr (.inr h))))
  case mounts =>
    have hrange : overrideOk f.override = true → ¬ outOfRange f := by
      intro ho
      simp [outOfRange, ho, hfo, hbl]
      omega
    refine ⟨fun c hover hle hne hlock => ?locked, fun cls source dose limits a hsource hlimits hdose ha => ?accepted⟩
    case locked =>
      refine exec_mount_refused hs (decideMount_locked hfits hv ht hm hd (hrange ?_) hc ?_)
      · rw [hover]; exact decide_eq_true hle
      · rw [hover]
        exact (congrArg (mountClass · matched _) hlock).trans (mountClass_locked hne)
    case accepted =>
      obtain ⟨hclass, hoverride⟩ := mountClass_some hsource
      have hdecides := decideMount_accepts (s := s.holding 0x15#8 tag) hfits hv ht hm hd (hrange hoverride) hc hclass
      change dose = carriedDose mark s.di.carry at hdose
      subst hlimits hdose ha
      refine ⟨fun hbelow => exec_mount_below hs hdecides hbelow, fun hwarn hidle => ?tested⟩
      case tested =>
        obtain ⟨htested, hexhausted, hnotice, hbelow, hspent⟩ :=
          testDayDose_tested (s := (s.holding 0x15#8 tag).taken (mountedVolume f mark d cls source position s))
            rfl rfl rfl hwarn hidle
        refine ⟨_, exec_mount_tested hs hdecides htested, ?_⟩
        obtain ⟨⟨hsau, htc, -, hset, hpins, hnow⟩, -, hdose, hcarried, hcarry, hwarned⟩ := htested
        simp only [State.dark, answered_sau, answered_tc, answered_di, answered_fb, answered_lc, answered_set, answered_pins,
          answered_now, answered_pendingSet]
        refine ⟨hsau, htc, hdose, hcarried, hwarned, hexhausted, hcarry, fun hm _ => hnotice hm, hbelow, fun hb => ?spent,
          hset, hpins, hnow⟩
        obtain ⟨hdark, hpreview, hbanks⟩ := hspent hb
        refine ⟨hdark, hpreview, hbanks.trans ?_⟩
        refine report_banks ⟨?_, ?_, ?_, ?_⟩ _ _ <;> rfl

end Sys2Proof.Machine
end

