-- ==== Sys2Proof/Proofs/Volumes.lean ====
section
/-! The mounted volume is read (01 R17, R19, R20, 08 R168), and SIDE SET changes one side (08 R161). -/

namespace Sys2Proof.Machine

variable {s : State} {tag : Byte}

/-! ### OPENING READ, VOLUME READ and TALLY READ -/

/-- The sides met by the walk over the opening table are sides 1 to 2N (R18). -/
theorem sidesInOrder_sideStates {v : Volume} (hv : s.sau.volume = some v) (hl : s.sau.openings.length = v.n + 1) :
    sidesInOrder v.direction v.n s.sau.openings = s.sideStates v := by
  simp only [sidesInOrder_eq _ _ _ hl, State.sideStates, State.sideState, hv]

theorem exec_volumeRead_mounted {v : Volume} (hs : s.serves) (hv : s.sau.volume = some v)
    (hl : s.sau.openings.length = v.n + 1) :
    exec (.volumeRead tag) s
      = .next (s.answered 0x17#8 tag ⟨.ok,
          [.flag s.pins.lockEngaged, .num s.sau.mountCounter, .flag true, .bytes v.mark, .num v.n,
           .num (dirCode v.direction), .num v.j0, .num v.mountNo, .num v.cls, .num v.source.code, Item.ofNat? v.position,
           .bytes v.limits.bytes, .nums v.foldouts, .nums (v.blanks.flatMap fun r => [r.1, r.2]), .num s.tc.j]
          ++ (countsOf (s.sideStates v)).items⟩) :=
  exec_unchanged hs rfl rfl rfl (fun _ => nofun) <| show decideVolumeRead (s.holding 0x17#8 tag) = _ by
    simp [decideVolumeRead, State.mounted, hv, State.volumeItems, sidesInOrder_sideStates hv hl, countSides, countsOf,
      answer]

theorem exec_openingRead_mounted {first count : Nat} {v : Volume} (hs : s.serves) (hv : s.sau.volume = some v) :
    exec (.openingRead tag first count) s
      = .next (if 1 ≤ count ∧ count ≤ 16 ∧ first ≤ v.n then
          s.answered 0x16#8 tag ⟨.ok, [.bytes (s.openingRecords v first count ++ byte1 (min count (v.n - first + 1)))]⟩
        else s.answeredWith 0x16#8 tag .argument) := by
  split
  next h =>
    refine exec_unchanged hs rfl rfl rfl (fun _ => nofun) ?_
    change decideOpeningRead first count (s.holding 0x16#8 tag) = _
    simp only [decideOpeningRead, holding_sau, hv]
    exact if_neg (by omega)
  next h =>
    refine exec_unchanged hs rfl rfl rfl (fun _ => nofun) ?_
    change decideOpeningRead first count (s.holding 0x16#8 tag) = _
    simp only [decideOpeningRead, holding_sau, hv]
    exact if_pos (by omega)

/-- Settles O24, request by request. -/
theorem volumeIsRead : Obligations.VolumeIsRead := by
  intro tag s hs
  refine ⟨fun first count hv => ?openingUnmounted, fun first count v hv => exec_openingRead_mounted hs hv,
    fun hv => ?unmounted, fun v c hv hl hc => ?mounted, fun y hy => ?tally, fun hy => ?noTally⟩
  case openingUnmounted =>
    refine exec_unchanged hs rfl rfl rfl (fun _ => nofun) ?_
    simp [decisionOf, decideOpeningRead, hv, refuse]
  case unmounted =>
    refine exec_unchanged hs rfl rfl rfl (fun _ => nofun) ?_
    simp [decisionOf, decideVolumeRead, State.mounted, hv, answer]
  case mounted =>
    subst hc
    rw [exec_volumeRead_mounted hs hv hl]
    cases v.direction <;> cases v.source <;> cases v.position <;> rfl
  case tally =>
    refine exec_unchanged hs rfl rfl rfl (fun _ => nofun) ?_
    simp [decisionOf, decideTallyRead, hy, answer]
  case noTally =>
    refine exec_unchanged hs rfl rfl rfl (fun _ => nofun) ?_
    simp [decisionOf, decideTallyRead, hy, refuse]

/-! ### SIDE SET (08 R161) -/

section sideSet
variable {side : Nat} {st : SideState} {v : Volume}

/-- On one side, HELD is that side's own state. -/
theorem anyHeld_one (side : Nat) (s : State) : s.anyHeld side 1 = (s.sideState side == .held) := by
  simp [State.anyHeld, List.range_one]

/-- The state with one side of its opening table set. -/
def State.withSideSet (v : Volume) (side : Nat) (st : SideState) (s : State) : State :=
  { s with sau := { s.sau with openings := s.sau.openings.modify (side / 2) (withSide v.direction side st) } }

theorem setSide_mounted (hv : s.sau.volume = some v) : s.setSide side st = s.withSideSet v side st := by
  simp only [State.setSide, hv, setSideIn_modify, State.withSideSet]

/-- Setting a side to the state it has changes nothing. -/
theorem withSideSet_same (hv : s.sau.volume = some v) (h : s.sideState side = st) : s.withSideSet v side st = s := by
  simp only [State.sideState, hv] at h
  simp only [State.withSideSet, setSide_same _ _ _ h]

/-- The state of a side rests on SAU's part alone. -/
theorem sideState_sau {t : State} (h : t.sau = s.sau) : t.sideState side = s.sideState side := by
  simp only [State.sideState, h]

/-- No side but the set one changes its state. -/
theorem withSideSet_otherSide {k : Nat} (hv : s.sau.volume = some v) (hk : k ≠ side) :
    (s.withSideSet v side st).sideState k = s.sideState k := by
  simp only [State.sideState, State.withSideSet, hv]
  rw [← setSideIn_modify, sideState_set, if_neg fun h => hk h.1]

/-- Setting a side changes no opening's dose. -/
theorem withSideSet_dose (j : Nat) :
    (openingAt (s.withSideSet v side st).sau.openings j).dose = (openingAt s.sau.openings j).dose := by
  simp only [State.withSideSet]
  rw [← updateOpening_modify, openingAt_update]
  split
  next h =>
    obtain ⟨rfl, -⟩ := h
    unfold withSide
    split <;> rfl
  next => rfl

/-- The state with a HELD side superseded: the side is RETAKE, and the halves of the mount's tickets that cover it are
flagged (06 R130). -/
def State.withSuperseded (v : Volume) (side : Nat) (s : State) : State :=
  { s with
    sau := { s.sau with openings := s.sau.openings.modify (side / 2) (withSide v.direction side .retake) }
    cc := { s.cc with tickets := s.cc.tickets.map fun k =>
      if k.mountNo = v.mountNo ∧ k.orphaned = false then
        { k with
          left := k.left.map fun h => if h.side = side then { h with superseded := true } else h
          right := k.right.map fun h => if h.side = side then { h with superseded := true } else h }
      else k } }

theorem supersede_eq (no side : Nat) (k : Ticket) :
    k.supersede no side
      = if k.mountNo = no ∧ k.orphaned = false then
          { k with
            left := k.left.map fun h => if h.side = side then { h with superseded := true } else h
            right := k.right.map fun h => if h.side = side then { h with superseded := true } else h }
        else k := by
  have hcond : (k.ofMount no = true) ↔ (k.mountNo = no ∧ k.orphaned = false) := by simp [Ticket.ofMount]
  unfold Ticket.supersede
  simp only [hcond]
  rfl

theorem supersede_mounted (hv : s.sau.volume = some v) : s.supersede side = s.withSuperseded v side := by
  simp only [State.supersede, hv, setSide_mounted hv, State.withSideSet, State.withSuperseded]
  congr 3
  funext k
  exact supersede_eq _ _ _

theorem decideSideSet_unsettable (hv : s.sau.volume = some v) (h : settable st = false) :
    decideSideSet side side (some st) s = refuse .argument s := by
  simp [decideSideSet, hv, h]

variable (hv : s.sau.volume = some v) (h1 : 1 ≤ side) (h2 : side ≤ 2 * v.n)
include hv h1 h2

theorem decideSideSet_held (hset : settable st = true) (hheld : s.sideState side = .held) (hst : st ≠ .retake) :
    decideSideSet side side (some st) s = refuse .held s := by
  simp only [decideSideSet, hv, Nat.add_sub_cancel_left, anyHeld_one, hheld]
  rw [if_neg (by simp [hset]; omega), if_pos ⟨rfl, hst⟩]

/-- A side that is not HELD takes the state. -/
theorem decideSideSet_takes (hset : settable st = true) (hheld : s.sideState side ≠ .held) :
    ∃ a, decideSideSet side side (some st) s = (s.withSideSet v side st, a) := by
  simp only [decideSideSet, hv, Nat.add_sub_cancel_left, anyHeld_one]
  rw [if_neg (by simp [hset]; omega), if_neg (by simp [hheld])]
  simp only [setSides, setOneSide]
  rw [if_neg hheld]
  by_cases hsame : s.sideState side = st
  · rw [if_pos hsame, withSideSet_same hv hsame]
    exact ⟨_, rfl⟩
  · rw [if_neg hsame, setSide_mounted hv]
    exact ⟨_, rfl⟩

/-- A HELD side that is to be RETAKE is superseded. -/
theorem decideSideSet_supersedes (hheld : s.sideState side = .held) :
    decideSideSet side side (some .retake) s = (s.supersede side, ⟨.ok, [.num 1, .num 1]⟩) := by
  simp only [decideSideSet, hv, Nat.add_sub_cancel_left, anyHeld_one]
  rw [if_neg (by simp [settable]; omega), if_neg (by simp)]
  simp only [setSides, setOneSide]
  rw [if_pos hheld]
  rfl

end sideSet

/-- Settles O25: each test of SIDE SET on one side, and its two effects. -/
theorem sideSetChangesItsSide : Obligations.SideSetChangesItsSide := by
  intro tag side st s v hs hv h1 h2
  refine ⟨fun hst => ?unsettable, fun hheld hst => ?takes, fun hheld hst => ?held, fun hheld => ?supersedes⟩
  case unsettable =>
    refine exec_unchanged hs rfl rfl rfl (fun _ => nofun) (decideSideSet_unsettable (s := s.holding _ _) hv ?_)
    rcases hst with rfl | rfl | rfl <;> rfl
  case held =>
    refine exec_unchanged hs rfl rfl rfl (fun _ => nofun) (decideSideSet_held (s := s.holding _ _) hv h1 h2 ?_ hheld ?_)
    · rcases hst with rfl | rfl | rfl <;> rfl
    · rcases hst with rfl | rfl | rfl <;> exact nofun
  case takes =>
    have hset : settable st = true := by rcases hst with rfl | rfl | rfl | rfl <;> rfl
    obtain ⟨a, ha⟩ := decideSideSet_takes (s := s.holding 0x18#8 tag) hv h1 h2 hset hheld
    refine ⟨_, exec_decided (t := s.withSideSet v side st) hs rfl rfl rfl (fun _ => nofun) ha rfl rfl, ?_⟩
    refine ⟨by rw [answered_sau]; rfl, ?_, fun k hk => ?_, fun j => ?_⟩
    · exact (answered_frame _ _ _ _).trans (by rw [answered_sau]; rfl)
    · exact (sideState_sau (answered_sau _ _ _ _)).trans (withSideSet_otherSide hv hk)
    · rw [answered_sau]
      exact withSideSet_dose j
  case supersedes =>
    have hdecides := decideSideSet_supersedes (s := s.holding 0x18#8 tag) hv h1 h2 hheld
    rw [supersede_mounted (s := s.holding 0x18#8 tag) hv] at hdecides
    exact exec_decided (t := s.withSuperseded v side) hs rfl rfl rfl (fun _ => nofun) hdecides rfl rfl

end Sys2Proof.Machine
end

