-- ==== Sys2Proof/Proofs/TurnEnds.lean ====
section
/-! What TC tells of the end of an operation (02 R33, R43, R48, R51): TC's own part afterwards, and the TURN notice. -/

namespace Sys2Proof.Machine

variable (s : State) (k : OpKind) (st : TcState) (r : OpResult)

/-! ### The notice of an end (R33) -/

/-- What the TURN notice of an end carries, from the record in hand. -/
def State.endNotice (k : OpKind) (r : OpResult) (s : State) : TurnEnd :=
  { kind := k, result := r, turned := (s.tc.op.map Op.turned).getD 0, remaining := (s.tc.op.map Op.remaining).getD 0
    j := s.tc.j, state := s.tc.state }

/-- The telling of an end is a TURN notice, and a message to RC. -/
theorem tellEnd_eq :
    ∃ e, s.tellEnd k r
      = (s.notifyWith .turn fun g => { g with turnEnd := some (s.endNotice k r) }).withRc
          fun r => { r with heardEnd := some e } := by
  unfold State.tellEnd State.endNotice
  cases s.tc.op <;> exact ⟨_, rfl⟩

/-- The telling of an end changes what RC has heard, and LK's part. -/
theorem tellEnd_frame :
    ∃ e, s.tellEnd k r = { s with rc := { s.rc with heardEnd := some e }, lk := (s.tellEnd k r).lk } := by
  obtain ⟨e, he⟩ := tellEnd_eq s k r
  refine ⟨e, ?_⟩
  rw [he]
  unfold State.notifyWith
  split <;> rfl

theorem tellEnd_turnEnd :
    (s.tellEnd k r).lk.gathered.turnEnd
      = if s.set.noticeMask.getLsbD 3 then some (s.endNotice k r) else s.lk.gathered.turnEnd := by
  obtain ⟨e, he⟩ := tellEnd_eq s k r
  rw [he]
  cases hm : s.set.noticeMask.getLsbD 3 with
  | true => rw [notifyWith_unmasked (k := .turn) hm]; rfl
  | false => rw [notifyWith_masked (k := .turn) hm]; rfl

theorem tellEnd_pends (hm : s.set.noticeMask.getLsbD 3 = true) : (s.tellEnd k r).lk.pendingSet.getLsbD 3 = true := by
  obtain ⟨e, he⟩ := tellEnd_eq s k r
  rw [he]
  exact notifyWith_pends (k := .turn) hm

/-! ### The end of an operation (R33) -/

theorem finishOp_tc :
    (s.finishOp st r).tc = { { s.tc with state := st }.cleared with op := none, loweringDue := false } := by
  unfold State.finishOp
  simp [State.withTc]

theorem finishOp_lk :
    (s.finishOp st r).lk
      = (State.tellEnd { s.tc with state := st }.endKind r { s with tc := { s.tc with state := st } }).lk :=
  rfl

theorem finishOp_turnEnd :
    (s.finishOp st r).lk.gathered.turnEnd
      = if s.set.noticeMask.getLsbD 3 then
          some { s.endNotice s.tc.endKind r with state := st }
        else s.lk.gathered.turnEnd := by
  rw [finishOp_lk, tellEnd_turnEnd]
  rfl

theorem finishOp_pends (hm : s.set.noticeMask.getLsbD 3 = true) :
    (s.finishOp st r).lk.pendingSet.getLsbD 3 = true :=
  tellEnd_pends _ _ _ hm

/-- The end of an operation changes TC's part, what RC has heard, and LK's part. -/
theorem finishOp_frame :
    ∃ e, s.finishOp st r
      = { s with
          tc := (s.finishOp st r).tc, rc := { s.rc with heardEnd := some e }, lk := (s.finishOp st r).lk } := by
  obtain ⟨e, he⟩ := tellEnd_frame { s with tc := { s.tc with state := st } } { s.tc with state := st }.endKind r
  refine ⟨e, ?_⟩
  unfold State.finishOp
  dsimp only [State.withTc]
  rw [he]

/-- An operation of `x` has ended in a state with a result, with a last change of TC's part, and nothing else but RC's
record and LK's part has changed. -/
def endsOp (st : TcState) (r : OpResult) (g : Tc → Tc) (x t : State) : Prop :=
  t.tc = g { { x.tc with state := st }.cleared with op := none, loweringDue := false }
  ∧ t = { x with tc := t.tc, rc := t.rc, lk := t.lk }
  ∧ (x.set.noticeMask.getLsbD 3 = true → x.lk.sending.isSome = true →
      t.lk.pendingSet.getLsbD 3 = true
      ∧ t.lk.gathered.turnEnd = some { x.endNotice x.tc.endKind r with state := st })

theorem endsOp_fields {st : TcState} {r : OpResult} {g : Tc → Tc} {x t : State} (h : endsOp st r g x t) :
    t.now = x.now ∧ t.set = x.set ∧ t.pins = x.pins ∧ t.sau = x.sau ∧ t.lc = x.lc ∧ t.di = x.di ∧ t.fb = x.fb := by
  obtain ⟨-, hframe, -⟩ := h
  rw [hframe]
  exact ⟨rfl, rfl, rfl, rfl, rfl, rfl, rfl⟩

/-- The end of an operation in an event, with RC's record and the next frame. -/
theorem kick_endsOp (g : Tc → Tc) (rc : Rc) :
    endsOp st r g s (State.kick { (s.finishOp st r).withTc g with rc := rc }) := by
  refine ⟨?tc, ?frame, fun hm hb => ?told⟩
  case tc => rw [kick_tc, withTc_tc, finishOp_tc]
  case frame =>
    obtain ⟨e, he⟩ := finishOp_frame s st r
    refine (kick_frame _).trans ?_
    rw [kick_tc, kick_rc, he]
    rfl
  case told =>
    have hb' : (State.lk { (s.finishOp st r).withTc g with rc := rc }).sending.isSome = true :=
      (congrArg Option.isSome (finishOp_sending s st r)).trans hb
    rw [kick_busy hb']
    exact ⟨finishOp_pends s st r hm, (finishOp_turnEnd s st r).trans (if_pos hm)⟩

/-! ### Events that end an operation, with no run ACTIVE after them -/

section
variable {s x : State} {st : TcState} {r : OpResult} {g : Tc → Tc}

theorem event_endsOp {f : State → State} (hp : s.powered = true) (hf : f s = (x.finishOp st r).withTc g)
    (hq : x.lk.queue = []) (hr : x.runActive = false) :
    ∃ t, (Host.Outcome.next (s.event f) : Host.Outcome State Fault Refusal) = .next t ∧ endsOp st r g x t := by
  obtain ⟨rc, -, hexec⟩ := event_records hp hf ((finishOp_queue _ _ _).trans hq)
    ((congrArg (· == RunState.active) (finishOp_run _ _ _)).trans hr)
  exact ⟨_, hexec, kick_endsOp x st r g rc⟩

theorem pinEvent_endsOp {pin f : State → State} (hp : s.powered = true) (hf : f s = (x.finishOp st r).withTc g)
    (hq : x.lk.queue = []) (hr : x.runActive = false) :
    ∃ t, (Host.Outcome.next (s.pinEvent pin f) : Host.Outcome State Fault Refusal) = .next t ∧ endsOp st r g x t := by
  obtain ⟨rc, -, hexec⟩ := pinEvent_records (g := pin) hp hf ((finishOp_queue _ _ _).trans hq)
    ((congrArg (· == RunState.active) (finishOp_run _ _ _)).trans hr)
  exact ⟨_, hexec, kick_endsOp x st r g rc⟩

theorem timer_endsOp {due : State → Option Nat} {f : State → State} {d : Nat} (hp : s.powered = true)
    (hd : due s = some d) (hm : d / 1000 ≤ s.now / 1000) (hf : f (s.goTo d) = (x.finishOp st r).withTc g)
    (hq : x.lk.queue = []) (hr : x.runActive = false) :
    ∃ t, timer due f s = .next t ∧ endsOp st r g x t := by
  obtain ⟨rc, -, hexec⟩ := timer_records hp hd hm hf ((finishOp_queue _ _ _).trans hq)
    ((congrArg (· == RunState.active) (finishOp_run _ _ _)).trans hr)
  exact ⟨_, hexec, kick_endsOp x st r g rc⟩

end

/-! ### The halt of an operation (R42, R43) -/

theorem haltOp_tc (b : Bool) : (s.haltOp b).tc = { s.tc with state := .halted, loweringDue := b }.cleared := by
  unfold State.haltOp
  simp [State.withTc]

theorem haltOp_turnEnd (b : Bool) :
    (s.haltOp b).lk.gathered.turnEnd
      = if s.set.noticeMask.getLsbD 3 then
          some { s.endNotice s.tc.endKind .halted with state := .halted }
        else s.lk.gathered.turnEnd := by
  refine (tellEnd_turnEnd (s.withTc fun t => { t with state := .halted, loweringDue := b }) _ _).trans ?_
  rfl

/-! ### The end of a recovery (R51) -/

/-- TC's part as a recovery ends in a state: what ATTENTION holds stays only in ATTENTION (R48). -/
def Tc.recoveredTo (st : TcState) (t : Tc) : Tc :=
  { t with state := st, attention := if st = .attention then t.attention else none }

theorem recovered_eq :
    s.recovered st = ((s.withTc (Tc.recoveredTo st)).tellEnd .recover .done).withTc Tc.cleared := by
  cases st <;> rfl

theorem recovered_tc : (s.recovered st).tc = (s.tc.recoveredTo st).cleared := by
  rw [recovered_eq]
  simp [State.withTc]

theorem recovered_turnEnd :
    (s.recovered st).lk.gathered.turnEnd
      = if s.set.noticeMask.getLsbD 3 then
          some { s.endNotice .recover .done with state := st }
        else s.lk.gathered.turnEnd := by
  rw [recovered_eq]
  exact tellEnd_turnEnd (s.withTc (Tc.recoveredTo st)) _ _

theorem recovered_frame :
    ∃ e, s.recovered st
      = { s with
          tc := (s.recovered st).tc, rc := { s.rc with heardEnd := some e }, lk := (s.recovered st).lk } := by
  obtain ⟨e, he⟩ := tellEnd_frame (s.withTc (Tc.recoveredTo st)) .recover .done
  refine ⟨e, ?_⟩
  rw [recovered_eq, he]
  rfl

end Sys2Proof.Machine
end

