-- ==== Sys2Proof/Proofs/Dismount.lean ====
section
/-! DISMOUNT closes the account (08 R162 to R167, 05 R124, 06 R131): at once, after a raise, or by force. -/

namespace Sys2Proof.Machine

variable {s : State} {tag : Byte} {v : Volume}

/-! ### The completion (08 R165) -/

/-- DI's part after a dismount whose entry makes the carry table `carry` (04 R97). -/
def Di.handedOff (carry : List CarryEntry) (d : Di) : Di :=
  { d with carry := carry, dayDose := 0, carriedIn := 0, exhausted := false, warned := false }

/-- The entry that a dismount hands to the carry table. -/
def State.carryOf (v : Volume) (s : State) : CarryEntry :=
  { mark := v.mark, dose := s.di.dayDose, time := s.now / 1000, cls := v.cls }

theorem completeDismount_room (hv : s.sau.volume = some v) (hl : s.di.carry.length < 16) :
    s.completeDismount .dismount
      = { s with
          sau := { s.sau with volume := none, openings := [], tally := some (s.closingTally v .dismount) }
          di := s.di.handedOff (s.di.carry ++ [s.carryOf v])
          tc := s.tc.dismounted .dismount, rc := { s.rc with volumeSkips := 0 } } := by
  obtain ⟨x, hx, h⟩ := completeDismount_some hv hl .dismount
  rw [h, hx]
  rfl

theorem completeDismount_forcedRoom (hv : s.sau.volume = some v) (hl : s.di.carry.length < 16) :
    s.completeDismount .forced
      = { s with
          sau := { s.sau with volume := none, openings := [], tally := some (s.closingTally v .forced) }
          di := s.di.handedOff (s.di.carry ++ [s.carryOf v])
          tc := s.tc.dismounted .forced, rc := { s.rc with volumeSkips := 0 }
          cc := (s.orphan v.mountNo).cc } := by
  obtain ⟨x, hx, h⟩ := completeDismount_some hv hl .forced
  rw [h, hx]
  rfl

/-- A full carry table gives up its oldest entry. -/
theorem completeDismount_evicts {e : CarryEntry} {rest : List CarryEntry} (hv : s.sau.volume = some v)
    (hc : s.di.carry = e :: rest) (hl : rest.length = 15) :
    s.completeDismount .dismount
      = { s.report .carryEvict [e.dose] with
          sau := { s.sau with volume := none, openings := [], tally := some (s.closingTally v .dismount) }
          di := s.di.handedOff (rest ++ [s.carryOf v])
          tc := s.tc.dismounted .dismount, rc := { s.rc with volumeSkips := 0 } } := by
  unfold State.completeDismount State.handOffDose
  rw [hv]
  simp only [ne_eq, not_true_eq_false, decide_false, Bool.false_eq_true, if_false]
  rw [appendCarry_full hc (by simp [hc, hl])]
  simp only [report_sau, report_tc, report_rc]
  rfl

/-! ### The tests (R162) -/

/-- The decision of a refused DISMOUNT. -/
theorem decideDismount_refused {force : Option Bool} {r : Result} (h : s.dismountRefusal force = some r) :
    decideDismount force s = refuse r s := by
  simp only [decideDismount, h]

section decides
variable (hv : s.sau.volume = some v) (hrun : s.runActive = false) (hpause : s.runPaused = false)
include hv hrun hpause

theorem dismountRefusal_tickets (ht : s.tc.state = .unclamped) (hk : s.ticketsOfMount v = true) :
    s.dismountRefusal (some false) = some .tickets := by
  simp [State.dismountRefusal, hv, hrun, hpause, ht, hk, TcState.moving]

/-- At rest, with no run and no ticket of the mount, or with force. -/
theorem dismountRefusal_atRest {force : Bool} (ht : s.tc.state = .unclamped ∨ s.tc.state = .clamped ∨ s.tc.state = .halted)
    (hk : force = true ∨ s.ticketsOfMount v = false) : s.dismountRefusal (some force) = none := by
  have hrest : ¬ (s.tc.state.moving = true ∨ s.tc.state = .attention ∨ s.tc.state = .safeStop) := by
    rcases ht with ht | ht | ht <;> simp [ht, TcState.moving]
  have hring : (!force && s.ticketsOfMount v) = false := by rcases hk with hk | hk <;> simp [hk]
  simp only [State.dismountRefusal, hv, hrun, hpause]
  rw [if_neg (by simp), if_neg hrest, hring]
  rfl

variable (hpreview : s.lc.preview = none)
include hpreview

theorem decideDismount_atOnce (ht : s.tc.state = .unclamped) (hk : s.ticketsOfMount v = false) :
    decideDismount (some false) s = answer .ok [.num v.mountNo] (s.completeDismount .dismount) := by
  simp [decideDismount, dismountRefusal_atRest hv hrun hpause (.inl ht) (.inr hk), hv, ht, endPreview_none hpreview, causeOf]

theorem decideDismount_forced (ht : s.tc.state = .unclamped) :
    decideDismount (some true) s
      = answer .ok [.num v.mountNo] (s.abandonCapture.completeDismount .forced) := by
  simp [decideDismount, dismountRefusal_atRest hv hrun hpause (.inl ht) (.inl rfl), hv, ht, endPreview_none hpreview,
    causeOf]

theorem decideDismount_raises (ht : s.tc.state = .clamped ∨ (s.tc.state = .halted ∧ s.pins.platenUp = false))
    (hk : s.ticketsOfMount v = false) (hd : s.tc.pendingDwell = false) :
    decideDismount (some false) s
      = answer .accepted [.num v.mountNo] { s with
          tc := { s.tc with
            op := some (platenOp .dismount false), state := .raising, phaseStart := s.now, dwellStart := none
            atForce := false, loweringDue := false, pendingDwell := false, pendingOverforce := false
            raiseGoal := some (.dismount false) } } := by
  have hrest : s.tc.state = .unclamped ∨ s.tc.state = .clamped ∨ s.tc.state = .halted := by tauto
  have hdown : s.tc.state = .clamped ∨ (s.tc.state = .halted ∧ s.platenDown = true) := by
    simpa [State.platenDown] using ht
  simp only [decideDismount, dismountRefusal_atRest hv hrun hpause hrest (.inr hk), hv, endPreview_none hpreview]
  refine (if_pos hdown).trans ?_
  simp only [State.beginDismountRaise, Option.getD_some, Bool.false_eq_true, if_false, hd]
  rfl

end decides

/-! ### A capture abandoned by force (05 R124) -/

/-- An abandoned capture leaves every bank dark. -/
theorem abandonCapture_dark (hc : s.cc.state ≠ .idle) : s.abandonCapture.dark := by
  unfold State.abandonCapture
  rw [if_neg hc]
  intro b
  simpa [State.onOpenTicket] using endWindow_dark s b

/-! ### The completion after a raise (R164) -/

/-- The end of a dismount's raise, with no recovery in flight, completes the dismount and tells it. -/
theorem dismountRaised_eq {forced : Bool} (hr : s.tc.recover = none) :
    s.dismountRaised forced
      = ((s.completeDismount (causeOf forced)).tellEnd .dismount .dismounted).withTc Tc.cleared := by
  simp [State.dismountRaised, hr]

/-- Whatever the cause, a dismount with room in the carry table touches neither the lamps nor the fault banks. -/
theorem completeDismount_keeps (hv : s.sau.volume = some v) (hl : s.di.carry.length < 16) (c : TallyCause) :
    (s.completeDismount c).lc = s.lc ∧ (s.completeDismount c).fb = s.fb
    ∧ (s.completeDismount c).di.carry = s.di.carry ++ [s.carryOf v] := by
  obtain ⟨x, hx, h⟩ := completeDismount_some hv hl c
  rw [h, hx]
  split <;> exact ⟨rfl, rfl, rfl⟩

/-- The UP switch made in the raise of a dismount. -/
theorem upMade_dismounts {forced : Bool} (hst : s.tc.state = .raising) (hg : s.tc.raiseGoal = some (.dismount forced))
    (hr : s.tc.recover = none) :
    s.upMade
      = ((State.completeDismount (causeOf forced) { s with
            pins := { s.pins with platenUp := true }, tc := { s.tc with atForce := false } }).tellEnd .dismount
          .dismounted).withTc Tc.cleared := by
  simp only [State.upMade, hst, State.raised, hg]
  exact dismountRaised_eq hr

/-! ### DISMOUNT in a part that serves requests -/

theorem closingTally_by (v : Volume) (c : TallyCause) (s : State) :
    (s.closingTally v c).mark = v.mark ∧ (s.closingTally v c).mountNo = v.mountNo ∧ (s.closingTally v c).cause = c
    ∧ (s.closingTally v c).time = s.now / 1000 ∧ (s.closingTally v c).dayDose = s.di.dayDose
    ∧ (s.closingTally v c).carriedIn = s.di.carriedIn ∧ (s.closingTally v c).turnsDone = s.tc.turnsDone
    ∧ (s.closingTally v c).doseSkips = s.rc.volumeSkips := by
  cases c <;> exact ⟨rfl, rfl, rfl, rfl, rfl, rfl, rfl, rfl⟩

/-- With force every HELD side has become a RETAKE before the sides are counted. -/
theorem closingTally_forcedHeld (v : Volume) (s : State) : (s.closingTally v .forced).counts.held = 0 := by
  change (sidesInOrder v.direction v.n (unholdAll s.sau.openings)).count .held = 0
  rw [sidesInOrder_unhold, List.count_eq_zero]
  simp only [List.mem_map, not_exists, not_and]
  intro st _
  split <;> simp_all

section exec
variable (hs : s.serves) (hv : s.sau.volume = some v) (hrun : s.runActive = false) (hpause : s.runPaused = false)
  (hpreview : s.lc.preview = none)
include hs hv hrun hpause hpreview

theorem exec_dismount_atOnce (ht : s.tc.state = .unclamped) (hk : s.ticketsOfMount v = false) (hl : s.di.carry.length < 16) :
    exec (.dismount tag (some false)) s
      = .next (State.answered 0x19#8 tag ⟨.ok, [.num v.mountNo]⟩ { s with
          sau := { s.sau with volume := none, openings := [], tally := some (s.closingTally v .dismount) }
          di := s.di.handedOff (s.di.carry ++ [s.carryOf v])
          tc := s.tc.dismounted .dismount, rc := { s.rc with volumeSkips := 0 } }) := by
  have ⟨⟨⟨_, hqueue, hquiet⟩, _⟩, _⟩ := hs
  have hdecides := decideDismount_atOnce (s := s.holding 0x19#8 tag) hv hrun hpause hpreview ht hk
  rw [completeDismount_room (s := s.holding 0x19#8 tag) hv hl] at hdecides
  exact exec_decides (t := { s with
      sau := { s.sau with volume := none, openings := [], tally := some (s.closingTally v .dismount) }
      di := s.di.handedOff (s.di.carry ++ [s.carryOf v])
      tc := s.tc.dismounted .dismount, rc := { s.rc with volumeSkips := 0 } })
    hs rfl rfl rfl (fun _ => nofun) hdecides hqueue hquiet

theorem exec_dismount_evicts {e : CarryEntry} {rest : List CarryEntry} (ht : s.tc.state = .unclamped)
    (hk : s.ticketsOfMount v = false) (hc : s.di.carry = e :: rest) (hl : rest.length = 15) :
    ∃ t, exec (.dismount tag (some false)) s = .next t ∧ t.sau.volume = none ∧ t.tc.j = 0
      ∧ t.di.carry = rest ++ [s.carryOf v] ∧ t.fb = (s.report .carryEvict [e.dose]).fb ∧ t.cc = s.cc ∧ t.lc = s.lc
      ∧ t.set = s.set := by
  have ⟨⟨⟨_, hqueue, hquiet⟩, _⟩, _⟩ := hs
  have hdecides := decideDismount_atOnce (s := s.holding 0x19#8 tag) hv hrun hpause hpreview ht hk
  rw [completeDismount_evicts (s := s.holding 0x19#8 tag) hv hc hl] at hdecides
  refine ⟨_, exec_next hs rfl rfl rfl (fun _ => nofun) hdecides ((report_queue _ _ _).trans hqueue) hquiet, ?_⟩
  simp only [answered_sau, answered_tc, answered_di, answered_fb, answered_cc, answered_lc, answered_set, report_cc,
    report_lc, report_set]
  refine ⟨trivial, rfl, rfl, ?_, rfl, rfl, rfl⟩
  refine report_banks ⟨?_, ?_, ?_, ?_⟩ _ _ <;> rfl

/-- What a dismount by force leaves of a capture in progress: its ticket is closed and orphaned. -/
theorem exec_dismount_forced {pre : List Ticket} {k : Ticket} (ht : s.tc.state = .unclamped)
    (htickets : s.cc.tickets = pre ++ [k]) (hopen : k.closed = false) (hno : k.mountNo = v.mountNo)
    (hcap : s.cc.state ≠ .idle) (hl : s.di.carry.length < 16) :
    ∃ t y, exec (.dismount tag (some true)) s = .next t ∧ t.cc.state = .idle ∧ t.dark
      ∧ t.cc.tickets.getLast? = some { k with
          left := k.left.map fun h => { h with result := some (h.result.getD .resetCut) }
          right := k.right.map fun h => { h with result := some (h.result.getD .resetCut) }
          closed := true, closeTime := some (s.now / 1000), orphaned := true }
      ∧ t.sau = { s.sau with volume := none, openings := [], tally := some y } ∧ y.cause = .forced
      ∧ y.mountNo = v.mountNo ∧ y.counts.held = 0 ∧ (s.sau.openings.length = v.n + 1 → y.closes v .forced s)
      ∧ t.tc.state = .unclamped ∧ t.tc.j = 0
      ∧ t.fb = s.fb ∧ t.set = s.set ∧ t.pins = s.pins := by
  have ⟨⟨⟨_, hqueue, _⟩, _⟩, _⟩ := hs
  obtain ⟨a, ha⟩ : ∃ a, a = (s.holding 0x19#8 tag).abandonCapture := ⟨_, rfl⟩
  have hdecides := decideDismount_forced (s := s.holding 0x19#8 tag) hv hrun hpause hpreview ht
  have hsau : a.sau = s.sau := by simp [ha]
  have htc : a.tc = s.tc := by simp [ha]
  obtain ⟨pre', htickets'⟩ := abandonCapture_newest (s := s.holding 0x19#8 tag) htickets hopen hcap
  have hdark := abandonCapture_dark (s := s.holding 0x19#8 tag) hcap
  rw [← ha] at hdecides htickets' hdark
  rw [completeDismount_forcedRoom (s := a) (v := v) (hsau ▸ hv) (by simpa [ha] using hl)] at hdecides
  obtain ⟨r, -, hexec⟩ := exec_records (i := .dismount tag (some true)) hs rfl rfl rfl (fun _ => nofun) hdecides
    (by simpa [ha] using hqueue) (by simpa [ha, State.runActive] using hrun)
  obtain ⟨-, hno', hcause, -⟩ := closingTally_by v .forced a
  refine ⟨_, a.closingTally v .forced, hexec, ?_⟩
  simp only [State.dark, answered_cc, answered_lc, answered_sau, answered_tc, answered_fb, answered_set, answered_pins]
  refine ⟨?idle, hdark, ?ticket, by rw [hsau], hcause, hno', closingTally_forcedHeld v a, fun hlen => ?closes, rfl, rfl,
    ?fb, ?set, ?pins⟩
  case idle => simp [State.orphan, ha]
  case ticket =>
    simp only [State.orphan, htickets', List.map_append, List.map_singleton, List.getLast?_append, List.getLast?_singleton,
      Ticket.giveAll, if_pos hno]
    rfl
  case closes =>
    refine closingTally_closes hv hlen hsau ?_ ⟨?_, ?_⟩ ⟨by rw [htc], by rw [htc], by rw [htc]⟩ ?_ <;> simp [ha]
  all_goals simp [ha]

end exec

/-- Settles O26. -/
theorem dismountClosesTheAccount : Obligations.DismountClosesTheAccount := by
  refine ⟨fun tag s v hs hv hrun hpause hpreview => ⟨fun ht hk => ?tickets, fun ht hk hl => ?atOnce,
    fun e rest ht hk hc hl => exec_dismount_evicts hs hv hrun hpause hpreview ht hk hc hl, fun ht hk hd => ?raises,
    fun pre k ht htickets hopen hno hcap hl =>
      exec_dismount_forced hs hv hrun hpause hpreview ht htickets hopen hno hcap hl⟩,
    fun forced s v o hq hrun hv hst hgoal hrec hop hl => ?raised⟩
  case tickets =>
    exact exec_unchanged hs rfl rfl rfl (fun _ => nofun)
      (decideDismount_refused (dismountRefusal_tickets (s := s.holding 0x19#8 tag) hv hrun hpause ht hk))
  case atOnce =>
    obtain ⟨hmark, hno, hcause, htime, hdose, hcarried, hturns, hskips⟩ := closingTally_by v .dismount s
    refine ⟨_, s.closingTally v .dismount, exec_dismount_atOnce hs hv hrun hpause hpreview ht hk hl, ?_⟩
    simp only [answered_sau, answered_tc, answered_di, answered_fb, answered_cc, answered_lc, answered_set, answered_rc,
      answered_now, answered_pins, true_and, and_true]
    exact ⟨hmark, hno, hcause, htime, hdose, hcarried, hturns, hskips,
      fun hlen => closingTally_closes hv hlen rfl rfl ⟨rfl, rfl⟩ ⟨rfl, rfl, rfl⟩ rfl, rfl, rfl, rfl, rfl⟩
  case raises =>
    have hdecides := decideDismount_raises (s := s.holding 0x19#8 tag) hv hrun hpause hpreview ht hk hd
    exact exec_decided hs rfl rfl rfl (fun _ => nofun) hdecides rfl rfl
  case raised =>
    obtain ⟨hp, hqueue, -⟩ := hq
    obtain ⟨x, hx⟩ : ∃ x : State, x = { s with
      pins := { s.pins with platenUp := true }, tc := { s.tc with atForce := false } } := ⟨_, rfl⟩
    have hsau : x.sau = s.sau := by rw [hx]
    have hxv : x.sau.volume = some v := hsau ▸ hv
    have heffect := upMade_dismounts hst hgoal hrec
    rw [← hx] at heffect
    obtain ⟨r, -, hexec⟩ := pinEvent_records (g := fun s1 => { s1 with pins := { s1.pins with platenUp := true } }) hp
      heffect (by simpa [State.withTc, hx] using hqueue) (by simpa [State.withTc, State.runActive, hx] using hrun)
    obtain ⟨hlc, hfb, hcarry⟩ := completeDismount_keeps hxv (by rw [hx]; exact hl) (causeOf forced)
    obtain ⟨hmark, hno, hcause, -⟩ := closingTally_by v (causeOf forced) x
    refine ⟨_, x.closingTally v (causeOf forced), hexec, ?_⟩
    simp only [State.withTc, kick_sau, kick_tc, kick_di, kick_pins, kick_lc, kick_fb, kick_set, kick_now, tellEnd_sau,
      tellEnd_tc, tellEnd_di, tellEnd_pins, tellEnd_lc, tellEnd_fb, tellEnd_set, tellEnd_now, completeDismount_sau hxv,
      completeDismount_tc hxv, completeDismount_pins, completeDismount_set, completeDismount_now]
    refine ⟨by rw [hsau], hcause, hmark, hno, fun hlen => ?closes, ?carry, ?state, rfl, rfl, by rw [hx], fun hm hb => ?told,
      ?lc, ?fb, by rw [hx], by rw [hx]⟩
    case closes => refine closingTally_closes hv hlen hsau ?_ ⟨?_, ?_⟩ ⟨?_, ?_, ?_⟩ ?_ <;> rw [hx]
    case carry => rw [hcarry, hx]; rfl
    case state => cases forced <;> rfl
    case told =>
      have hmask : (x.completeDismount (causeOf forced)).set.noticeMask.getLsbD 3 = true := by simpa [hx] using hm
      rw [kick_busy (by simpa [hx] using hb)]
      refine ⟨tellEnd_pends _ _ _ hmask, ?_⟩
      change Option.map _ (State.tellEnd _ _ _).lk.gathered.turnEnd = _
      rw [tellEnd_turnEnd, if_pos hmask]
      rfl
    case lc => rw [hlc, hx]
    case fb => rw [hfb, hx]

end Sys2Proof.Machine
end

