-- ==== Sys2Proof/Proofs/Turning.lean ====
section
/-! An accepted TURN begins its first leaf (02 R25, R26), CLAMP and UNCLAMP begin (R35, R36), and HALT and RESUME with no run
(R42, R44). -/

namespace Sys2Proof.Machine

variable {s : State} {tag : Byte} {v : Volume}

/-! ### Leaves (R26) -/

theorem isFoldout_mounted (hv : s.sau.volume = some v) (leaf : Nat) : s.isFoldout leaf = v.foldouts.contains leaf := by
  simp only [State.isFoldout, hv]

theorem airStart_mounted (hv : s.sau.volume = some v) : s.airStart = v.limits.airStart := by
  simp [State.airStart, State.limits?, hv]

theorem retryLimit_mounted (hv : s.sau.volume = some v) : s.retryLimit = v.limits.retryLimit := by
  simp [State.retryLimit, State.limits?, hv]

/-- TC's part as an attempt begins (R27). -/
def Tc.attempting (now attempt air : Nat) (t : Tc) : Tc :=
  { t with
    state := .lifting, phaseStart := now, attempt := attempt, air := air, knife := air, vacuum := true
    leafInHand := true, raiseGoal := none, returnGoal := none }

/-- The first attempt on a leaf of the mounted volume. -/
theorem beginLeaf_mounted (hv : s.sau.volume = some v) :
    s.beginLeaf
      = { s with tc := s.tc.attempting s.now 1 v.limits.airStart, pins := { s.pins with armPark := false } } := by
  rw [State.beginLeaf, airStart_mounted hv]
  rfl

/-! ### TURN (R25) -/

/-- The record of a turn from the host. -/
def turnOp (n : Int) (clampAfter fromClamped : Bool) : Op :=
  { kind := .turn, forward := decide (0 < n), remaining := n.natAbs, turned := 0, clampAfter := clampAfter
    fromClamped := fromClamped, byRun := false }

/-- The part with the record of a turn in hand. -/
def State.turning (n : Int) (c : Bool) (s : State) : State :=
  { s with tc := { s.tc with op := some (turnOp n c (decide (s.tc.state = .clamped))) } }

/-- The first leaf of a turn is a foldout where the list has it (R26). -/
theorem turning_foldout {n : Int} {c : Bool} (hv : s.sau.volume = some v) :
    (s.turning n c).isFoldout (s.turning n c).tc.nextLeaf
      = v.foldouts.contains (if 0 < n then s.tc.j + 1 else s.tc.j) := by
  rw [isFoldout_mounted (s := s.turning n c) hv]
  simp only [Tc.nextLeaf, State.turning, turnOp, decide_eq_true_eq]

/-- With no recovery in flight a turn ends under its own kind. -/
theorem turning_endKind {n : Int} {c : Bool} (hrec : s.tc.recover = none) : (s.turning n c).tc.endKind = .turn := by
  simp [Tc.endKind, State.turning, turnOp, hrec]

section begins
variable {n : Int} {c : Bool} (hv : s.sau.volume = some v) (hpreview : s.lc.preview = none)
include hv hpreview

/-- With no preview lit the test of the first leaf decides how a turn begins. -/
theorem beginTurn_eq :
    s.beginTurn n c false
      = if v.foldouts.contains (if 0 < n then s.tc.j + 1 else s.tc.j) = true then
          (s.turning n c).finishOp s.tc.state .foldoutStop
        else if decide (s.tc.state = .clamped) = true then (s.turning n c).beginRaise .lift
        else (s.turning n c).beginLeaf := by
  rw [State.beginTurn, endPreview_none hpreview, ← turning_foldout hv]
  rfl

theorem beginTurn_unclamped (ht : s.tc.state = .unclamped)
    (hleaf : v.foldouts.contains (if 0 < n then s.tc.j + 1 else s.tc.j) = false) :
    s.beginTurn n c false
      = { s with
          tc := { s.tc with op := some (turnOp n c false) }.attempting s.now 1 v.limits.airStart
          pins := { s.pins with armPark := false } } := by
  rw [beginTurn_eq hv hpreview, hleaf, if_neg Bool.false_ne_true, if_neg (by simp [ht]),
    beginLeaf_mounted (s := s.turning n c) hv]
  simp [State.turning, ht]

theorem beginTurn_clamped (ht : s.tc.state = .clamped)
    (hleaf : v.foldouts.contains (if 0 < n then s.tc.j + 1 else s.tc.j) = false) :
    s.beginTurn n c false
      = { s with tc := { s.tc with
            op := some (turnOp n c true), state := .raising, phaseStart := s.now, dwellStart := none, atForce := false
            raiseGoal := some .lift } } := by
  rw [beginTurn_eq hv hpreview, hleaf, if_neg Bool.false_ne_true, if_pos (by simp [ht])]
  simp [State.turning, ht, State.beginRaise, State.withTc]

theorem beginTurn_foldout (hleaf : v.foldouts.contains (if 0 < n then s.tc.j + 1 else s.tc.j) = true) :
    s.beginTurn n c false = (s.turning n c).finishOp s.tc.state .foldoutStop := by
  rw [beginTurn_eq hv hpreview, if_pos hleaf]

end begins

/-- Settles O28: the test of the first leaf, and where it is no foldout the state TC leaves. -/
theorem turnBeginsItsFirstLeaf : Obligations.TurnBeginsItsFirstLeaf := by
  intro tag n c s v hs hv hticket howns hrun hpreview hcls h0 hlo hhi hjlo hjhi
  have ⟨⟨⟨_, hqueue, hquiet⟩, _⟩, _⟩ := hs
  have hrefusal : s.tc.state = .unclamped ∨ s.tc.state = .clamped →
      (s.holding 0x20#8 tag).turnRefusal n (some c) true = none := by
    intro ht
    rw [turnRefusal_mounted (s := s.holding 0x20#8 tag) hv, if_neg (by simp; tauto), if_neg, if_neg, if_neg, if_neg]
    · simp; omega
    · simp [hcls]
    · exact fun h => Bool.false_ne_true (howns.symm.trans h)
    · exact fun h => Bool.false_ne_true (hticket.symm.trans h)
  refine ⟨fun ht hleaf => ?lifts, fun ht hleaf => ?raises, fun ht hrec hleaf => ?stops⟩
  case lifts =>
    have hd := decideTurn_accepted (hrefusal (.inl ht))
    rw [show (some c).getD false = c from rfl, show (!true) = false from rfl,
      beginTurn_unclamped (s := s.holding 0x20#8 tag) hv hpreview ht hleaf] at hd
    exact exec_decided hs rfl rfl rfl (fun _ => nofun) hd rfl rfl
  case raises =>
    have hd := decideTurn_accepted (hrefusal (.inr ht))
    rw [show (some c).getD false = c from rfl, show (!true) = false from rfl,
      beginTurn_clamped (s := s.holding 0x20#8 tag) hv hpreview ht hleaf] at hd
    exact exec_decided hs rfl rfl rfl (fun _ => nofun) hd rfl rfl
  case stops =>
    have hd := decideTurn_accepted (hrefusal ht)
    rw [show (some c).getD false = c from rfl, show (!true) = false from rfl,
      beginTurn_foldout (s := s.holding 0x20#8 tag) hv hpreview hleaf] at hd
    obtain ⟨r, -, hexec⟩ := exec_records (i := .turn tag n (some c)) hs rfl rfl rfl (fun _ => nofun) hd
      ((finishOp_queue _ _ _).trans hqueue) ((congrArg (· == RunState.active) (finishOp_run _ _ _)).trans hrun)
    refine ⟨_, hexec, ?_⟩
    simp only [answered_tc, answered_pins, answered_gathered, finishOp_tc, finishOp_pins, finishOp_turnEnd]
    refine ⟨rfl, rfl, trivial, rfl, ?_⟩
    rw [turning_endKind (s := s.holding 0x20#8 tag) hrec]
    rfl

/-! ### CLAMP and UNCLAMP (R35, R36) -/

section clamp
variable (hrun : s.runActive = false) (hpreview : s.lc.preview = none)
include hrun

theorem decideClamp_moving (hv : s.sau.volume.isSome = true) (ht : s.tc.state ≠ .unclamped) :
    decideClamp true s = refuse .state s := by
  simp [decideClamp, State.mounted, hv, hrun, ht]

theorem decideUnclamp_moving (ht : s.tc.state ≠ .clamped) : decideUnclamp true s = refuse .state s := by
  simp [decideUnclamp, hrun, ht]

include hpreview

/-- CLAMP begins a lowering. -/
theorem decideClamp_lowers (hv : s.sau.volume.isSome = true) (ht : s.tc.state = .unclamped) (hk : s.ticketOpen = false) :
    decideClamp true s
      = answer .accepted [] { s with
          pins := { s.pins with platenUp := false }
          tc := { s.tc with
            op := some (platenOp .clamp false), state := .lowering, phaseStart := s.now, loweringDue := false } } := by
  simp only [decideClamp, State.mounted, hv, hrun, ht, hk, endPreview_none hpreview]
  rfl

/-- UNCLAMP begins a raise. -/
theorem decideUnclamp_raises (ht : s.tc.state = .clamped) (hk : s.ticketOpen = false) :
    decideUnclamp true s
      = answer .accepted [] { s with tc := { s.tc with
          op := some (platenOp .unclamp false), state := .raising, phaseStart := s.now, dwellStart := none
          atForce := false, raiseGoal := some .unclamp } } := by
  simp only [decideUnclamp, hrun, ht, hk, endPreview_none hpreview]
  rfl

end clamp

/-- Settles O29: the tests of both requests, and their beginnings. -/
theorem platenRequestsBegin : Obligations.PlatenRequestsBegin := by
  intro tag s hs hrun hpreview
  refine ⟨fun hv => ?unmounted, fun hv ht => ?clampState, fun hv ht hk => ?clamp, fun ht => ?unclampState,
    fun ht hk => ?unclamp⟩
  case unmounted =>
    refine exec_unchanged hs rfl rfl rfl (fun _ => nofun) ?_
    simp [decisionOf, decideClamp, State.mounted, hv, refuse]
  case clampState =>
    exact exec_unchanged hs rfl rfl rfl (fun _ => nofun) (decideClamp_moving (s := s.holding 0x21#8 tag) hrun hv ht)
  case clamp =>
    exact exec_decided hs rfl rfl rfl (fun _ => nofun)
      (decideClamp_lowers (s := s.holding 0x21#8 tag) hrun hpreview hv ht hk) rfl rfl
  case unclampState =>
    exact exec_unchanged hs rfl rfl rfl (fun _ => nofun) (decideUnclamp_moving (s := s.holding 0x22#8 tag) hrun ht)
  case unclamp =>
    exact exec_decided hs rfl rfl rfl (fun _ => nofun)
      (decideUnclamp_raises (s := s.holding 0x22#8 tag) hrun hpreview ht hk) rfl rfl

/-! ### HALT and RESUME with no run (R42, R44) -/

section noRun
variable (hidle : s.rc.state = .idle)
include hidle

/-- With no run RC takes no part in a HALT. -/
theorem decideHalt_noRun :
    decideHalt s
      = if s.tc.state = .homing then refuse .state s
        else if s.tc.state.moving = true then answer .ok [] { s with tc := { s.tc with haltMark := true } }
        else answer .ok [] s := by
  have hquiet : ∀ t : State, t.rc = s.rc → t.rcHalt = t := by
    intro t ht
    simp only [State.rcHalt, ht, hidle]
  unfold decideHalt tcHalt
  split
  next => exact congrArg (·, _) (hquiet s rfl)
  next =>
    split
    next => exact congrArg (·, _) (hquiet (s.withTc fun t => { t with haltMark := true }) rfl)
    next => exact congrArg (·, _) (hquiet s rfl)

/-- With no run a RESUME is TC's. -/
theorem decideResume_noRun : decideResume s = tcResume s := by
  simp only [decideResume, hidle]

theorem decideResume_notHalted (ht : s.tc.state ≠ .halted) : decideResume s = refuse .state s := by
  rw [decideResume_noRun hidle, tcResume, if_pos ht]

variable {o : Op} (ht : s.tc.state = .halted) (ho : s.tc.op = some o)
include ht ho

/-- A halted turn with its platen up goes on with its next leaf. -/
theorem decideResume_lifts (hv : s.sau.volume = some v) (hr : 0 < o.remaining) (hup : s.pins.platenUp = true)
    (hleaf : v.foldouts.contains (if o.forward then s.tc.j + 1 else s.tc.j) = false) :
    decideResume s
      = answer .accepted [] { s with
          tc := s.tc.attempting s.now 1 v.limits.airStart, pins := { s.pins with armPark := false } } := by
  have hnext : s.tc.nextLeaf = if o.forward then s.tc.j + 1 else s.tc.j := by simp only [Tc.nextLeaf, ho]
  rw [decideResume_noRun hidle, tcResume, if_neg (not_not_intro ht), Tc.remainingCount, ho]
  dsimp only
  rw [if_pos hr, isFoldout_mounted hv, hnext, hleaf, if_neg Bool.false_ne_true, if_neg (by simp [State.platenDown, hup]),
    beginLeaf_mounted hv]

/-- A halted operation whose lowering is due goes on with it. -/
theorem decideResume_lowers (hr : o.remaining = 0) (hdue : s.tc.loweringDue = true) :
    decideResume s
      = answer .accepted [] { s with
          pins := { s.pins with platenUp := false }
          tc := { s.tc with state := .lowering, phaseStart := s.now, loweringDue := false } } := by
  rw [decideResume_noRun hidle, tcResume, if_neg (not_not_intro ht), Tc.remainingCount, ho]
  dsimp only
  rw [if_neg (by omega), if_pos hdue]
  rfl

end noRun

/-- Settles O30: TC's part of HALT and of RESUME. -/
theorem haltAndResume : Obligations.HaltAndResume := by
  intro tag s hs hidle
  refine ⟨?halt, fun ht => ?notHalted, fun v o ht hv ho hr hup hleaf => ?lifts, fun o ht ho hr hdue => ?lowers⟩
  case halt =>
    have hd := decideHalt_noRun (s := s.holding 0x23#8 tag) hidle
    split_ifs with hhoming hmoving
    · exact exec_unchanged hs rfl rfl rfl (fun _ => nofun) (hd.trans (if_pos hhoming))
    · exact exec_decided (t := { s with tc := { s.tc with haltMark := true } }) hs rfl rfl rfl (fun _ => nofun)
        (hd.trans ((if_neg hhoming).trans (if_pos hmoving))) rfl rfl
    · exact exec_unchanged hs rfl rfl rfl (fun _ => nofun) (hd.trans ((if_neg hhoming).trans (if_neg hmoving)))
  case notHalted =>
    exact exec_unchanged hs rfl rfl rfl (fun _ => nofun) (decideResume_notHalted (s := s.holding 0x24#8 tag) hidle ht)
  case lifts =>
    exact exec_decided hs rfl rfl rfl (fun _ => nofun)
      (decideResume_lifts (s := s.holding 0x24#8 tag) hidle ht ho hv hr hup hleaf) rfl rfl
  case lowers =>
    exact exec_decided hs rfl rfl rfl (fun _ => nofun)
      (decideResume_lowers (s := s.holding 0x24#8 tag) hidle ht ho hr hdue) rfl rfl

end Sys2Proof.Machine
end

