-- ==== Sys2Proof/Proofs/Placing.lean ====
section
/-! DECLARE and DECLARE-PENDING (02 R46, R47): their tests in order, and what they make of TC's part. -/

namespace Sys2Proof.Machine

variable {s : State} {tag : Byte} {v : Volume} {j : Nat}

/-! ### DECLARE (R47) -/

/-- TC's part after a DECLARE. -/
def Tc.declared (j : Nat) (t : Tc) : Tc :=
  if t.state = .unclamped then { t with j := j } else { t.released .unclamped with j := j }

theorem Tc.declared_places (j : Nat) (t : Tc) :
    (t.declared j).j = j ∧ (t.declared j).state = .unclamped
    ∧ (t.state ≠ .unclamped → (t.declared j).op = none ∧ (t.declared j).loweringDue = false) := by
  unfold Tc.declared
  split
  next h => exact ⟨rfl, h, fun hne => absurd h hne⟩
  next => exact ⟨rfl, rfl, fun _ => ⟨rfl, rfl⟩⟩

theorem declarable_iff :
    s.declarable = true ↔ s.tc.state = .unclamped ∨ s.tc.state = .seek
      ∨ (s.tc.state = .halted ∧ s.pins.platenUp = true)
      ∨ (s.tc.state = .attention ∧ s.pins.armPark = true ∧ s.pins.platenUp = true) := by
  unfold State.declarable
  cases s.tc.state <;> simp [State.platenDown]

theorem runActive_iff : s.runActive = true ↔ s.rc.state = .active := by
  simp [State.runActive]

/-- DECLARE's tests over a mounted volume, one after the other. -/
theorem decideDeclare_mounted (hv : s.sau.volume = some v) :
    decideDeclare j s
      = if s.rc.state = .active then refuse .state s
        else if v.n < j then refuse .argument s
        else if s.declarable = true then answer .ok [] (s.withTc (Tc.declared j))
        else refuse .state s := by
  have hmounted : s.mounted = true := by simp [State.mounted, hv]
  have hleaves : s.leaves = v.n := by simp only [State.leaves, hv]
  rw [decideDeclare, hmounted, hleaves]
  simp only [Bool.not_true, Bool.false_eq_true, if_false, runActive_iff]
  cases s.declarable <;> rfl

theorem exec_declare_placed (hs : s.serves)
    (hd : decideDeclare j (s.holding 0x26#8 tag) = answer .ok [] ((s.holding 0x26#8 tag).withTc (Tc.declared j))) :
    ∃ t, exec (.declare tag j) s = .next t
      ∧ t.tc.j = j ∧ t.tc.state = .unclamped
      ∧ (s.tc.state ≠ .unclamped → t.tc.op = none ∧ t.tc.loweringDue = false)
      ∧ t = { s with tc := t.tc, lk := t.lk }
      ∧ (s.lk.sending = none →
          t.lk.sending = some (.reply { kind := 0xA6#8, tag := tag, result := .ok, body := [] })) := by
  obtain ⟨hj, hstate, hdrops⟩ := Tc.declared_places j s.tc
  refine ⟨_, exec_decided (t := s.withTc (Tc.declared j)) hs rfl rfl rfl (fun _ => nofun) hd rfl rfl, ?_⟩
  rw [answered_tc]
  refine ⟨hj, hstate, hdrops, (answered_frame _ _ _ _).trans rfl, fun hidle => answered_sending _ _ _ _ hidle⟩

/-! ### DECLARE-PENDING (R46) -/

/-- DECLARE-PENDING's tests, one after the other. -/
theorem decideDeclarePending_eq :
    decideDeclarePending s
      = if s.sau.volume = none then refuse .notMounted s
        else if s.rc.state = .active then refuse .state s
        else if s.tc.state ≠ .unclamped ∧ ¬ (s.tc.state = .halted ∧ s.pins.platenUp = true) then refuse .state s
        else if s.ticketOpen = true then refuse .state s
        else answer .ok [] ((s.endPreview .cut).withTc (Tc.released .seek)) := by
  have hmounted : (!s.mounted) = true ↔ s.sau.volume = none := by cases h : s.sau.volume <;> simp [State.mounted, h]
  have hdown : s.platenDown = false ↔ s.pins.platenUp = true := by simp [State.platenDown]
  rw [decideDeclarePending]
  simp only [hmounted, runActive_iff, hdown]

theorem exec_declarePending_seeks (hs : s.serves)
    (hd : decideDeclarePending (s.holding 0x25#8 tag)
      = answer .ok [] (((s.holding 0x25#8 tag).endPreview .cut).withTc (Tc.released .seek))) :
    ∃ t, exec (.declarePending tag) s = .next t
      ∧ t.tc.state = .seek ∧ t.tc.j = s.tc.j ∧ t.tc.op = none ∧ t.tc.loweringDue = false
      ∧ (s.lc.preview = none → t.lc = s.lc ∧ t.di = s.di)
      ∧ (s.lc.preview.isSome = true → t.lc.preview = none ∧ t.lc.lastEnd = some .cut ∧ t.dark)
      ∧ t = { s with tc := t.tc, lc := t.lc, di := t.di, lk := t.lk }
      ∧ (s.lk.sending = none →
          t.lk.sending = some (.reply { kind := 0xA5#8, tag := tag, result := .ok, body := [] })) := by
  have ⟨⟨⟨_, hqueue, hquiet⟩, _⟩, _⟩ := hs
  refine ⟨_, exec_next hs rfl rfl rfl (fun _ => nofun) hd ?queue ?quiet, ?_⟩
  case queue => simpa [State.withTc] using hqueue
  case quiet => exact runQuiet_rc (by simp [State.withTc]) hquiet
  simp only [State.dark, answered_tc, answered_lc, answered_di, State.withTc, endPreview_tc]
  refine ⟨rfl, rfl, rfl, rfl, fun hp => ?none, fun hp => ?lit, ?frame, fun hidle => answered_sending _ _ _ _ ?_⟩
  case none => rw [endPreview_none (s := s.holding 0x25#8 tag) hp]; exact ⟨rfl, rfl⟩
  case lit =>
    obtain ⟨p, hp'⟩ := Option.isSome_iff_exists.mp hp
    obtain ⟨l, -, h⟩ := endPreview_some (s := s.holding 0x25#8 tag) .cut hp'
    refine ⟨endPreview_preview _ _, by rw [h], endPreview_darkOf (s := s.holding 0x25#8 tag) hp _⟩
  case frame =>
    refine (answered_frame _ _ _ _).trans ?_
    rw [endPreview_frame]
    rfl
  · simpa using hidle

/-- Settles O31: each request is its chain of tests with its effect at the end. -/
theorem declarePlacesTheOpening : Obligations.DeclarePlacesTheOpening := by
  refine ⟨fun tag j s hs => ⟨fun hv => ?unmounted, fun v hv => ?declare⟩, fun tag s hs => ?pending⟩
  case unmounted =>
    refine exec_unchanged hs rfl rfl rfl (fun _ => nofun) ?_
    simp [decisionOf, decideDeclare, State.mounted, hv, refuse]
  case declare =>
    have hd := decideDeclare_mounted (s := s.holding 0x26#8 tag) (j := j) hv
    simp only [← declarable_iff]
    split_ifs with hactive hrange hok
    · exact exec_unchanged hs rfl rfl rfl (fun _ => nofun) (hd.trans (if_pos hactive))
    · exact exec_unchanged hs rfl rfl rfl (fun _ => nofun) (hd.trans ((if_neg hactive).trans (if_pos hrange)))
    · exact exec_declare_placed hs (hd.trans ((if_neg hactive).trans ((if_neg hrange).trans (if_pos hok))))
    · exact exec_unchanged hs rfl rfl rfl (fun _ => nofun)
        (hd.trans ((if_neg hactive).trans ((if_neg hrange).trans (if_neg hok))))
  case pending =>
    have hd := decideDeclarePending_eq (s := s.holding 0x25#8 tag)
    split_ifs with hmounted hactive hstate hticket
    · exact exec_unchanged hs rfl rfl rfl (fun _ => nofun) (hd.trans (if_pos hmounted))
    · exact exec_unchanged hs rfl rfl rfl (fun _ => nofun) (hd.trans ((if_neg hmounted).trans (if_pos hactive)))
    · exact exec_unchanged hs rfl rfl rfl (fun _ => nofun)
        (hd.trans ((if_neg hmounted).trans ((if_neg hactive).trans (if_pos hstate))))
    · exact exec_unchanged hs rfl rfl rfl (fun _ => nofun)
        (hd.trans ((if_neg hmounted).trans ((if_neg hactive).trans ((if_neg hstate).trans (if_pos hticket)))))
    · exact exec_declarePending_seeks hs
        (hd.trans ((if_neg hmounted).trans ((if_neg hactive).trans ((if_neg hstate).trans (if_neg hticket)))))

end Sys2Proof.Machine
end

