-- ==== Sys2Proof/Proofs/Homing.lean ====
section
/-! Homing (02 R53, 11 R191): its steps as equations, what its end tells, and what it leaves of TC's part. -/

namespace Sys2Proof.Machine

variable {s : State}

/-! ### The end of a homing is told -/

theorem endStart_start (s : State) (o : HomingOutcome) :
    (s.endStart o).start = { s.start with phase := .done, homing := some o } := by
  unfold State.endStart
  rw [notifyWith_start]

/-- The START notice carries the restore outcome, the selector's state, the guard waits and the homing outcome. -/
theorem endStart_notice (s : State) (o : HomingOutcome) (hm : s.set.noticeMask.getLsbD 2 = true) :
    (s.endStart o).lk.pendingSet.getLsbD 2 = true
    ∧ (s.endStart o).lk.gathered.start = some
        { restore := s.start.restoreOutcome, sync := s.cc.sync.state, guardWaits := s.start.guardWaits, homing := o } := by
  refine ⟨notifyWith_pends (k := .start) hm, ?_⟩
  simp only [State.endStart, State.notifyWith, NoticeKind.bit, hm, if_true]

/-- The end of a homing in a state, with what ATTENTION then holds: the telling, and the purposes cleared. -/
def State.endHoming (st : TcState) (a : Option Attention) (o : HomingOutcome) (r : OpResult) (s : State) : State :=
  ((s.withTc fun t => { t with state := st, op := none, attention := a }).tellHoming o r).withTc Tc.homed

section endHoming
variable (st : TcState) (a : Option Attention) (o : HomingOutcome) (r : OpResult)

theorem endHoming_tc (s : State) :
    (s.endHoming st a o r).tc = { s.tc with state := st, op := none, attention := a }.homed := by
  unfold State.endHoming
  rw [withTc_tc, tellHoming_tc]
  rfl

/-- While the part is starting, the end of a homing is the end of start-up. -/
theorem endHoming_starting (hs : s.start.phase ≠ .done) :
    s.endHoming st a o r
      = (State.endStart o { s with tc := { s.tc with state := st, op := none, attention := a } }).withTc Tc.homed := by
  unfold State.endHoming State.tellHoming
  rw [if_pos (by simpa [State.starting, State.withTc] using hs)]
  rfl

/-- After start-up it is told as the end of an operation. -/
theorem endHoming_started (hs : s.start.phase = .done) :
    s.endHoming st a o r
      = (State.tellEnd s.tc.homingKind r { s with tc := { s.tc with state := st, op := none, attention := a } }).withTc
          Tc.homed := by
  unfold State.endHoming State.tellHoming
  rw [if_neg (by simp [State.starting, State.withTc, hs])]
  rfl

/-- The end of a homing changes TC's part, the start-up record, what RC has heard, and LK's part. -/
theorem endHoming_frame (s : State) :
    ∃ h, s.endHoming st a o r
      = { s with
          tc := (s.endHoming st a o r).tc, start := (s.endHoming st a o r).start, rc := { s.rc with heardEnd := h }
          lk := (s.endHoming st a o r).lk } := by
  by_cases hs : s.start.phase = .done
  · obtain ⟨e, he⟩ :=
      tellEnd_frame { s with tc := { s.tc with state := st, op := none, attention := a } } s.tc.homingKind r
    refine ⟨some e, ?_⟩
    rw [endHoming_started st a o r hs, he]
    rfl
  · refine ⟨s.rc.heardEnd, ?_⟩
    rw [endHoming_starting st a o r hs]
    unfold State.endStart State.notifyWith
    dsimp only
    split <;> rfl

/-- After start-up the start-up record stays. -/
theorem endHoming_start (hs : s.start.phase = .done) : (s.endHoming st a o r).start = s.start := by
  rw [endHoming_started st a o r hs]
  exact tellEnd_start _ _ _

theorem endHoming_turnEnd (hs : s.start.phase = .done) (hm : s.set.noticeMask.getLsbD 3 = true) :
    (s.endHoming st a o r).lk.pendingSet.getLsbD 3 = true
    ∧ (s.endHoming st a o r).lk.gathered.turnEnd = some
        { kind := if s.tc.homeByRecover then .recover else .homing, result := r, turned := 0, remaining := 0, j := s.tc.j
          state := st } := by
  rw [endHoming_started st a o r hs]
  refine ⟨tellEnd_pends _ _ _ hm, ?_⟩
  change (State.tellEnd _ _ _).lk.gathered.turnEnd = _
  rw [tellEnd_turnEnd, if_pos hm]
  rfl

end endHoming

/-! ### Homing's steps (R53) -/

/-- Where TC is after a homing that ended well. -/
def State.homedState (s : State) : TcState :=
  if s.tc.homeCause = .attention ∧ s.sau.volume.isSome = true then .seek else .unclamped

theorem homingDone_eq (s : State) : s.homingDone = s.endHoming s.homedState none .done .done := by
  unfold State.homingDone State.endHoming State.homedState
  cases hc : s.tc.homeCause with
  | coldStart | warmReset => rfl
  | attention => cases hv : s.sau.volume <;> simp [State.seekState, State.mounted, hv]

/-- A failed homing is reported with its phase. -/
theorem homingFailed_eq (s : State) (part : HomePart) :
    s.homingFailed part
      = (s.report .homeFail [match part with
          | .platen => 0
          | .arm => 1]).endHoming .attention (some { code := .homeFail, sign := none, remaining := 0 }) (.failed part)
            .fault := by
  cases part <;> rfl

/-- TC's part as homing begins. -/
def Tc.beginsHoming (now : Nat) (t : Tc) : Tc :=
  { t with
    state := .homing, homePhase := some .platen, phaseStart := now, vacuum := false, knife := 0, atForce := false
    dwellStart := none, raiseGoal := none, returnGoal := none, recover := none, origin := none, faultPending := false
    attempt := 0, air := 0, haltMark := false, stopMark := false, leafInHand := false, attention := none }

theorem beginHoming_down (h : s.pins.platenUp = false) : s.beginHoming = s.withTc (Tc.beginsHoming s.now) := by
  simp only [State.beginHoming, h]
  rfl

theorem beginHoming_arm (h : s.pins.platenUp = true) (hp : s.pins.armPark = false) :
    s.beginHoming = s.withTc fun t => { t.beginsHoming s.now with homePhase := some .arm } := by
  simp only [State.beginHoming, h, State.homeArm, State.withTc, hp]
  rfl

theorem beginHoming_ends (h : s.pins.platenUp = true) (hp : s.pins.armPark = true) :
    s.beginHoming = (s.withTc fun t => { t.beginsHoming s.now with homePhase := some .arm }).homingDone := by
  simp only [State.beginHoming, h, State.homeArm, State.withTc, hp]
  rfl

/-- TC's part as homing has begun, with the switches as they stand, and the state a homing that ends at once leads to. -/
def Tc.homes (now : Nat) (up park : Bool) (st : TcState) (t : Tc) : Tc :=
  match up, park with
  | false, _ => t.beginsHoming now
  | true, false => { t.beginsHoming now with homePhase := some .arm }
  | true, true => { t.beginsHoming now with homePhase := some .arm, state := st, op := none, attention := none }.homed

theorem beginHoming_tc (s : State) :
    s.beginHoming.tc = s.tc.homes s.now s.pins.platenUp s.pins.armPark s.homedState := by
  cases hup : s.pins.platenUp with
  | false => rw [beginHoming_down hup]; rfl
  | true =>
    cases hpark : s.pins.armPark with
    | false => rw [beginHoming_arm hup hpark]; rfl
    | true => rw [beginHoming_ends hup hpark, homingDone_eq, endHoming_tc]; rfl

/-- Homing changes TC's part and, where it ends at once, the start-up record, what RC has heard, and LK's part. -/
theorem beginHoming_frame (s : State) :
    ∃ h, s.beginHoming
      = { s with
          tc := s.beginHoming.tc, start := s.beginHoming.start, rc := { s.rc with heardEnd := h }
          lk := s.beginHoming.lk } := by
  cases hup : s.pins.platenUp with
  | false => exact ⟨s.rc.heardEnd, by rw [beginHoming_down hup]; rfl⟩
  | true =>
    cases hpark : s.pins.armPark with
    | false => exact ⟨s.rc.heardEnd, by rw [beginHoming_arm hup hpark]; rfl⟩
    | true =>
      rw [beginHoming_ends hup hpark, homingDone_eq]
      obtain ⟨h, he⟩ := endHoming_frame (s.withTc fun t => { t.beginsHoming s.now with homePhase := some .arm }).homedState
        none .done .done (s.withTc fun t => { t.beginsHoming s.now with homePhase := some .arm })
      refine ⟨h, ?_⟩
      rw [he]
      rfl

/-- After start-up homing leaves the start-up record. -/
theorem beginHoming_start (hs : s.start.phase = .done) : s.beginHoming.start = s.start := by
  cases hup : s.pins.platenUp with
  | false => rw [beginHoming_down hup]; rfl
  | true =>
    cases hpark : s.pins.armPark with
    | false => rw [beginHoming_arm hup hpark]; rfl
    | true =>
      rw [beginHoming_ends hup hpark, homingDone_eq]
      exact endHoming_start _ _ _ _ (s := s.withTc _) hs

/-- Homing with both switches made ends at once, and after start-up a TURN notice tells it. -/
theorem beginHoming_turnEnd (hs : s.start.phase = .done) (hm : s.set.noticeMask.getLsbD 3 = true)
    (hup : s.pins.platenUp = true) (hpark : s.pins.armPark = true) :
    s.beginHoming.lk.gathered.turnEnd = some
      { kind := if s.tc.homeByRecover then .recover else .homing, result := .done, turned := 0, remaining := 0
        j := s.tc.j, state := s.homedState } := by
  rw [beginHoming_ends hup hpark, homingDone_eq]
  obtain ⟨-, h⟩ := endHoming_turnEnd
    (s.withTc fun t => { t.beginsHoming s.now with homePhase := some .arm }).homedState none .done .done
    (s := s.withTc fun t => { t.beginsHoming s.now with homePhase := some .arm }) hs hm
  exact h

/-! ### What an event with a homing's end in it leaves -/

/-- The end of a homing as the event's own effect, with RC's record and the next frame. -/
theorem endHoming_told {x : State} {st : TcState} {a : Option Attention} {o : HomingOutcome} {r : OpResult} {rc : Rc}
    (hstart : x.start = s.start) (hset : x.set = s.set) (hj : x.tc.j = s.tc.j)
    (hby : x.tc.homeByRecover = s.tc.homeByRecover) (hsend : x.lk.sending = s.lk.sending) :
    homingTold o r s (State.kick { x.endHoming st a o r with rc := rc }) := by
  have hsending : (x.endHoming st a o r).lk.sending = s.lk.sending := by simpa [State.endHoming, State.withTc] using hsend
  refine ⟨fun hs => ⟨?start, fun hm hb => ?startNotice⟩, fun hs => ⟨?started, fun hm hb => ?turnNotice⟩⟩
  case start =>
    rw [kick_start, endHoming_starting st a o r (by rwa [hstart])]
    change (State.endStart _ _).start = _
    rw [endStart_start, hstart]
  case startNotice =>
    obtain ⟨hpend, hgot⟩ := endStart_notice { x with tc := { x.tc with state := st, op := none, attention := a } } o
      (by rwa [← hset] at hm)
    rw [kick_busy (by rw [hsending]; exact hb), endHoming_starting st a o r (by rwa [hstart])]
    refine ⟨hpend, hgot.trans ?_⟩
    simp only [hstart, State.withTc, endStart_cc]
  case started => rw [kick_start, endHoming_start st a o r (by rwa [hstart])]; exact hstart
  case turnNotice =>
    obtain ⟨hpend, hgot⟩ := endHoming_turnEnd st a o r (s := x) (by rwa [hstart]) (by rwa [hset])
    rw [kick_busy (by rw [hsending]; exact hb)]
    refine ⟨hpend, hgot.trans ?_⟩
    rw [hj, hby, endHoming_tc]
    rfl

/-- A homing that ends well in an event whose other effects are those of `x`. -/
theorem homingDone_homed {x : State} {rc : Rc} (hstart : x.start = s.start) (hset : x.set = s.set) (hsau : x.sau = s.sau)
    (hj : x.tc.j = s.tc.j) (hby : x.tc.homeByRecover = s.tc.homeByRecover) (hsend : x.lk.sending = s.lk.sending) :
    homed x.tc.homeCause s (State.kick { x.homingDone with rc := rc }) := by
  rw [homingDone_eq]
  refine ⟨?state, ?op, ?attention, ?phase, ?j, endHoming_told hstart hset hj hby hsend⟩ <;>
    rw [kick_tc, endHoming_tc]
  case state =>
    simp only [State.homedState, hsau]
    rfl
  case j => exact hj
  all_goals rfl

end Sys2Proof.Machine
end

