-- ==== Sys2Proof/Proofs/Recovering.lean ====
section
/-! RECOVER (02 R51, R52): its tests, the resolution of a SAFE-STOP by its origin (Table 2-7), and the homing from
ATTENTION. -/

namespace Sys2Proof.Machine

variable {s : State} {tag : Byte}

/-! ### The tests (R52) -/

theorem leafOnHead_iff : s.leafOnHead = true ↔ s.pins.leafSensor ≠ .zero := by
  simp [State.leafOnHead]

theorem decideRecover_elsewhere (h1 : s.tc.state ≠ .safeStop) (h2 : s.tc.state ≠ .attention) :
    decideRecover s = refuse .state s := by
  unfold decideRecover
  split
  next h => exact absurd h h1
  next h => exact absurd h h2
  next => rfl

theorem decideRecover_guard (h : s.tc.state = .safeStop ∨ s.tc.state = .attention) (hg : s.pins.guardOpen = true) :
    decideRecover s = refuse .guard s := by
  rcases h with h | h <;> simp [decideRecover, h, hg]

theorem decideRecover_leaf (h : s.tc.state = .attention ∨ (s.tc.state = .safeStop ∧ s.tc.origin = some .homing))
    (hg : s.pins.guardOpen = false) (hl : s.pins.leafSensor ≠ .zero) : decideRecover s = refuse .state s := by
  rcases h with h | ⟨h, ho⟩
  · simp [decideRecover, h, hg, leafOnHead_iff.mpr hl]
  · simp [decideRecover, h, hg, ho, leafOnHead_iff.mpr hl]

/-- A SAFE-STOP with the guard closed is resolved, but for a leaf on the head in one of origin HOMING. -/
theorem decideRecover_resolves (h : s.tc.state = .safeStop) (hg : s.pins.guardOpen = false)
    (hl : s.tc.origin = some .homing → s.pins.leafSensor = .zero) :
    decideRecover s = answer .accepted [] s.resolveStop := by
  have hno : ¬ (s.tc.origin = some .homing ∧ s.leafOnHead = true) := fun ⟨ho, hleaf⟩ => leafOnHead_iff.mp hleaf (hl ho)
  simp only [decideRecover, h, hg, hno]
  rfl

/-- TC's part as a homing from ATTENTION begins: the held work is dropped. -/
def Tc.toHome (t : Tc) : Tc :=
  { t with
    attention := none, op := none, loweringDue := false, leafInHand := false, homeCause := .attention
    homeByRecover := false }

/-- From ATTENTION the held work is dropped, and homing begins. -/
theorem decideRecover_attention (h : s.tc.state = .attention) (hg : s.pins.guardOpen = false)
    (hl : s.pins.leafSensor = .zero) :
    decideRecover s
      = answer .accepted [] (State.beginHoming { s with tc := s.tc.toHome }) := by
  have hno : s.leafOnHead = false := by simp [State.leafOnHead, hl]
  simp only [decideRecover, h, hg, hno]
  rfl

/-! ### A recovery by a raise (Table 2-7) -/

/-- TC's part as a recovery's raise begins. -/
def Tc.recoverRaising (now : Nat) (goal : RecoverGoal) (t : Tc) : Tc :=
  { t with
    state := .raising, phaseStart := now, dwellStart := none, atForce := false, recover := some goal
    raiseGoal := some .recover }

theorem recoverRaise_eq (goal : RecoverGoal) (s : State) :
    s.recoverRaise goal
      = if s.pins.platenUp then (s.withTc (Tc.recoverRaising s.now goal)).raised
        else s.withTc (Tc.recoverRaising s.now goal) :=
  rfl

theorem recoverRaise_down (goal : RecoverGoal) (h : s.pins.platenUp = false) :
    s.recoverRaise goal = s.withTc (Tc.recoverRaising s.now goal) := by
  rw [recoverRaise_eq, h, if_neg Bool.false_ne_true]

/-- With the UP switch made, a raise toward HALTED ends there at once, where no run's end has marked the operation. -/
theorem recoverRaise_halted (h : s.pins.platenUp = true) (hm : s.tc.stopMark = false) :
    s.recoverRaise .halted = (s.withTc (Tc.recoverRaising s.now .halted)).recovered .halted := by
  rw [recoverRaise_eq, if_pos h]
  exact if_neg (fun hmark => Bool.false_ne_true (hm.symm.trans hmark))

/-- TC's part as a recovery's raise has ended in ATTENTION. -/
def Tc.backInAttention (leafOnHead : Bool) (t : Tc) : Tc :=
  { t with op := none, loweringDue := false, vacuum := t.vacuum && leafOnHead }

/-- With the UP switch made, a raise toward ATTENTION ends there at once. -/
theorem recoverRaise_attention (h : s.pins.platenUp = true) :
    s.recoverRaise .attention
      = ((s.withTc (Tc.recoverRaising s.now .attention)).recovered .attention).withTc (Tc.backInAttention s.leafOnHead) := by
  rw [recoverRaise_eq, if_pos h]
  rfl

/-- The origins that a recovery resolves by a raise, with where it leads and the lowering-due flag it brings. -/
def raisesTo (t : Tc) (o : TcState) (goal : RecoverGoal) (st : TcState) (due : Bool) : Prop :=
  (goal = .halted ∧ st = .halted ∧ due = t.loweringDue ∧ (o = .unclamped ∨ o = .clamped ∨ o = .halted))
  ∨ (goal = .halted ∧ st = .halted ∧ due = true ∧ o = .lowering)
  ∨ (goal = .halted ∧ st = .halted ∧ due = t.loweringDue ∧ o = .raising ∧ t.faultPending = false
    ∧ ∀ b, t.raiseGoal ≠ some (.dismount b))
  ∨ (goal = .attention ∧ st = .attention ∧ due = t.loweringDue ∧ o = .attention)
  ∨ (goal = .attention ∧ st = .attention ∧ due = t.loweringDue ∧ o = .raising ∧ t.faultPending = true
    ∧ ∀ b, t.raiseGoal ≠ some (.dismount b))

theorem raisesTo_notHoming {o st : TcState} {goal : RecoverGoal} {due : Bool} (ho : s.tc.origin = some o)
    (h : raisesTo s.tc o goal st due) : s.tc.origin ≠ some .homing := by
  rw [ho]
  rcases h with ⟨-, -, -, rfl | rfl | rfl⟩ | ⟨-, -, -, rfl⟩ | ⟨-, -, -, rfl, -⟩ | ⟨-, -, -, rfl⟩ | ⟨-, -, -, rfl, -⟩ <;>
    exact nofun

/-- A raise that no dismount began leads to HALTED, or to ATTENTION after a fault. -/
theorem resolveStop_raising (ho : s.tc.origin = some .raising) (hd : ∀ b, s.tc.raiseGoal ≠ some (.dismount b)) :
    s.resolveStop = if s.tc.faultPending then s.recoverRaise .attention else s.recoverRaise .halted := by
  unfold State.resolveStop
  rw [ho]
  dsimp only
  split
  next b hb => exact absurd hb (hd b)
  next => rfl

theorem resolveStop_atRest {o : TcState} (ho : s.tc.origin = some o) (h : o = .unclamped ∨ o = .clamped ∨ o = .halted) :
    s.resolveStop = s.recoverRaise .halted := by
  unfold State.resolveStop
  rw [ho]
  rcases h with rfl | rfl | rfl <;> rfl

theorem resolveStop_lowering (ho : s.tc.origin = some .lowering) :
    s.resolveStop = (s.withTc fun t => { t with loweringDue := true }).recoverRaise .halted := by
  unfold State.resolveStop
  rw [ho]

theorem resolveStop_attention (ho : s.tc.origin = some .attention) : s.resolveStop = s.recoverRaise .attention := by
  unfold State.resolveStop
  rw [ho]

theorem resolveStop_raises {o st : TcState} {goal : RecoverGoal} {due : Bool} (ho : s.tc.origin = some o)
    (h : raisesTo s.tc o goal st due) :
    s.resolveStop = State.recoverRaise goal { s with tc := { s.tc with loweringDue := due } }
    ∧ ((goal = .halted ∧ st = .halted) ∨ (goal = .attention ∧ st = .attention)) := by
  rcases h with ⟨rfl, rfl, rfl, hrest⟩ | ⟨rfl, rfl, rfl, rfl⟩ | ⟨rfl, rfl, rfl, rfl, hf, hd⟩ | ⟨rfl, rfl, rfl, rfl⟩
    | ⟨rfl, rfl, rfl, rfl, hf, hd⟩
  · exact ⟨resolveStop_atRest ho hrest, .inl ⟨rfl, rfl⟩⟩
  · exact ⟨resolveStop_lowering ho, .inl ⟨rfl, rfl⟩⟩
  · exact ⟨(resolveStop_raising ho hd).trans (if_neg (by simp [hf])), .inl ⟨rfl, rfl⟩⟩
  · exact ⟨resolveStop_attention ho, .inr ⟨rfl, rfl⟩⟩
  · exact ⟨(resolveStop_raising ho hd).trans (if_pos hf), .inr ⟨rfl, rfl⟩⟩

theorem withTc_id (s : State) : s.withTc id = s :=
  rfl

/-! ### RECOVER in a part that serves requests -/

section exec
variable (hs : s.serves)
include hs

/-- The reply of an accepted RECOVER. -/
def recoverReply (tag : Byte) : Reply :=
  { kind := 0xA7#8, tag := tag, result := .accepted, body := [] }

/-- A RECOVER whose effect is on TC's part and the sensor alone. -/
theorem exec_recover_begins {t : State} (hd : decideRecover (s.holding 0x27#8 tag) = answer .accepted [] (t.holding 0x27#8 tag))
    (hlk : t.lk = s.lk) (hrc : t.rc = s.rc) :
    exec (.recover tag) s = .next (t.answeredWith 0x27#8 tag .accepted) :=
  exec_decided hs rfl rfl rfl (fun _ => nofun) hd hlk hrc

variable (hrun : s.runActive = false)
include hrun

/-- A RECOVER that ends in its own event is told DONE, and the reply goes out. -/
theorem exec_recover_told {x : Tc} {st : TcState} {g : Tc → Tc}
    (hd : decideRecover (s.holding 0x27#8 tag)
      = answer .accepted [] ((State.recovered st { s.holding 0x27#8 tag with tc := x }).withTc g)) :
    ∃ t, exec (.recover tag) s = .next t ∧ t.tc = g (x.recoveredTo st).cleared
      ∧ t = { s with tc := t.tc, rc := t.rc, lk := t.lk }
      ∧ (s.lk.sending = none → t.lk.sending = some (.reply (recoverReply tag)))
      ∧ (s.set.noticeMask.getLsbD 3 = true → t.lk.gathered.turnEnd = some
          { kind := .recover, result := .done, turned := (x.op.map Op.turned).getD 0
            remaining := (x.op.map Op.remaining).getD 0, j := x.j, state := st }) := by
  have ⟨⟨⟨_, hqueue, _⟩, _⟩, _⟩ := hs
  obtain ⟨r, -, hexec⟩ := exec_records (i := .recover tag) hs rfl rfl rfl (fun _ => nofun) hd
    ((recovered_queue _ _).trans hqueue) ((congrArg (· == RunState.active) (recovered_run _ _)).trans hrun)
  refine ⟨_, hexec, ?tc, ?frame, fun hidle => answered_sending _ _ _ _ ?sending, fun hm => ?told⟩
  case tc => rw [answered_tc, withTc_tc, recovered_tc]
  case frame =>
    refine (answered_frame _ _ _ _).trans ?_
    obtain ⟨e, he⟩ := recovered_frame { s.holding 0x27#8 tag with tc := x } st
    rw [answered_tc, answered_rc, he]
    rfl
  case sending => exact (recovered_sending _ _).trans hidle
  case told =>
    rw [answered_gathered]
    exact (recovered_turnEnd _ _).trans (if_pos hm)

/-- A RECOVER that begins a homing. -/
theorem exec_recover_homes {x : Tc}
    (hd : decideRecover (s.holding 0x27#8 tag) = answer .accepted [] (State.beginHoming { s.holding 0x27#8 tag with tc := x })) :
    ∃ t, exec (.recover tag) s = .next t
      ∧ t.tc = x.homes s.now s.pins.platenUp s.pins.armPark (State.homedState { s with tc := x })
      ∧ t = { s with tc := t.tc, rc := t.rc, lk := t.lk }
      ∧ (s.lk.sending = none → t.lk.sending = some (.reply (recoverReply tag)))
      ∧ (s.set.noticeMask.getLsbD 3 = true → s.pins.platenUp = true → s.pins.armPark = true →
          t.lk.gathered.turnEnd = some
            { kind := if x.homeByRecover then .recover else .homing, result := .done, turned := 0, remaining := 0
              j := x.j, state := State.homedState { s with tc := x } }) := by
  have ⟨⟨⟨_, hqueue, _⟩, _⟩, hstarted⟩ := hs
  have hdone : s.start.phase = .done := by simpa [State.starting] using hstarted
  obtain ⟨r, -, hexec⟩ := exec_records (i := .recover tag) hs rfl rfl rfl (fun _ => nofun) hd
    ((beginHoming_queue _).trans hqueue) ((congrArg (· == RunState.active) (beginHoming_run _)).trans hrun)
  refine ⟨_, hexec, ?tc, ?frame, fun hidle => answered_sending _ _ _ _ ?sending, fun hm hup hpark => ?told⟩
  case tc => rw [answered_tc, beginHoming_tc]; rfl
  case frame =>
    refine (answered_frame _ _ _ _).trans ?_
    obtain ⟨h, he⟩ := beginHoming_frame { s.holding 0x27#8 tag with tc := x }
    rw [beginHoming_start (s := { s.holding 0x27#8 tag with tc := x }) hdone] at he
    rw [answered_tc, answered_rc, he]
    rfl
  case sending => exact (beginHoming_sending _).trans hidle
  case told =>
    rw [answered_gathered]
    exact beginHoming_turnEnd (s := { s.holding 0x27#8 tag with tc := x }) hdone hm hup hpark

end exec

/-! ### The strokes of a turn (Table 2-7) -/

/-- A leaf on the head is released back, and the arm returns to park. -/
theorem resolveStop_lifting (ho : s.tc.origin = some .lifting) (hin : s.tc.leafInHand = true)
    (hl : s.pins.leafSensor ≠ .zero) :
    s.resolveStop
      = { s with
          pins := { s.pins with leafSensor := .zero }
          tc := { s.tc with
            state := .returning, phaseStart := s.now, recover := some .halted, returnGoal := some .recover
            leafInHand := false, vacuum := false, knife := 0 } } := by
  have heffect : s.resolveStop = (s.withTc fun t => { t with leafInHand := false }).recoverReturn .halted := by
    simp [State.resolveStop, ho, hin, leafOnHead_iff.mpr hl]
  rw [heffect]
  rfl

/-- A leaf that is gone: the arm returns to park toward SEEK, and the remaining count is dropped. -/
theorem resolveStop_lost (ho : s.tc.origin = some .lifting ∨ s.tc.origin = some .carrying) (hin : s.tc.leafInHand = true)
    (hl : s.pins.leafSensor = .zero) :
    s.resolveStop
      = { s with tc := { s.tc with
          state := .returning, phaseStart := s.now, recover := some .seek, returnGoal := some .recover
          vacuum := false, knife := 0, loweringDue := false
          op := s.tc.op.map fun o => { o with remaining := 0 } } } := by
  have hgone : s.leafOnHead = false := by simp [State.leafOnHead, hl]
  have hpins : { s.pins with leafSensor := .zero } = s.pins := by rw [← hl]
  have heffect : s.resolveStop = (s.withTc Tc.dropRemaining).recoverReturn .seek := by
    rcases ho with ho | ho <;> simp [State.resolveStop, ho, hin, hgone]
  have hreturn : (s.withTc Tc.dropRemaining).recoverReturn .seek
      = { s with
          pins := { s.pins with leafSensor := .zero }
          tc := { s.tc with
            state := .returning, phaseStart := s.now, recover := some .seek, returnGoal := some .recover
            vacuum := false, knife := 0, loweringDue := false
            op := s.tc.op.map fun o => { o with remaining := 0 } } } := rfl
  rw [heffect, hreturn, hpins]

/-- A stroke taken up where it stood. -/
theorem resolveStop_stroke {st : TcState} (ho : s.tc.origin = some st)
    (h : (st = .carrying ∧ s.tc.leafInHand = true ∧ s.pins.leafSensor ≠ .zero) ∨ st = .releasing ∨ st = .returning) :
    s.resolveStop = s.recoverStroke st := by
  unfold State.resolveStop
  rcases h with ⟨rfl, hin, hl⟩ | rfl | rfl
  · simp [ho, hin, leafOnHead_iff.mpr hl]
  · simp only [ho]
  · simp only [ho]

/-- The raise of a dismount is taken up. -/
theorem resolveStop_dismount {b : Bool} (ho : s.tc.origin = some .raising) (hg : s.tc.raiseGoal = some (.dismount b))
    (hup : s.pins.platenUp = false) :
    s.resolveStop
      = { s with tc := { s.tc with
          state := .raising, phaseStart := s.now, dwellStart := none, atForce := false, recover := some .dismounted } } := by
  have heffect : s.resolveStop
      = (s.withTc fun t => { t with recover := some .dismounted }).raiseNow (.dismount b) := by
    simp only [State.resolveStop, ho, hg]
  have hraise : (s.withTc fun t => { t with recover := some .dismounted }).raiseNow (.dismount b)
      = (s.withTc fun t => { t with recover := some .dismounted }).beginRaise (.dismount b) :=
    if_neg (by simp [State.withTc, hup])
  rw [heffect, hraise, State.beginRaise, ← hg]
  rfl

/-- A SAFE-STOP of origin HOMING homes again. -/
theorem resolveStop_homing (ho : s.tc.origin = some .homing) :
    s.resolveStop = State.beginHoming { s with tc := { s.tc with homeByRecover := true } } := by
  unfold State.resolveStop
  rw [ho]
  rfl

theorem resolveStop_seek (ho : s.tc.origin = some .seek) : s.resolveStop = s.recovered .seek := by
  unfold State.resolveStop
  rw [ho]

/-- What homing leaves of TC's part, whatever the switches. -/
theorem homes_leaves (now : Nat) (up park : Bool) (st : TcState) (t : Tc) :
    (t.homes now up park st).j = t.j ∧ (t.homes now up park st).attention = none ∧ (t.homes now up park st).vacuum = false
    ∧ (t.homes now up park st).knife = 0 ∧ (t.op = none → (t.homes now up park st).op = none) := by
  match up, park with
  | false, _ => exact ⟨rfl, rfl, rfl, rfl, id⟩
  | true, false => exact ⟨rfl, rfl, rfl, rfl, id⟩
  | true, true => exact ⟨rfl, rfl, rfl, rfl, fun _ => rfl⟩

/-- Settles O32: the tests, and each origin's resolution. -/
theorem recoverResolvesTheStop : Obligations.RecoverResolvesTheStop := by
  intro tag s hs hrun
  refine ⟨fun h1 h2 => ?elsewhere, fun h hg => ?guard, fun h hg hl => ?leaf,
    fun h hg hm => ⟨fun o goal st due ho hto => ⟨fun hup => ?down, fun hup => ?up⟩, fun ho => ?seek,
      fun hin hl ho => ?lifting, fun hin hl ho => ?lost, fun st hst ho => ?stroke, fun b ho hb hup => ?dismount⟩,
    fun h hg hl => ?homing⟩
  case elsewhere =>
    exact exec_unchanged hs rfl rfl rfl (fun _ => nofun) (decideRecover_elsewhere (s := s.holding 0x27#8 tag) h1 h2)
  case guard => exact exec_unchanged hs rfl rfl rfl (fun _ => nofun) (decideRecover_guard (s := s.holding 0x27#8 tag) h hg)
  case leaf => exact exec_unchanged hs rfl rfl rfl (fun _ => nofun) (decideRecover_leaf (s := s.holding 0x27#8 tag) h hg hl)
  case homing =>
    rcases h with ⟨h, hv⟩ | ⟨h, ho⟩
    · obtain ⟨t, hexec, htc, hframe, hreply, htold⟩ := exec_recover_homes (x := s.tc.toHome) hs hrun
        (decideRecover_attention (s := s.holding 0x27#8 tag) h hg hl)
      obtain ⟨hj, hatt, hvac, hknife, hop⟩ := homes_leaves s.now s.pins.platenUp s.pins.armPark
        (State.homedState { s with tc := s.tc.toHome }) s.tc.toHome
      have hseek : State.homedState { s with tc := s.tc.toHome } = .seek := if_pos ⟨rfl, hv⟩
      refine ⟨t, hexec, ?_⟩
      rw [htc]
      refine ⟨hj, hatt, hvac, hknife, htc ▸ hframe, hreply, fun hup => ?_, fun hup hpark => ?_, fun _ => hop rfl,
        fun _ hup hpark => ⟨?_, fun hm => ?_⟩⟩
      · rw [hup]; exact ⟨rfl, rfl, rfl⟩
      · rw [hup, hpark]; exact ⟨rfl, rfl, rfl⟩
      · rw [hup, hpark]; exact hseek
      · exact (htold hm hup hpark).trans (by rw [hseek]; rfl)
    · obtain ⟨t, hexec, htc, hframe, hreply, htold⟩ := exec_recover_homes (x := { s.tc with homeByRecover := true }) hs
        hrun ((decideRecover_resolves (s := s.holding 0x27#8 tag) h hg fun _ => hl).trans
          (congrArg (answer .accepted []) (resolveStop_homing (s := s.holding 0x27#8 tag) ho)))
      obtain ⟨hj, hatt, hvac, hknife, -⟩ := homes_leaves s.now s.pins.platenUp s.pins.armPark
        (State.homedState { s with tc := { s.tc with homeByRecover := true } }) { s.tc with homeByRecover := true }
      have hother : s.tc.state ≠ .attention := by rw [h]; exact nofun
      refine ⟨t, hexec, ?_⟩
      rw [htc]
      refine ⟨hj, hatt, hvac, hknife, htc ▸ hframe, hreply, fun hup => ?_, fun hup hpark => ?_,
        fun ha => absurd ha hother, fun ha => absurd ha hother⟩
      · rw [hup]; exact ⟨rfl, rfl, rfl⟩
      · rw [hup, hpark]; exact ⟨rfl, rfl, rfl⟩
  all_goals
    have hresolves : ∀ {u : State}, (s.holding 0x27#8 tag).resolveStop = u → s.tc.origin ≠ some .homing →
        decideRecover (s.holding 0x27#8 tag) = answer .accepted [] u := fun hu ho =>
      (decideRecover_resolves (s := s.holding 0x27#8 tag) h hg fun ho' => absurd ho' ho).trans (by rw [hu])
  case down =>
    obtain ⟨hraise, -⟩ := resolveStop_raises (s := s.holding 0x27#8 tag) ho hto
    have hdown := recoverRaise_down (s := { s.holding 0x27#8 tag with tc := { s.tc with loweringDue := due } }) goal hup
    exact exec_recover_begins hs (hresolves (hraise.trans hdown) (raisesTo_notHoming ho hto)) rfl rfl
  case up =>
    obtain ⟨hraise, ⟨rfl, rfl⟩ | ⟨rfl, rfl⟩⟩ := resolveStop_raises (s := s.holding 0x27#8 tag) ho hto
    · have hup' := recoverRaise_halted (s := { s.holding 0x27#8 tag with tc := { s.tc with loweringDue := due } }) hup hm
      obtain ⟨t, hexec, htc, hframe, hreply, htold⟩ := exec_recover_told (g := id) (st := .halted)
        (x := { s.tc with loweringDue := due }.recoverRaising s.now .halted) hs hrun
        (hresolves (hraise.trans (hup'.trans (withTc_id _).symm)) (raisesTo_notHoming ho hto))
      exact ⟨t, hexec, by rw [htc]; rfl, by rw [htc]; rfl, by rw [htc]; rfl, by rw [htc]; rfl,
        fun _ => ⟨by rw [htc]; rfl, by rw [htc]; rfl⟩, hframe, hreply, htold⟩
    · have hup' := recoverRaise_attention
        (s := { s.holding 0x27#8 tag with tc := { s.tc with loweringDue := due } }) hup
      have hd := hresolves (hraise.trans hup') (raisesTo_notHoming ho hto)
      obtain ⟨t, hexec, htc, hframe, hreply, htold⟩ := exec_recover_told
        (x := { s.tc with loweringDue := due }.recoverRaising s.now .attention) hs hrun hd
      exact ⟨t, hexec, by rw [htc]; rfl, by rw [htc]; rfl, by rw [htc]; rfl, by rw [htc]; rfl, nofun, hframe, hreply,
        htold⟩
  case seek =>
    obtain ⟨t, hexec, htc, hframe, hreply, htold⟩ := exec_recover_told (g := id) (st := .seek) (x := s.tc) hs hrun
      (hresolves ((resolveStop_seek (s := s.holding 0x27#8 tag) ho).trans (withTc_id _).symm) (by simp [ho]))
    exact ⟨t, hexec, by rw [htc]; rfl, by rw [htc]; rfl, by rw [htc]; rfl, hframe, hreply, htold⟩
  case lifting =>
    exact exec_recover_begins hs (hresolves (resolveStop_lifting (s := s.holding 0x27#8 tag) ho hin hl) (by simp [ho]))
      rfl rfl
  case lost =>
    exact exec_recover_begins hs (hresolves (resolveStop_lost (s := s.holding 0x27#8 tag) ho hin hl)
      (by rcases ho with ho | ho <;> simp [ho])) rfl rfl
  case stroke =>
    exact exec_recover_begins hs (hresolves (resolveStop_stroke (s := s.holding 0x27#8 tag) ho hst)
      (by rw [ho]; rcases hst with ⟨rfl, -⟩ | rfl | rfl <;> exact nofun)) rfl rfl
  case dismount =>
    exact exec_recover_begins hs (hresolves (resolveStop_dismount (s := s.holding 0x27#8 tag) ho hb hup) (by simp [ho]))
      rfl rfl

end Sys2Proof.Machine
end

