-- ==== Sys2Proof/Proofs/Strokes.lean ====
section
/-! A leaf's way (02 R27 to R31): the report on a lift attempt, the end of the carry and of the release, and the exhausted
leaf's return to park. -/

namespace Sys2Proof.Machine

variable {s : State} {v : Volume}

/-! ### Reports on the way -/

/-- A report rests on neither TC's part nor the pins. -/
theorem report_withMechanism (s : State) (t : Tc) (p : Pins) (c : FaultCode) (d : List Nat) :
    State.report c d { s with tc := t, pins := p } = { s.report c d with tc := t, pins := p } := by
  obtain ⟨-, -, -, hfb, hlk⟩ := report_alike (s := { s with tc := t, pins := p }) (t := s) ⟨rfl, rfl, rfl, rfl, rfl⟩ c d
  rw [report_frame, hfb, hlk, report_frame s]

/-! ### The leaf sensor's report (R27, R28) -/

/-- TC's part as another attempt follows a miss (R28, R34). -/
theorem attempting_miss {t : Tc} {now attempt air : Nat} (h : t.state = .lifting) :
    (Tc.countMiss { t with vacuum := false }).attempting now attempt air
      = { t with
          missRetries := min 65535 (t.missRetries + 1), attempt := attempt, air := air, knife := air, phaseStart := now
          vacuum := true, leafInHand := true, raiseGoal := none, returnGoal := none } := by
  unfold Tc.attempting
  rw [← h]
  rfl

/-- TC's part as another attempt follows a double (R28, R34). -/
theorem attempting_double {t : Tc} {now attempt air : Nat} (h : t.state = .lifting) :
    (Tc.countDouble { t with vacuum := false }).attempting now attempt air
      = { t with
          doubleRetries := min 65535 (t.doubleRetries + 1), attempt := attempt, air := air, knife := air
          phaseStart := now, vacuum := true, leafInHand := true, raiseGoal := none, returnGoal := none } := by
  unfold Tc.attempting
  rw [← h]
  rfl

/-- TC's part as the arm returns from an exhausted leaf (R29). -/
def Tc.exhausted (now : Nat) (a : Attention) (t : Tc) : Tc :=
  { t with
    state := .returning, phaseStart := now, vacuum := false, knife := 0, returnGoal := some .exhausted
    attention := some a }

/-- The pins after a report of no leaf, or of leaves released back. -/
def Pins.noLeaf (p : Pins) : Pins :=
  { p with leafSensor := .zero }

theorem leafReport_lifting (r : LeafReport) (h : s.tc.state = .lifting) :
    s.leafReport r = State.liftReport r { s with pins := { s.pins with leafSensor := r } } := by
  unfold State.leafReport
  rw [h]

section lifting
variable (hst : s.tc.state = .lifting) (hmark : s.tc.haltMark = false)
include hst hmark

theorem leafReport_one :
    s.leafReport .one
      = { s with
          pins := { s.pins with leafSensor := .one }
          tc := { s.tc with state := .carrying, phaseStart := s.now, knife := 0 } } := by
  rw [leafReport_lifting _ hst]
  exact if_neg (fun h => Bool.false_ne_true (hmark.symm.trans h))

/-- A miss or a double on an unmarked attempt: the leaves released back, the double reported, and the retry tested. -/
theorem leafReport_zero :
    s.leafReport .zero
      = State.retryLeaf Tc.countMiss .missExhausted
          { s with pins := s.pins.noLeaf, tc := { s.tc with vacuum := false } } := by
  rw [leafReport_lifting _ hst]
  exact if_neg (fun h => Bool.false_ne_true (hmark.symm.trans h))

theorem leafReport_many :
    s.leafReport .many
      = State.retryLeaf Tc.countDouble .doubleExhausted
          { s.report .doubleDetected [s.tc.nextLeaf, s.tc.attempt] with
            pins := s.pins.noLeaf, tc := { s.tc with vacuum := false } } := by
  rw [← report_withMechanism]
  rw [leafReport_lifting _ hst]
  exact if_neg (fun h => Bool.false_ne_true (hmark.symm.trans h))

end lifting

/-- In another state a report changes the sensor's level alone. -/
theorem leafReport_elsewhere (r : LeafReport) (h1 : s.tc.state ≠ .lifting) (h2 : s.tc.state ≠ .attention) :
    s.leafReport r = { s with pins := { s.pins with leafSensor := r } } := by
  unfold State.leafReport
  dsimp only
  split
  next h => exact absurd h h1
  next h => exact absurd h h2
  next => rfl

/-- Within the class retry limit another attempt begins. -/
theorem retryLeaf_retries {count : Tc → Tc} {code : FaultCode} (hv : s.sau.volume = some v)
    (h : s.tc.attempt ≤ v.limits.retryLimit) :
    s.retryLeaf count code
      = { s with
          tc := (count s.tc).attempting s.now (s.tc.attempt + 1) (min 9 (s.tc.air + 1))
          pins := { s.pins with armPark := false } } := by
  rw [State.retryLeaf, retryLimit_mounted hv, if_pos h]
  rfl

/-- Above it the leaf is exhausted, and the arm returns. -/
theorem retryLeaf_exhausts {count : Tc → Tc} {code : FaultCode} (hv : s.sau.volume = some v)
    (h : v.limits.retryLimit < s.tc.attempt) :
    s.retryLeaf count code
      = { s.report code [s.tc.nextLeaf, s.tc.attempt, s.tc.air] with
          tc := s.tc.exhausted s.now (s.tc.attentionFor code) } := by
  rw [State.retryLeaf, retryLimit_mounted hv, if_neg (Nat.not_le.mpr h)]
  unfold State.exhaustLeaf State.beginReturn State.withTc
  simp only [report_tc, report_now]
  rfl

/-- What ATTENTION will hold for a turn's exhausted leaf. -/
theorem attentionFor_turn {o : Op} {code : FaultCode} {t : Tc} (ho : t.op = some o) (hk : o.kind = .turn)
    (ha : t.attention = none) :
    t.attentionFor code = { code := code, sign := some o.forward, remaining := o.remaining } := by
  simp [Tc.attentionFor, Tc.turnSign, Tc.remainingCount, ha, ho, hk]

/-- The exhausted leaf, from the state whose reports came first. -/
theorem exec_leaf_exhausts {o : Op} {r : LeafReport} {code : FaultCode} {first : State} {count : Tc → Tc}
    (hs : s.quiet) (hv : s.sau.volume = some v) (ho : s.tc.op = some o) (hk : o.kind = .turn) (ha : s.tc.attention = none)
    (hlimit : v.limits.retryLimit < s.tc.attempt) (hfirst : first = s ∨ ∃ c d, first = s.report c d)
    (heffect : s.leafReport r
      = State.retryLeaf count code { first with pins := s.pins.noLeaf, tc := { s.tc with vacuum := false } }) :
    ∃ t, exec (.leafSensorReport r) s = .next t
      ∧ t.tc = { s.tc with
          state := .returning, phaseStart := s.now, vacuum := false, knife := 0, returnGoal := some .exhausted
          attention := some { code := code, sign := some o.forward, remaining := o.remaining } }
      ∧ t.fb = (first.report code [s.tc.nextLeaf, s.tc.attempt, s.tc.air]).fb
      ∧ t.pins = { s.pins with leafSensor := .zero }
      ∧ t = { s with pins := t.pins, tc := t.tc, fb := t.fb, lk := t.lk } := by
  obtain ⟨hp, hqueue, hquiet⟩ := hs
  have hframe : first = { s with fb := first.fb, lk := first.lk } := by
    rcases hfirst with rfl | ⟨c, d, rfl⟩
    · rfl
    · exact report_frame s c d
  have hfirstQueue : first.lk.queue = s.lk.queue := by
    rcases hfirst with rfl | ⟨c, d, rfl⟩
    · rfl
    · exact report_queue s c d
  have hsau : first.sau.volume = some v := by rw [hframe]; exact hv
  have hnow : first.now = s.now := by rw [hframe]
  rw [retryLeaf_exhausts (s := { first with pins := s.pins.noLeaf, tc := { s.tc with vacuum := false } }) hsau hlimit,
    attentionFor_turn (t := { s.tc with vacuum := false }) ho hk ha, report_withMechanism] at heffect
  have hlk : (first.report code [s.tc.nextLeaf, s.tc.attempt, s.tc.air]).lk.queue = [] := by
    rw [report_queue, hfirstQueue, hqueue]
  refine ⟨_, pinEvent_next hp heffect hlk ?quiet, ?_⟩
  case quiet => exact runQuiet_rc (s := s) ((report_rc _ _ _).trans (by rw [hframe])) hquiet
  simp only [kick_tc, kick_fb, kick_pins]
  refine ⟨by rw [hnow]; rfl, rfl, rfl, (kick_frame _).trans ?_⟩
  rw [report_frame, hframe]

/-! ### The exhausted leaf's return to park (R29) -/

/-- The fault ends the operation in hand in ATTENTION (R48). -/
theorem toAttention_op {o : Op} (h : s.tc.op = some o) :
    s.toAttention = (s.finishOp .attention .fault).withTc fun t => { t with knife := 0, dwellStart := none } := by
  rw [State.toAttention, h]
  rfl

theorem parkMade_exhausted {o : Op} (hst : s.tc.state = .returning) (hg : s.tc.returnGoal = some .exhausted)
    (hr : s.tc.resetStroke = false) (ho : s.tc.op = some o) :
    s.parkMade
      = (State.finishOp .attention .fault { s with pins := { s.pins with armPark := true } }).withTc
          fun t => { t with knife := 0, dwellStart := none } := by
  have hreturned : s.parkMade = State.toAttention { s with pins := { s.pins with armPark := true } } := by
    simp [State.parkMade, hst, State.returned, hr, hg]
  rw [hreturned]
  exact toAttention_op (s := { s with pins := { s.pins with armPark := true } }) ho

/-- Settles O33, by the report and the retry limit. -/
theorem leafReportsDecideTheAttempt : Obligations.LeafReportsDecideTheAttempt := by
  intro s hs
  have ⟨hp, hqueue, hquiet⟩ := hs
  refine ⟨fun hst hmark => ?one, fun v hst hmark hv hlimit => ⟨?miss, ?double⟩,
    fun v o r code first hst hmark hv ho hk ha hlimit hreport => ?exhausts,
    fun o hst hg hr hrec ho hrun => ?parked, fun r h1 h2 => ?elsewhere⟩
  case one => exact pinEvent_next hp (leafReport_one hst hmark) hqueue hquiet
  case miss =>
    have hretry := retryLeaf_retries (s := { s with pins := s.pins.noLeaf, tc := { s.tc with vacuum := false } })
      (count := Tc.countMiss) (code := .missExhausted) hv hlimit
    refine pinEvent_next hp ((leafReport_zero hst hmark).trans (hretry.trans ?_)) hqueue hquiet
    exact congrArg (fun t => { s with tc := t, pins := { s.pins with leafSensor := .zero, armPark := false } })
      (attempting_miss hst)
  case double =>
    have hretry := retryLeaf_retries (v := v) (count := Tc.countDouble) (code := .doubleExhausted)
      (s := { s.report .doubleDetected [s.tc.nextLeaf, s.tc.attempt] with
          pins := s.pins.noLeaf, tc := { s.tc with vacuum := false } }) ((congrArg Sau.volume (report_sau s _ _)).trans hv) hlimit
    refine pinEvent_next hp ((leafReport_many hst hmark).trans (hretry.trans ?_)) ((report_queue _ _ _).trans hqueue)
      (runQuiet_rc (s := s) (report_rc _ _ _) hquiet)
    refine Eq.trans ?_ (report_withMechanism s _ _ _ _).symm
    simp only [attempting_double hst, report_now, Pins.noLeaf]
  case exhausts =>
    rcases hreport with ⟨rfl, rfl, rfl⟩ | ⟨rfl, rfl, rfl⟩
    · exact exec_leaf_exhausts hs hv ho hk ha hlimit (.inl rfl) (leafReport_zero hst hmark)
    · exact exec_leaf_exhausts hs hv ho hk ha hlimit (.inr ⟨_, _, rfl⟩) (leafReport_many hst hmark)
  case parked =>
    obtain ⟨t, hexec, hends⟩ := pinEvent_endsOp (x := { s with pins := { s.pins with armPark := true } })
      (pin := fun s1 => { s1 with pins := { s1.pins with armPark := true } }) hp (parkMade_exhausted hst hg hr ho) hqueue hrun
    obtain ⟨-, -, hpins, hsau, hlc, hdi, hfb⟩ := endsOp_fields hends
    obtain ⟨htc, -, htold⟩ := hends
    refine ⟨t, hexec, by rw [htc]; rfl, by rw [htc], by rw [htc]; rfl, by rw [htc]; rfl, by rw [htc]; rfl, hpins, hsau, hlc, hdi,
      hfb, fun hm hb => ?_⟩
    obtain ⟨-, hnotice⟩ := htold hm hb
    rw [hnotice]
    simp [State.endNotice, Tc.endKind, hrec, ho]
  case elsewhere => exact pinEvent_next hp (leafReport_elsewhere r h1 h2) hqueue hquiet

/-! ### The carry and the release (R30, R31) -/

theorem endCarry_carries {o : Op} (hst : s.tc.state = .carrying) (ho : s.tc.op = some o) :
    s.endCarry
      = s.withTc fun t =>
          { t with
            state := .releasing, phaseStart := s.now, j := carriedTo o.forward t.j, leafInHand := false
            op := some { o with remaining := o.remaining - 1, turned := o.turned + 1 }
            turnsDone := satAdd maxCount16 t.turnsDone 1 } := by
  unfold State.endCarry
  rw [hst, ho]

theorem endCarry_elsewhere (hst : s.tc.state ≠ .carrying) : s.endCarry = s := by
  unfold State.endCarry
  split
  next h _ => exact absurd h hst
  next => rfl

theorem headUp_releases (hst : s.tc.state = .releasing) (hr : s.tc.recover = none) :
    s.headUp = s.releaseBack.beginReturn .turn := by
  unfold State.headUp
  rw [hst, hr]

theorem headUp_elsewhere (hst : s.tc.state ≠ .releasing) : s.headUp = s := by
  unfold State.headUp
  split
  next h => exact absurd h hst
  next => rfl

/-- Settles O34. -/
theorem carriesAndReleasesEnd : Obligations.CarriesAndReleasesEnd := by
  intro s hs
  obtain ⟨hp, hqueue, hquiet⟩ := hs
  exact ⟨fun o hst ho => event_next hp (endCarry_carries hst ho) hqueue hquiet,
    fun hst => event_next hp (endCarry_elsewhere hst) hqueue hquiet,
    fun hst hr => event_next hp (headUp_releases hst hr) hqueue hquiet,
    fun hst => event_next hp (headUp_elsewhere hst) hqueue hquiet⟩

end Sys2Proof.Machine
end

