-- ==== Sys2Proof/Proofs/Parking.lean ====
section
/-! The ends of the arm's return and of the platen's moves (02 R31, R32, R36 to R38), and of homing's phases (R53). -/

namespace Sys2Proof.Machine

variable {s : State} {v : Volume} {o : Op}

/-- The part with the park switch made. -/
def State.parked (s : State) : State :=
  { s with pins := { s.pins with armPark := true } }

/-- The part with the UP switch made. -/
def State.raisedUp (s : State) : State :=
  { s with pins := { s.pins with platenUp := true }, tc := { s.tc with atForce := false } }

/-! ### The end of a homing in a pin's event (R53) -/

/-- A homing that ends well in a pin's event: it is told, and only TC, the start-up record, RC and LK change. -/
theorem pinEvent_homes {x : State} {pin f : State → State} (hp : s.powered = true) (hf : f s = x.homingDone)
    (hq : x.lk.queue = []) (hr : x.runActive = false) (hstart : x.start = s.start) (hset : x.set = s.set)
    (hsau : x.sau = s.sau) (hj : x.tc.j = s.tc.j) (hby : x.tc.homeByRecover = s.tc.homeByRecover)
    (hsend : x.lk.sending = s.lk.sending) :
    ∃ t, (Host.Outcome.next (s.pinEvent pin f) : Host.Outcome State Fault Refusal) = .next t
      ∧ homed x.tc.homeCause s t ∧ t = { x with tc := t.tc, start := t.start, rc := t.rc, lk := t.lk } := by
  obtain ⟨rc, -, hexec⟩ := pinEvent_records (g := pin) hp hf ((homingDone_queue x).trans hq)
    ((congrArg (· == RunState.active) (homingDone_run x)).trans hr)
  refine ⟨_, hexec, homingDone_homed hstart hset hsau hj hby hsend, ?frame⟩
  obtain ⟨e, he⟩ := endHoming_frame x.homedState none .done .done x
  refine (kick_frame _).trans ?_
  rw [kick_tc, kick_start, kick_rc, homingDone_eq, he]

/-! ### The arm at park (R31, R32, R53) -/

theorem parkMade_turn (hst : s.tc.state = .returning) (hr : s.tc.resetStroke = false)
    (hg : s.tc.returnGoal = some .turn) : s.parkMade = s.parked.turnReturned := by
  simp [State.parkMade, hst, State.returned, hr, hg, State.parked]

theorem parkMade_homing (hst : s.tc.state = .homing) :
    s.parkMade = if s.tc.homePhase = some .arm then s.parked.homingDone else s.parked := by
  unfold State.parkMade
  rw [hst]
  rfl

/-- The turn is to end with a lowering by its clamp-after flag, or where it came from CLAMPED under a CLAMP policy. -/
theorem lowersAtEnd_mounted (hv : s.sau.volume = some v) :
    s.lowersAtEnd o = (o.clampAfter || (o.fromClamped && v.limits.policy == .clamp)) := by
  simp [State.lowersAtEnd, State.limits?, hv]

section turnReturned
variable (ho : s.tc.op = some o) (hstop : s.tc.stopMark = false) (hhalt : s.tc.haltMark = false)
include ho hstop hhalt

/-- The end of an unmarked turn's return: a further leaf, the final lowering, or the turn's end. -/
theorem turnReturned_unmarked :
    s.turnReturned
      = if 0 < o.remaining then s.nextLeafOrFoldout
        else if s.lowersAtEnd o then s.beginLowering
        else s.finishOp .unclamped .done := by
  simp [State.turnReturned, ho, hstop, hhalt]

theorem turnReturned_lifts (hv : s.sau.volume = some v) (hrem : 0 < o.remaining)
    (hleaf : v.foldouts.contains (if o.forward then s.tc.j + 1 else s.tc.j) = false) :
    s.turnReturned
      = { s with tc := s.tc.attempting s.now 1 v.limits.airStart, pins := { s.pins with armPark := false } } := by
  have hnext : s.tc.nextLeaf = if o.forward then s.tc.j + 1 else s.tc.j := by rw [Tc.nextLeaf, ho]
  rw [turnReturned_unmarked ho hstop hhalt, if_pos hrem, State.nextLeafOrFoldout, isFoldout_mounted hv, hnext, hleaf,
    if_neg Bool.false_ne_true, beginLeaf_mounted hv]

theorem turnReturned_lowers (hrem : o.remaining = 0) (hlow : s.lowersAtEnd o = true) :
    s.turnReturned = s.beginLowering := by
  rw [turnReturned_unmarked ho hstop hhalt, if_neg (by omega), if_pos hlow]

theorem turnReturned_ends (hrem : o.remaining = 0) (hlow : s.lowersAtEnd o = false) :
    s.turnReturned = s.finishOp .unclamped .done := by
  rw [turnReturned_unmarked ho hstop hhalt, if_neg (by omega), if_neg (by simp [hlow])]

end turnReturned

/-- Settles O35, by the end of the return and by the phase of the homing. -/
theorem returnsEndAtPark : Obligations.ReturnsEndAtPark := by
  refine ⟨fun s o v hs hrun hst hr hrec hg hstop hhalt ho hv => ?returns, fun s hs hrun hst => ?homes⟩
  case returns =>
    have ⟨hp, hqueue, hquiet⟩ := hs
    have hpark := parkMade_turn hst hr hg
    refine ⟨fun hrem hleaf => ?lifts, fun hrem hlow => ?lowers, fun hrem hafter hfree => ?ends⟩
    case lifts =>
      exact pinEvent_next hp (hpark.trans (turnReturned_lifts (s := s.parked) ho hstop hhalt hv hrem hleaf)) hqueue hquiet
    case lowers =>
      have hlowers : s.parked.lowersAtEnd o = true := by
        rw [lowersAtEnd_mounted (s := s.parked) hv]
        rcases hlow with h | ⟨h, h'⟩ <;> simp [*]
      exact pinEvent_next hp (hpark.trans (turnReturned_lowers (s := s.parked) ho hstop hhalt hrem hlowers)) hqueue hquiet
    case ends =>
      have hlowers : s.parked.lowersAtEnd o = false := by
        rw [lowersAtEnd_mounted (s := s.parked) hv]
        rcases hfree with h | h <;> simp [*]
      obtain ⟨t, hexec, hends⟩ := pinEvent_endsOp (g := id) (x := s.parked)
        (pin := fun s1 => { s1 with pins := { s1.pins with armPark := true } }) hp
        (hpark.trans (turnReturned_ends (s := s.parked) ho hstop hhalt hrem hlowers)) hqueue hrun
      obtain ⟨-, -, hpins, hsau, hlc, hdi, hfb⟩ := endsOp_fields hends
      obtain ⟨htc, -, htold⟩ := hends
      refine ⟨t, hexec, by rw [htc]; rfl, by rw [htc]; rfl, by rw [htc]; rfl, hpins, hsau, hlc, hdi, hfb, fun hm hb => ?_⟩
      obtain ⟨-, hnotice⟩ := htold hm hb
      rw [hnotice]
      simp [State.endNotice, Tc.endKind, State.parked, hrec, ho, hrem]
  case homes =>
    have ⟨hp, hqueue, hquiet⟩ := hs
    have hpark := parkMade_homing hst
    refine ⟨fun hphase => ?elsewhere, fun hphase => ?arm⟩
    case elsewhere => exact pinEvent_next hp (hpark.trans (if_neg hphase)) hqueue hquiet
    case arm => exact pinEvent_homes (x := s.parked) hp (hpark.trans (if_pos hphase)) hqueue hrun rfl rfl rfl rfl rfl rfl

/-! ### The UP switch made (R25, R36, R53) -/

theorem upMade_raising (hst : s.tc.state = .raising) : s.upMade = s.raisedUp.raised := by
  unfold State.upMade
  rw [hst]
  rfl

theorem upMade_homing (hst : s.tc.state = .homing) :
    s.upMade = if s.tc.homePhase = some .platen then s.raisedUp.homeArm else s.raisedUp := by
  unfold State.upMade
  rw [hst]
  rfl

theorem homeArm_drives (hpark : s.pins.armPark = false) :
    s.homeArm = s.withTc fun t => { t with homePhase := some .arm, phaseStart := s.now } := by
  simp [State.homeArm, hpark]

theorem homeArm_ends (hpark : s.pins.armPark = true) :
    s.homeArm = (s.withTc fun t => { t with homePhase := some .arm, phaseStart := s.now }).homingDone := by
  simp [State.homeArm, hpark]

/-- The raise of an unmarked UNCLAMP ends the operation. -/
theorem raised_unclamp (hg : s.tc.raiseGoal = some .unclamp) (hstop : s.tc.stopMark = false) :
    s.raised = s.finishOp .unclamped .done := by
  simp [State.raised, hg, hstop]

/-- The raise of an unmarked turn taken from CLAMPED begins its first leaf. -/
theorem raised_lift (hg : s.tc.raiseGoal = some .lift) (hstop : s.tc.stopMark = false) (hhalt : s.tc.haltMark = false) :
    s.raised = s.beginLeaf := by
  simp [State.raised, hg, hstop, hhalt]

/-! ### The platen force (R37, R38) -/

section forceRead
variable {x : Nat} (hv : s.sau.volume = some v)
include hv

theorem forceRead_mounted :
    s.forceRead x
      = if min (3 * v.limits.forceTarget / 2) 3600 < x then
          ((s.withTc fun t => { t with force := x }).report .platenOverforce [x, v.limits.forceTarget]).overforce
        else if s.tc.state = .lowering ∧ v.limits.forceTarget - v.limits.forceTarget / 20 ≤ x then
          (s.withTc fun t => { t with force := x }).lowered
        else s.withTc fun t => { t with force := x } := by
  have hlimits : s.limits? = some v.limits := by simp [State.limits?, hv]
  have htarget : s.forceTarget = v.limits.forceTarget := by simp [State.forceTarget, hlimits]
  have hmounted : s.mounted = true := by simp [State.mounted, hv]
  simp [State.forceRead, hlimits, htarget, hmounted, overforceLimit, loweringThreshold]

theorem forceRead_lowers (hst : s.tc.state = .lowering) (hstop : s.tc.stopMark = false) (hhalt : s.tc.haltMark = false)
    (hx : v.limits.forceTarget - v.limits.forceTarget / 20 ≤ x) (hmax : x ≤ min (3 * v.limits.forceTarget / 2) 3600) :
    s.forceRead x
      = (s.withTc fun t => { t with force := x, atForce := true, dwellStart := some (s.now / 1000) }).finishOp .clamped
          .done := by
  rw [forceRead_mounted hv, if_neg (by omega), if_pos ⟨hst, hx⟩]
  simp [State.lowered, State.withTc, State.clock, hstop, hhalt]

theorem forceRead_rests (hx : x < v.limits.forceTarget - v.limits.forceTarget / 20)
    (hmax : x ≤ min (3 * v.limits.forceTarget / 2) 3600) :
    s.forceRead x = s.withTc fun t => { t with force := x } := by
  rw [forceRead_mounted hv, if_neg (by omega), if_neg (by omega)]

end forceRead

/-- TC's part as the platen rises after an overforce with nothing in hand (R38). -/
def Tc.overforced (now : Nat) (t : Tc) : Tc :=
  { t with
    attention := some { code := .platenOverforce, sign := none, remaining := 0 }
    op := some (platenOp .unclamp false), knife := 0, pendingDwell := false, pendingOverforce := false
    state := .raising, phaseStart := now, dwellStart := none, atForce := false, raiseGoal := some .fault }

theorem overforce_clamped (hticket : s.ticketOpen = false) (hpreview : s.lc.preview = none)
    (hst : s.tc.state = .clamped) (hup : s.pins.platenUp = false) (ha : s.tc.attention = none) (ho : s.tc.op = none) :
    s.overforce = s.withTc (Tc.overforced s.now) := by
  simp [State.overforce, hst, hticket, endPreview_none hpreview, State.faultRaise, State.raiseNow, State.beginRaise,
    State.withTc, hup, ha, ho, Tc.attentionFor, Tc.turnSign, Tc.remainingCount, Tc.overforced]

/-- The report of a fault rests on nothing of TC's part. -/
theorem report_withTc (s : State) (f : Tc → Tc) (c : FaultCode) (d : List Nat) :
    (s.withTc f).report c d = (s.report c d).withTc f := by
  have h := report_withMechanism s (f s.tc) s.pins c d
  rw [State.withTc, State.withTc, report_tc]
  exact h.trans (by rw [← report_pins s c d])

/-- Settles O36, by the switch and the reading. -/
theorem platenMovesEnd : Obligations.PlatenMovesEnd := by
  refine ⟨fun s v hs hrun hv hstop hhalt hrec => ⟨fun hst hg => ?unclamps, fun hst hg => ?lifts,
      fun x hst hx hmax => ?lowers, fun x hx hmax => ?rests⟩,
    fun s v x hs hv hticket hpreview hst hup ha ho hx => ?overforces, fun s hs hrun hst => ?homes⟩
  case unclamps =>
    have ⟨hp, hqueue, hquiet⟩ := hs
    obtain ⟨t, hexec, hends⟩ := pinEvent_endsOp (g := id) (x := s.raisedUp)
      (pin := fun s1 => { s1 with pins := { s1.pins with platenUp := true } }) hp
      ((upMade_raising hst).trans (raised_unclamp (s := s.raisedUp) hg hstop)) hqueue hrun
    obtain ⟨-, -, hpins, hsau, hlc, hdi, hfb⟩ := endsOp_fields hends
    obtain ⟨htc, -, -⟩ := hends
    exact ⟨t, hexec, by rw [htc]; rfl, by rw [htc]; rfl, by rw [htc]; rfl, hpins, hsau, hlc, hdi, hfb⟩
  case lifts =>
    have ⟨hp, hqueue, hquiet⟩ := hs
    exact pinEvent_next hp ((upMade_raising hst).trans ((raised_lift (s := s.raisedUp) hg hstop hhalt).trans
      (beginLeaf_mounted (s := s.raisedUp) hv))) hqueue hquiet
  case lowers =>
    have ⟨hp, hqueue, hquiet⟩ := hs
    obtain ⟨t, hexec, hends⟩ := event_endsOp (g := id) hp (forceRead_lowers hv hst hstop hhalt hx hmax) hqueue hrun
    obtain ⟨-, -, hpins, hsau, hlc, hdi, hfb⟩ := endsOp_fields hends
    obtain ⟨htc, -, -⟩ := hends
    exact ⟨t, hexec, by rw [htc]; rfl, by rw [htc]; rfl, by rw [htc]; rfl, by rw [htc]; rfl, by rw [htc]; rfl,
      by rw [htc]; rfl, hpins, hsau, hlc, hdi, hfb⟩
  case rests =>
    have ⟨hp, hqueue, hquiet⟩ := hs
    exact event_next hp (forceRead_rests hv hx hmax) hqueue hquiet
  case overforces =>
    have ⟨hp, hqueue, hquiet⟩ := hs
    have hread : s.forceRead x
        = (s.report .platenOverforce [x, v.limits.forceTarget]).withTc fun t => Tc.overforced s.now { t with force := x } := by
      rw [forceRead_mounted hv, if_pos hx, report_withTc, overforce_clamped]
      · simp [State.withTc]
      · simpa [State.ticketOpen, State.openTicket?] using hticket
      all_goals simpa
    refine ⟨_, event_next hp hread ((report_queue _ _ _).trans hqueue)
      (runQuiet_rc (s := s) (report_rc _ _ _) hquiet), ?_⟩
    simp [Tc.overforced]
  case homes =>
    have ⟨hp, hqueue, hquiet⟩ := hs
    have hup := upMade_homing hst
    refine ⟨fun hphase => ?elsewhere, fun hphase hpark => ?drives, fun hphase hpark => ?ends⟩
    case elsewhere => exact pinEvent_next hp (hup.trans (if_neg hphase)) hqueue hquiet
    case drives =>
      exact pinEvent_next hp (hup.trans ((if_pos hphase).trans (homeArm_drives (s := s.raisedUp) hpark))) hqueue hquiet
    case ends =>
      exact pinEvent_homes (x := s.raisedUp.withTc fun t => { t with homePhase := some .arm, phaseStart := s.now }) hp
        (hup.trans ((if_pos hphase).trans (homeArm_ends (s := s.raisedUp) hpark))) hqueue hrun rfl rfl rfl rfl rfl rfl

end Sys2Proof.Machine
end

