-- ==== Sys2Proof/Proofs/Guard.lean ====
section
/-! The guard (02 R50): what its opening makes of the run, of the lamps and of TC, and the homing of cold start (11 R191)
that its closing begins. -/

namespace Sys2Proof.Machine

variable {s : State}

/-! ### The run and the guard (07 R153) -/

/-- A notice joins LK's part. -/
theorem notifyWith_frame (s : State) (k : NoticeKind) (f : Gathered → Gathered) :
    s.notifyWith k f = { s with lk := (s.notifyWith k f).lk } := by
  unfold State.notifyWith
  split <;> rfl

theorem pauseRun_frame (s : State) (reason : PauseReason) :
    s.pauseRun reason = { s with rc := (s.pauseRun reason).rc, lk := (s.pauseRun reason).lk } := by
  unfold State.pauseRun State.setRun State.notify
  rw [notifyWith_frame]
  rfl

theorem setRun_frame (s : State) (st : RunState) : s.setRun st = { s with rc := (s.setRun st).rc, lk := (s.setRun st).lk } := by
  unfold State.setRun State.notify
  rw [notifyWith_frame]
  rfl

/-- RC's part of a guard opening changes RC's part and LK's notices. -/
theorem rcSafeStop_frame (s : State) : s.rcSafeStop = { s with rc := s.rcSafeStop.rc, lk := s.rcSafeStop.lk } := by
  unfold State.rcSafeStop
  split
  · exact pauseRun_frame s _
  · exact setRun_frame s _
  · exact setRun_frame s _
  · rfl

theorem rcSafeStop_lk (s : State) : onlyNotices s.lk s.rcSafeStop.lk := by
  unfold State.rcSafeStop
  split
  · exact notifyWith_lk _ _ _
  · exact notifyWith_lk _ _ _
  · exact notifyWith_lk _ _ _
  · exact onlyNotices_refl _

/-- An ACTIVE run is PAUSED with GUARD. -/
theorem rcSafeStop_pauses (h : s.rc.state = .active) : s.rcSafeStop.rc.state = .paused .guard := by
  simp [State.rcSafeStop, h, State.pauseRun, State.setRun, State.notify, State.withRc]

/-- No run is ACTIVE after a guard opening. -/
theorem rcSafeStop_inactive (s : State) : s.rcSafeStop.runActive = false := by
  unfold State.rcSafeStop
  split
  case h_1 h => simp [State.runActive, State.pauseRun, State.setRun, State.notify, State.withRc]
  case h_2 h => simp [State.runActive, State.setRun, State.notify, State.withRc]
  case h_3 h => simp [State.runActive, State.setRun, State.notify, State.withRc]
  case h_4 h _ _ => simpa [State.runActive] using h

/-! ### The guard's report (R50) -/

theorem guardReport_frame (s : State) (st : TcState) :
    s.guardReport st = { s with fb := (s.report .guardOpen [st.code]).fb, lk := (s.guardReport st).lk } := by
  unfold State.guardReport State.notify
  rw [notifyWith_frame, report_frame]

theorem guardReport_lk (s : State) (st : TcState) : onlyNotices s.lk (s.guardReport st).lk :=
  onlyNotices_trans (report_lk s _ _) (notifyWith_lk _ _ _)

/-- The SAFETY notice is pending after a guard opening. -/
theorem guardReport_pends (st : TcState) (hm : s.set.noticeMask.getLsbD 0 = true) :
    (s.guardReport st).lk.pendingSet.getLsbD 0 = true :=
  notifyWith_pends (k := .safety) (s := s.report .guardOpen [st.code]) (by rw [report_set]; exact hm)

/-! ### A cut of the lamps and the capture in progress (05 R121) -/

section cutLight
variable {pre : List Ticket} {k : Ticket} (r : SideResult) (ht : s.cc.tickets = pre ++ [k]) (h : k.closed = false)
include ht h

/-- A cut of the lamps in SETTLE or WAIT-EDGE closes the ticket, each side without a result at the cut's result. -/
theorem cutLight_opening (hc : s.cc.state = .settle ∨ s.cc.state = .waitEdge) (h1 : s.tc.pendingOverforce = false)
    (h2 : s.tc.pendingDwell = false) :
    (s.cutLight r).cc.state = .idle
    ∧ (s.cutLight r).cc.tickets.getLast?
        = some { k.giveAll r with closed := true, closeTime := some (s.now / 1000) } := by
  obtain ⟨hidle, pre', htickets⟩ := cutCapture_opening (s := s.endPreview .cut) r (by simpa using ht) h (by simpa using hc)
    (by simpa using h1) (by simpa using h2)
  unfold State.cutLight
  rw [banksDark_cc]
  exact ⟨hidle, by simp [htickets]⟩

/-- In EXPOSE it gives the results, and the ticket stays OPEN. -/
theorem cutLight_exposing (hc : s.cc.state = .expose) :
    (s.cutLight r).cc.state = .expose ∧ (s.cutLight r).cc.tickets.getLast? = some (k.giveAll r) := by
  obtain ⟨hexpose, -, pre', htickets⟩ := cutCapture_exposing (s := s.endPreview .cut) r (by simpa using ht) h
    (by simpa using hc)
  unfold State.cutLight
  rw [banksDark_cc]
  exact ⟨hexpose, by simp [htickets]⟩

end cutLight

/-! ### A guard opening after start-up (R50) -/

/-- TC's and RC's part of a guard opening. -/
def State.stopped (s : State) : State :=
  (State.withTc (Tc.safeStopped s.leafOnHead) { s with pins := { s.pins with guardOpen := true } }).rcSafeStop

theorem stopped_frame (s : State) :
    s.stopped = { s with
      pins := { s.pins with guardOpen := true }, tc := s.tc.safeStopped s.leafOnHead
      rc := s.stopped.rc, lk := s.stopped.lk } :=
  rcSafeStop_frame _

theorem guardOpened_stops (hstarted : s.starting = false) (hguard : s.pins.guardOpen = false)
    (hst : s.tc.state ≠ .safeStop) (hr : s.tc.resetStroke = false) :
    s.guardOpened = (s.stopped.cutLight .guardCut).guardReport s.tc.state := by
  have hopened : s.guardOpened = State.safeStop { s with pins := { s.pins with guardOpen := true } } := by
    simp [State.guardOpened, hguard, hst, hstarted]
  rw [hopened, State.safeStop]
  simp only [hr]
  rfl

theorem stopped_tc (s : State) : s.stopped.tc = s.tc.safeStopped s.leafOnHead := by
  rw [stopped_frame]

theorem stopped_cc (s : State) : s.stopped.cc = s.cc := by
  rw [stopped_frame]

/-- A SAFE-STOP without a recovery has the state TC left as its origin. -/
theorem safeStopped_origin {t : Tc} (b : Bool) (h : t.recover = none) : (t.safeStopped b).origin = some t.state := by
  simp [Tc.safeStopped, h]

/-- What a guard opening after start-up leaves, from TC's and RC's part of it on. -/
theorem exec_guardOpen_stops (hs : s.quiet) (hstarted : s.starting = false) (hguard : s.pins.guardOpen = false)
    (hst : s.tc.state ≠ .safeStop) (hr : s.tc.resetStroke = false) :
    ∃ t, exec .guardOpen s = .next t
      ∧ cutAlike s.stopped (s.stopped.cutLight .guardCut)
      ∧ t.dark ∧ t.lc.preview = none ∧ t.rc.state = s.stopped.rc.state
      ∧ t.cc = (s.stopped.cutLight .guardCut).cc
      ∧ t.fb = ((s.stopped.cutLight .guardCut).report .guardOpen [s.tc.state.code]).fb
      ∧ t = { s.stopped.cutLight .guardCut with rc := t.rc, fb := t.fb, lk := t.lk } := by
  obtain ⟨hp, hqueue, -⟩ := hs
  obtain ⟨halike, hdark, hpreview, -⟩ := cutLight_leaves (s := s.stopped) (by rw [stopped_tc]; rfl) (by rw [stopped_tc]; rfl)
    .guardCut
  have ⟨_, _, _, _, _, _, hq, _, hrun, _⟩ := halike
  obtain ⟨z, hz⟩ : ∃ z, z = s.stopped.cutLight .guardCut := ⟨_, rfl⟩
  have hopened := guardOpened_stops hstarted hguard hst hr
  rw [← hz] at hopened halike hdark hpreview hq hrun ⊢
  have hlk := guardReport_lk z s.tc.state
  have hframe := guardReport_frame z s.tc.state
  have hrc : (z.guardReport s.tc.state).rc = z.rc := by rw [hframe]
  obtain ⟨rc, hrcState, hexec⟩ := pinEvent_records
    (g := fun s1 => { s1 with pins := { s1.pins with guardOpen := true } }) hp hopened
    (by rw [hlk, hq, show s.stopped.lk.queue = s.lk.queue by rw [State.stopped, rcSafeStop_lk]; rfl, hqueue])
    (by
      rw [State.runActive, hrc, hrun]
      exact rcSafeStop_inactive _)
  refine ⟨_, hexec, halike, fun b => ?dark, ?preview, ?run, ?cc, ?fb, ?frame⟩
  case dark =>
    rw [kick_lc]
    exact guardReport_dark hdark b
  case preview => rw [kick_lc, hframe]; exact hpreview
  case run => rw [kick_rc, ← hrun, ← hrc]; exact hrcState
  case cc => rw [kick_cc, hframe]
  case fb => rw [kick_fb, hframe]
  case frame =>
    refine (kick_frame _).trans ?_
    rw [kick_rc, kick_fb, hframe]

/-! ### While the part is starting (11 R191) -/

theorem guardOpened_starting (hstart : s.starting = true) (hguard : s.pins.guardOpen = false)
    (hst : s.tc.state ≠ .safeStop) :
    s.guardOpened = State.startGuard { s with pins := { s.pins with guardOpen := true } } := by
  simp [State.guardOpened, hguard, hst, hstart]

/-- Outside the homing step a guard opening is reported, with every bank dark. -/
theorem startGuard_waits (h : s.start.phase ≠ .homing) : s.startGuard = s.banksDark.guardReport s.tc.state := by
  unfold State.startGuard
  split
  · exact absurd ‹_› h
  all_goals rfl

/-- A homing under way stops, and the sequence waits for the guard. -/
theorem startGuard_stops (h : s.start.phase = .homing) :
    s.startGuard = { s.banksDark.guardReport s.tc.state with
      tc := { s.tc with homePhase := none }
      start := { s.start with phase := .guardWait, guardWaits := s.start.guardWaits + 1 } } := by
  have htc : (s.banksDark.guardReport s.tc.state).tc = s.tc := by rw [guardReport_frame, banksDark_tc]
  have hstart : (s.banksDark.guardReport s.tc.state).start = s.start := by rw [guardReport_frame, banksDark_start]
  simp [State.startGuard, h, State.withTc, htc, hstart]

theorem startGuard_tc (s : State) :
    s.startGuard.tc = if s.start.phase = .homing then { s.tc with homePhase := none } else s.tc := by
  by_cases h : s.start.phase = .homing
  · rw [startGuard_stops h, if_pos h]
  · rw [startGuard_waits h, if_neg h, guardReport_frame, banksDark_tc]

theorem startGuard_start (s : State) :
    s.startGuard.start
      = if s.start.phase = .homing then { s.start with phase := .guardWait, guardWaits := s.start.guardWaits + 1 }
        else s.start := by
  by_cases h : s.start.phase = .homing
  · rw [startGuard_stops h, if_pos h]
  · rw [startGuard_waits h, if_neg h, guardReport_frame, banksDark_start]

/-- What a guard opening while the part is starting changes. -/
theorem startGuard_frame (s : State) :
    s.startGuard = { s with
      tc := s.startGuard.tc, start := s.startGuard.start, lc := { s.lc with banks := s.lc.banks.map BankRec.dark }
      di := s.banksDark.di, fb := (s.report .guardOpen [s.tc.state.code]).fb, lk := (s.banksDark.guardReport s.tc.state).lk } := by
  have hfb : (s.banksDark.report .guardOpen [s.tc.state.code]).fb = (s.report .guardOpen [s.tc.state.code]).fb :=
    report_banks ⟨banksDark_now s, banksDark_set s, congrArg Sau.volume (banksDark_sau s), banksDark_fb s⟩ _ _
  by_cases h : s.start.phase = .homing
  · rw [startGuard_stops h, guardReport_frame, hfb, banksDark_frame]
  · rw [startGuard_waits h, guardReport_frame, hfb, banksDark_frame]

theorem startGuard_lk (s : State) : s.startGuard.lk = (s.banksDark.guardReport s.tc.state).lk := by
  rw [startGuard_frame]

theorem guardClosed_eq (s : State) :
    s.guardClosed
      = if s.pins.guardOpen = true ∧ s.start.phase = .guardWait then
          State.startHoming { s with pins := { s.pins with guardOpen := false } }
        else { s with pins := { s.pins with guardOpen := false } } := by
  simp [State.guardClosed]

/-! ### The homing of cold start (11 R191 steps 5 and 6) -/

/-- The part as the homing step begins. -/
def State.startsHoming (s : State) : State :=
  { s with start := { s.start with phase := .homing }, tc := { s.tc with homeCause := .coldStart, homeByRecover := false } }

theorem startHoming_eq (s : State) : s.startHoming = s.startsHoming.beginHoming := rfl

/-- The homing of cold start with both switches made ends start-up. -/
theorem startHoming_ends (hup : s.pins.platenUp = true) (hpark : s.pins.armPark = true) :
    s.startHoming
      = (s.startsHoming.withTc fun t => { t.beginsHoming s.now with homePhase := some .arm }).homingDone := by
  rw [startHoming_eq, beginHoming_ends (s := s.startsHoming) hup hpark]
  rfl

/-- With a switch open, homing is under way. -/
theorem startHoming_drives (h : s.pins.platenUp = false ∨ s.pins.armPark = false) :
    s.startHoming = s.startsHoming.withTc fun t =>
      { t.beginsHoming s.now with homePhase := some (if s.pins.platenUp then .arm else .platen) } := by
  rw [startHoming_eq]
  cases hup : s.pins.platenUp with
  | false => exact beginHoming_down (s := s.startsHoming) hup
  | true =>
    have hpark : s.pins.armPark = false := by simpa [hup] using h
    exact beginHoming_arm (s := s.startsHoming) hup hpark

/-- The end of start-up's homing changes TC's part, the start-up record and LK's part. -/
theorem homingDone_starting (h : s.start.phase ≠ .done) :
    s.homingDone = { s with tc := s.homingDone.tc, start := s.homingDone.start, lk := s.homingDone.lk }
    ∧ onlyNotices s.lk s.homingDone.lk := by
  rw [homingDone_eq, endHoming_starting _ _ _ _ h]
  refine ⟨?_, notifyWith_lk _ _ _⟩
  unfold State.endStart
  dsimp only
  rw [notifyWith_frame]
  rfl

/-- The homing step changes TC's part, the start-up record and LK's part. -/
theorem startHoming_frame (s : State) :
    s.startHoming = { s with tc := s.startHoming.tc, start := s.startHoming.start, lk := s.startHoming.lk }
    ∧ onlyNotices s.lk s.startHoming.lk := by
  by_cases h : s.pins.platenUp = true ∧ s.pins.armPark = true
  · obtain ⟨hup, hpark⟩ := h
    rw [startHoming_ends hup hpark]
    obtain ⟨hframe, hlk⟩ := homingDone_starting
      (s := s.startsHoming.withTc fun t => { t.beginsHoming s.now with homePhase := some .arm }) nofun
    exact ⟨hframe, hlk⟩
  · rw [startHoming_drives (by simpa only [not_and_or, Bool.not_eq_true] using h)]
    exact ⟨rfl, rfl⟩

/-- The homing step of cold start in an event whose other effects are those of `x`. -/
theorem startHoming_cold {x : State} (hpins : x.pins.platenUp = s.pins.platenUp ∧ x.pins.armPark = s.pins.armPark)
    (hstart : x.start = s.start) (hset : x.set = s.set) (hj : x.tc.j = s.tc.j)
    (hsend : x.lk.sending = s.lk.sending) : coldHoming s x.startHoming.kick := by
  obtain ⟨hup, hpark⟩ := hpins
  by_cases h : x.pins.platenUp = true ∧ x.pins.armPark = true
  · obtain ⟨hxup, hxpark⟩ := h
    obtain ⟨y, hy⟩ : ∃ y, y = x.startsHoming.withTc fun t => { t.beginsHoming x.now with homePhase := some .arm } := ⟨_, rfl⟩
    have hystart : y.start = { s.start with phase := .homing } := by rw [hy, ← hstart]; rfl
    obtain ⟨hstate, hop, -, -, hyj, htold, -⟩ := homingDone_homed (s := y) (x := y) (rc := y.homingDone.rc) rfl rfl rfl
      rfl rfl rfl
    obtain ⟨htstart, hnotice⟩ := htold (by rw [hystart]; nofun)
    rw [startHoming_ends hxup hxpark, ← hy]
    refine ⟨?vacuum, ?knife, hyj.trans (by rw [hy]; exact hj), fun hopen => ?opened, fun _ _ =>
      ⟨hstate.trans (by rw [hy]; rfl), hop, htstart.trans (by rw [hystart]), fun hm hb => ?_⟩⟩
    case vacuum => rw [kick_tc, homingDone_eq, endHoming_tc, hy]; rfl
    case knife => rw [kick_tc, homingDone_eq, endHoming_tc, hy]; rfl
    case opened =>
      rw [← hup, ← hpark, hxup, hxpark] at hopen
      simp at hopen
    have hm' : y.set.noticeMask.getLsbD 2 = true := by rw [hy]; exact hset ▸ hm
    have hb' : y.lk.sending.isSome = true := by rw [hy]; exact (congrArg Option.isSome hsend).trans hb
    obtain ⟨hpend, hgot⟩ := hnotice hm' hb'
    exact ⟨hpend, hgot.trans (by rw [hystart])⟩
  · have hopen : x.pins.platenUp = false ∨ x.pins.armPark = false := by
      simpa only [not_and_or, Bool.not_eq_true] using h
    rw [startHoming_drives hopen]
    refine ⟨by rw [kick_tc]; rfl, by rw [kick_tc]; rfl, by rw [kick_tc]; exact hj, fun _ => ⟨by rw [kick_tc]; rfl, ?_, ?_, ?_⟩,
      fun h1 h2 => absurd ⟨hup.trans h1, hpark.trans h2⟩ h⟩
    · rw [kick_tc, ← hup]; rfl
    · rw [kick_tc, kick_now]; rfl
    · rw [kick_start, ← hstart]; rfl

/-! ### The guard's two events -/

/-- Settles O37, by the part's phase and the state TC is in. -/
theorem guardStopsThePart : Obligations.GuardStopsThePart := by
  refine ⟨fun s hs hstarted hguard hst hr hrec => ?stops, fun s hs hstarted => ⟨?closes, fun hst => ?again⟩,
    fun s hs hstart => ⟨fun hguard hst => ?report, fun hguard hphase => ?homes, fun hwait => ?pin⟩⟩
  case stops =>
    obtain ⟨t, hexec, ⟨hnow, hset, hsau, htc, hfbz, hpins, -⟩, hdark, hpreview, hrun, hcc, hfb, hframe⟩ :=
      exec_guardOpen_stops hs hstarted hguard hst hr
    have hstopped := stopped_frame s
    have htc' : t.tc = s.tc.safeStopped s.leafOnHead := by rw [hframe]; exact htc.trans (stopped_tc s)
    have hoverforce : s.stopped.tc.pendingOverforce = false := by rw [stopped_tc]; rfl
    have hdwell : s.stopped.tc.pendingDwell = false := by rw [stopped_tc]; rfl
    refine ⟨t, hexec, hdark, hpreview, by rw [htc']; rfl, by rw [htc']; exact safeStopped_origin _ hrec, by rw [htc']; rfl,
      by rw [htc']; rfl, by rw [htc']; rfl, by rw [htc']; rfl, ?pins, fun hactive => hrun.trans (rcSafeStop_pauses hactive),
      hfb.trans ?fb, ?sau, ?set, ?now, fun pre k ht hk hc => ?opening, fun pre k ht hk hc => ?exposing⟩
    case pins => rw [hframe]; exact hpins.trans (by rw [hstopped])
    case fb =>
      exact report_banks ⟨hnow.trans (by rw [hstopped]), hset.trans (by rw [hstopped]),
        congrArg Sau.volume (hsau.trans (by rw [hstopped])), hfbz.trans (by rw [hstopped])⟩ _ _
    case sau => rw [hframe]; exact hsau.trans (by rw [hstopped])
    case set => rw [hframe]; exact hset.trans (by rw [hstopped])
    case now => rw [hframe]; exact hnow.trans (by rw [hstopped])
    case opening =>
      rw [← stopped_cc] at ht hc
      obtain ⟨hidle, hlast⟩ := cutLight_opening .guardCut ht hk hc hoverforce hdwell
      have hclock : s.stopped.now = s.now := by rw [hstopped]
      rw [hcc]
      exact ⟨hidle, hlast.trans (by rw [hclock]; rfl)⟩
    case exposing =>
      rw [← stopped_cc] at ht hc
      rw [hcc]
      exact cutLight_exposing .guardCut ht hk hc
  case closes =>
    obtain ⟨hp, hqueue, hquiet⟩ := hs
    have hphase : s.start.phase ≠ .guardWait := fun h => by simp [State.starting, h] at hstarted
    exact pinEvent_next hp ((guardClosed_eq s).trans (if_neg fun h => hphase h.2)) hqueue hquiet
  case again =>
    obtain ⟨hp, hqueue, hquiet⟩ := hs
    exact pinEvent_next hp (by simp [State.guardOpened, hst]) hqueue hquiet
  case report =>
    obtain ⟨hp, hqueue, hquiet⟩ := hs
    have hopened := guardOpened_starting hstart hguard (by rw [hst]; nofun)
    obtain ⟨x, hx⟩ : ∃ x, x = { s with pins := { s.pins with guardOpen := true } } := ⟨_, rfl⟩
    rw [← hx] at hopened
    have hframe := startGuard_frame x
    have hlk := startGuard_lk x
    have hnotices := guardReport_lk x.banksDark x.tc.state
    have hxlk : x.banksDark.lk = s.lk := by rw [banksDark_lk, hx]
    refine ⟨_, pinEvent_next hp hopened (by rw [hlk, hnotices, hxlk]; exact hqueue)
      (runQuiet_rc (s := s) (by rw [hframe, hx]) hquiet), fun b => ?dark, ?fb, fun hm hb => ?notice, ?start, ?tc, ?frame⟩
    case dark =>
      have hlc : x.startGuard.lc = x.banksDark.lc := by rw [hframe, banksDark_lcOf]
      rw [kick_lc, hlc]
      exact banksDark_dark x b
    case fb =>
      rw [kick_fb, hframe, hx]
      refine report_banks ⟨?_, ?_, ?_, ?_⟩ _ _ <;> rfl
    case notice =>
      rw [kick_busy (by rw [hlk, hnotices, hxlk]; exact hb), hlk]
      exact guardReport_pends _ (by rw [banksDark_set, hx]; exact hm)
    case start => rw [kick_start, startGuard_start, hx]
    case tc => rw [kick_tc, startGuard_tc, hx]
    case frame =>
      refine (kick_frame _).trans ?_
      rw [kick_tc, kick_lc, kick_di, kick_fb, kick_start, hframe, hx]
  case homes =>
    obtain ⟨hp, hqueue, hquiet⟩ := hs
    have hclosed := (guardClosed_eq s).trans (if_pos ⟨hguard, hphase⟩)
    obtain ⟨x, hx⟩ : ∃ x, x = { s with pins := { s.pins with guardOpen := false } } := ⟨_, rfl⟩
    rw [← hx] at hclosed
    obtain ⟨hframe, hlk⟩ := startHoming_frame x
    refine ⟨_, pinEvent_next hp hclosed (by rw [hlk, hx]; exact hqueue)
      (runQuiet_rc (s := s) (by rw [hframe, hx]) hquiet),
      startHoming_cold (by rw [hx]; exact ⟨rfl, rfl⟩) (by rw [hx]) (by rw [hx]) (by rw [hx]) (by rw [hx]), ?_⟩
    refine (kick_frame _).trans ?_
    rw [kick_tc, kick_start, hframe, hx]
  case pin =>
    obtain ⟨hp, hqueue, hquiet⟩ := hs
    refine pinEvent_next hp ((guardClosed_eq s).trans (if_neg ?_)) hqueue hquiet
    rintro ⟨h1, h2⟩
    rcases hwait with h | h
    · exact Bool.false_ne_true (h.symm.trans h1)
    · exact h h2

end Sys2Proof.Machine
end

