-- ==== Sys2Proof/Proofs/Limits.lean ====
section
/-! The limits of TC's timers: a motion phase (02 R39), a phase of homing (R53), and the dwell (R41). -/

namespace Sys2Proof.Machine

variable {s : State} {o : Op}

/-! ### The limit of a motion phase (R39) -/

/-- The detail of STROKE-TIMEOUT. -/
def State.strokeDetail (s : State) : List Nat :=
  [s.tc.state.code, s.tc.j, s.tc.directionCode, s.tc.attempt, s.tc.air, s.tc.force]

/-- The part with the phase's limit reported, and with what ATTENTION will hold. -/
def State.timedOut (s : State) : State :=
  (s.report .strokeTimeout s.strokeDetail).withTc fun t => { t with attention := some (t.attentionFor .strokeTimeout) }

/-- TC's last change at a phase's limit, by the state that is told: in ATTENTION the air knife goes off, and after a
lowering the platen rises. -/
def Tc.atLimit (told : TcState) (now : Nat) (t : Tc) : Tc :=
  if told = .raising then
    { t with state := .raising, phaseStart := now, dwellStart := none, atForce := false, raiseGoal := some .fault }
  else { t with knife := 0, dwellStart := none }

theorem timedOut_op (ho : s.tc.op = some o) : s.timedOut.tc.op = some o := by
  simpa [State.timedOut, State.withTc] using ho

/-- The limit of an arm stroke or of a raise ends the operation in ATTENTION. -/
theorem phaseTimeout_attention (ho : s.tc.op = some o) (hr : s.tc.resetStroke = false)
    (hst : s.tc.state ∈ [.lifting, .carrying, .releasing, .returning, .raising]) :
    s.phaseTimeout = (s.timedOut.finishOp .attention .fault).withTc (Tc.atLimit .attention s.now) := by
  have hend : s.phaseTimeout = s.timedOut.toAttention := by
    simp only [List.mem_cons, List.not_mem_nil, or_false] at hst
    rcases hst with h | h | h | h | h <;> simp [State.phaseTimeout, h, hr, State.timedOut, State.strokeDetail]
  rw [hend, toAttention_op (timedOut_op ho)]
  rfl

/-- The limit of a lowering ends the operation, and the platen rises toward ATTENTION. -/
theorem phaseTimeout_lowering (hst : s.tc.state = .lowering) :
    s.phaseTimeout = (s.timedOut.finishOp .raising .fault).withTc (Tc.atLimit .raising s.now) := by
  have hnow : (s.timedOut.finishOp .raising .fault).now = s.now := by simp [State.timedOut]
  have hend : s.phaseTimeout = (s.timedOut.finishOp .raising .fault).beginRaise .fault := by
    simp [State.phaseTimeout, hst, State.timedOut, State.strokeDetail]
  rw [hend, State.beginRaise, hnow]
  rfl

/-- The phases that a limit ends, with the state then told and the limit in ms (Table 2-5). -/
theorem phase_limits {told : TcState} {limit : Nat}
    (h : (told = .attention ∧ (s.tc.state, limit) ∈ [(.lifting, 2000), (.carrying, 3000), (.releasing, 1500),
          (.returning, 2000), (.raising, 1500)])
      ∨ (told = .raising ∧ s.tc.state = .lowering ∧ limit = 2000)) :
    s.phaseDue? = some (s.tc.phaseStart + limit * 1000)
    ∧ ((told = .attention ∧ s.tc.state ∈ [.lifting, .carrying, .releasing, .returning, .raising])
        ∨ (told = .raising ∧ s.tc.state = .lowering)) := by
  simp only [List.mem_cons, List.not_mem_nil, or_false, Prod.mk.injEq] at h
  rcases h with ⟨rfl, ⟨h, rfl⟩ | ⟨h, rfl⟩ | ⟨h, rfl⟩ | ⟨h, rfl⟩ | ⟨h, rfl⟩⟩ | ⟨rfl, h, rfl⟩ <;>
    simp [State.phaseDue?, h, phaseLimit]

/-- The limit of a phase, by the state that is told. -/
theorem phaseTimeout_ends {told : TcState} (ho : s.tc.op = some o) (hr : s.tc.resetStroke = false)
    (h : (told = .attention ∧ s.tc.state ∈ [.lifting, .carrying, .releasing, .returning, .raising])
      ∨ (told = .raising ∧ s.tc.state = .lowering)) :
    s.phaseTimeout = (s.timedOut.finishOp told .fault).withTc (Tc.atLimit told s.now) := by
  rcases h with ⟨rfl, hst⟩ | ⟨rfl, hst⟩
  · exact phaseTimeout_attention ho hr hst
  · exact phaseTimeout_lowering hst

/-- The direction byte of a timeout, from the record in hand. -/
theorem directionCode_op (ho : s.tc.op = some o) :
    s.tc.directionCode = if o.kind = .turn then (if o.forward then 0 else 1) else 2 := by
  cases hf : o.forward <;> by_cases hk : o.kind = .turn <;> simp [Tc.directionCode, Tc.turnSign, ho, hk, hf]

/-- What ATTENTION will hold for the operation in hand. -/
theorem attentionFor_op {code : FaultCode} {t : Tc} (ho : t.op = some o) (ha : t.attention = none) :
    t.attentionFor code
      = { code := code, sign := if o.kind = .turn then some o.forward else none, remaining := o.remaining } := by
  simp [Tc.attentionFor, Tc.turnSign, Tc.remainingCount, ho, ha]

/-! ### The limit of a phase of homing (R53) -/

theorem homeDueUs_homing {part : HomePart} (hst : s.tc.state = .homing) (hp : s.tc.homePhase = some part) :
    s.homeDueUs? = some (s.tc.phaseStart + 3000000) := by
  simp [State.homeDueUs?, State.homeDue?, hst, hp]

theorem homeLimit_fails {part : HomePart} (hst : s.tc.state = .homing) (hp : s.tc.homePhase = some part) :
    s.homeLimit = s.homingFailed part := by
  simp [State.homeLimit, State.homeDue?, hst, hp]

/-- A failed homing, with the phase's number in its report. -/
theorem exec_homeFail {part : HomePart} {n : Nat} (hs : s.quiet) (hrun : s.runActive = false)
    (hst : s.tc.state = .homing) (hpart : s.tc.homePhase = some part) (hnow : s.endsNow (s.tc.phaseStart + 3000000))
    (hfails : (s.goTo (s.tc.phaseStart + 3000000)).homingFailed part
      = ((s.goTo (s.tc.phaseStart + 3000000)).report .homeFail [n]).endHoming .attention
          (some { code := .homeFail, sign := none, remaining := 0 }) (.failed part) .fault) :
    ∃ t, exec .homeFail s = .next t
      ∧ t.now = max s.now (s.tc.phaseStart + 3000000)
      ∧ t.tc.state = .attention ∧ t.tc.op = none ∧ t.tc.j = s.tc.j
      ∧ t.tc.attention = some { code := .homeFail, sign := none, remaining := 0 }
      ∧ t.fb = (State.report .homeFail [n] (s.goTo (s.tc.phaseStart + 3000000))).fb
      ∧ homingTold (.failed part) .fault s t
      ∧ t.pins = s.pins ∧ t.sau = s.sau ∧ t.lc = s.lc ∧ t.di = s.di ∧ t.set = s.set := by
  obtain ⟨hp, hqueue, -⟩ := hs
  have heffect := (homeLimit_fails (s := s.goTo (s.tc.phaseStart + 3000000)) hst hpart).trans hfails
  obtain ⟨x, hx⟩ : ∃ x, x = (s.goTo (s.tc.phaseStart + 3000000)).report .homeFail [n] := ⟨_, rfl⟩
  rw [← hx] at heffect ⊢
  have hxtc : x.tc = s.tc := by rw [hx, report_tc]; rfl
  have hxset : x.set = s.set := by rw [hx, report_set]; rfl
  obtain ⟨y, hy⟩ : ∃ y, y = x.endHoming .attention (some { code := .homeFail, sign := none, remaining := 0 })
    (.failed part) .fault := ⟨_, rfl⟩
  obtain ⟨e, hframe⟩ := endHoming_frame .attention (some { code := .homeFail, sign := none, remaining := 0 })
    (.failed part) .fault x
  have htc := endHoming_tc .attention (some { code := .homeFail, sign := none, remaining := 0 }) (.failed part) .fault x
  have hlk : y.lk.queue = x.lk.queue := by rw [hy]; simp [State.endHoming, State.withTc]
  rw [← hy] at hframe htc heffect
  obtain ⟨r, -, hexec⟩ := timer_records hp (homeDueUs_homing hst hpart) hnow heffect
    (by rw [hlk, hx, report_queue]; exact hqueue)
    (by
      have hrc : y.rc.state = s.rc.state := by rw [hframe, hx, report_rc]; rfl
      rw [State.runActive, hrc]
      exact hrun)
  have htold := endHoming_told (s := s) (x := x) (st := .attention) (rc := r)
    (a := some { code := .homeFail, sign := none, remaining := 0 }) (o := .failed part) (r := .fault)
    (by rw [hx, report_start]; rfl) hxset (by rw [hxtc]) (by rw [hxtc]) (by rw [hx, report_sending]; rfl)
  rw [← hy] at htold
  refine ⟨_, hexec, ?_, by rw [kick_tc, htc]; rfl, by rw [kick_tc, htc]; rfl, by rw [kick_tc, htc, hxtc]; rfl,
    by rw [kick_tc, htc]; rfl, by rw [kick_fb, hframe], htold, ?_⟩
  · rw [kick_now, hframe, hx, report_now]
    rfl
  · rw [kick_pins, kick_sau, kick_lc, kick_di, kick_set, hframe, hx, report_pins, report_sau, report_lc, report_di, report_set]
    exact ⟨rfl, rfl, rfl, rfl, rfl⟩

/-! ### The dwell (R41) -/

section dwell
variable {v : Volume} {began : Nat} (hv : s.sau.volume = some v) (hd : s.tc.dwellStart = some began)
include hv hd

theorem dwellDueUs_clamped (hst : s.tc.state = .clamped) (hp : s.tc.pendingDwell = false) :
    s.dwellDueUs? = some ((began + v.limits.dwellLimit * 1000) * 1000) := by
  simp [State.dwellDueUs?, State.dwellDue?, hd, hst, hp, State.dwellLimitMs, State.limits?, hv, atMs]

theorem dwellDueUs_halted (hst : s.tc.state = .halted) :
    s.dwellDueUs? = some ((began + v.limits.dwellLimit * 1000) * 1000) := by
  simp [State.dwellDueUs?, State.dwellDue?, hd, hst, State.dwellLimitMs, State.limits?, hv, atMs]

end dwell

/-- With a ticket OPEN the dwell raise waits for its close. -/
theorem dwellExpired_waits (hst : s.tc.state = .clamped) (hticket : s.ticketOpen = true) :
    s.dwellExpired = s.withTc fun t => { t with pendingDwell := true } := by
  simp [State.dwellExpired, hst, hticket]

/-- The dwell raise from CLAMPED with no preview lit. -/
theorem dwellExpired_raises (hst : s.tc.state = .clamped) (hticket : s.ticketOpen = false) (hpreview : s.lc.preview = none) :
    s.dwellExpired = State.notify .dwell
      (s.withTc fun t =>
        { t with
          op := some (platenOp .unclamp false), pendingDwell := false, state := .raising, phaseStart := s.now
          dwellStart := none, atForce := false, raiseGoal := some .unclamp }) := by
  simp only [State.dwellExpired, hst, hticket, State.dwellRaise, endPreview_none hpreview]
  rfl

theorem dwellExpired_halted (hst : s.tc.state = .halted) :
    s.dwellExpired = State.notify .dwell
      (s.withTc fun t =>
        { t with
          state := .raising, phaseStart := s.now, dwellStart := none, atForce := false
          raiseGoal := some .backToHalted }) := by
  simp only [State.dwellExpired, hst]
  rfl

/-- An event that changes TC's part and makes the DWELL notice pending. -/
theorem timer_dwells {g : Tc → Tc} {d : Nat} (hs : s.quiet) (hdue : s.dwellDueUs? = some d) (hnow : s.endsNow d)
    (heffect : (s.goTo d).dwellExpired = State.notify .dwell ((s.goTo d).withTc g)) :
    ∃ t, exec .dwellExpiry s = .next t ∧ t.now = max s.now d ∧ t.tc = g s.tc
      ∧ (s.set.noticeMask.getLsbD 10 = true → s.lk.sending.isSome = true → t.lk.pendingSet.getLsbD 10 = true)
      ∧ t = { s with now := t.now, tc := t.tc, lk := t.lk } := by
  obtain ⟨hp, hqueue, hquiet⟩ := hs
  have hframe := notifyWith_frame ((s.goTo d).withTc g) .dwell id
  have hlk := notifyWith_lk ((s.goTo d).withTc g) .dwell id
  refine ⟨_, timer_next hp hdue hnow heffect (by rw [State.notify, hlk]; exact hqueue)
    (runQuiet_rc (s := s) (by rw [State.notify, hframe]; rfl) hquiet), ?now, ?tc, fun hm hb => ?pends, ?frame⟩
  case now => rw [kick_now, State.notify, hframe]; rfl
  case tc => rw [kick_tc, State.notify, hframe]; rfl
  case pends =>
    rw [kick_busy (by rw [State.notify, hlk]; exact hb)]
    exact notifyWith_pends (k := .dwell) (s := (s.goTo d).withTc g) hm
  case frame =>
    refine (kick_frame _).trans ?_
    rw [kick_now, kick_tc, State.notify, hframe]
    rfl

/-- Settles O38, by the timer that ends. -/
theorem motionAndDwellLimits : Obligations.MotionAndDwellLimits := by
  refine ⟨fun s o limit due told hs hrun ho hr ha hdue hnow hphase => ?stroke,
    fun s part due hs hrun hst hpart hdue hnow => ?homing,
    fun s v began due hs hv hd hdue hnow => ⟨fun hst hpend hticket => ?waits, fun hst hpend hticket hpreview => ?raises,
      fun hst => ?halted⟩⟩
  case stroke =>
    obtain ⟨hp, hqueue, -⟩ := hs
    subst hdue
    obtain ⟨hphaseDue, htold⟩ := phase_limits hphase
    obtain ⟨x, hx⟩ : ∃ x, x = s.goTo (s.tc.phaseStart + limit * 1000) := ⟨_, rfl⟩
    have hxtc : x.tc = s.tc := by rw [hx]; rfl
    have hxset : x.set = s.set := by rw [hx]; rfl
    have hxlk : x.lk = s.lk := by rw [hx]; rfl
    have heffect := phaseTimeout_ends (s := x) (by rw [hxtc]; exact ho) (by rw [hxtc]; exact hr) (by rw [hxtc]; exact htold)
    obtain ⟨t, hexec, hends⟩ := timer_endsOp (x := x.timedOut) hp hphaseDue hnow (by rw [← hx]; exact heffect)
      (by simpa [State.timedOut, hx] using hqueue) (by simpa [State.timedOut, State.runActive, hx] using hrun)
    obtain ⟨htnow, htset, htpins, htsau, htlc, htdi, htfb⟩ := endsOp_fields hends
    obtain ⟨htc, -, hnotice⟩ := hends
    have htimed : x.timedOut.tc = { s.tc with
        attention := some { code := .strokeTimeout, sign := if o.kind = .turn then some o.forward else none
                            remaining := o.remaining } } := by
      rw [State.timedOut, withTc_tc, report_tc, hxtc, attentionFor_op ho ha]
    have hdetail : x.strokeDetail = [s.tc.state.code, s.tc.j,
        if o.kind = .turn then (if o.forward then 0 else 1) else 2, s.tc.attempt, s.tc.air, s.tc.force] := by
      rw [State.strokeDetail, hxtc, directionCode_op ho]
    have hxnow : t.now = x.now := by rw [htnow, State.timedOut, withTc_now, report_now]
    refine ⟨t, hexec, hxnow.trans (by rw [hx]; rfl), ?state, ?op, ?j, ?leaf, ?vacuum, fun h => ?knife, fun h => ?raise,
      ?attention, ?fb, fun hm hb => ?notice, ?pins, ?sau, ?lc, ?di, ?set⟩
    case state => rw [htc, htimed]; rcases htold with ⟨rfl, -⟩ | ⟨rfl, -⟩ <;> rfl
    case op => rw [htc, htimed]; rcases htold with ⟨rfl, -⟩ | ⟨rfl, -⟩ <;> rfl
    case j => rw [htc, htimed]; rcases htold with ⟨rfl, -⟩ | ⟨rfl, -⟩ <;> rfl
    case leaf => rw [htc, htimed]; rcases htold with ⟨rfl, -⟩ | ⟨rfl, -⟩ <;> rfl
    case vacuum => rw [htc, htimed]; rcases htold with ⟨rfl, -⟩ | ⟨rfl, -⟩ <;> rfl
    case attention => rw [htc, htimed]; rcases htold with ⟨rfl, -⟩ | ⟨rfl, -⟩ <;> rfl
    case knife => rw [htc, h]; rfl
    case raise => rw [htc, h, hxnow]; exact ⟨rfl, rfl⟩
    case fb => rw [htfb, State.timedOut, withTc_fb, hdetail, hx]; rfl
    case notice =>
      obtain ⟨-, hgot⟩ := hnotice (by rw [State.timedOut, withTc_set, report_set, hxset]; exact hm)
        (by rw [State.timedOut, withTc_lk, report_sending, hxlk]; exact hb)
      rw [hgot]
      simp [State.endNotice, htimed, Tc.endKind, ho]
    case pins => rw [htpins, State.timedOut, withTc_pins, report_pins, hx]; rfl
    case sau => rw [htsau, State.timedOut, withTc_sau, report_sau, hx]; rfl
    case lc => rw [htlc, State.timedOut, withTc_lc, report_lc, hx]; rfl
    case di => rw [htdi, State.timedOut, withTc_di, report_di, hx]; rfl
    case set => rw [htset, State.timedOut, withTc_set, report_set, hxset]
  case homing =>
    subst hdue
    cases part with
    | platen => exact exec_homeFail hs hrun hst hpart hnow (homingFailed_eq _ .platen)
    | arm => exact exec_homeFail hs hrun hst hpart hnow (homingFailed_eq _ .arm)
  case waits =>
    obtain ⟨hp, hqueue, hquiet⟩ := hs
    subst hdue
    exact timer_next hp (dwellDueUs_clamped hv hd hst hpend) hnow (dwellExpired_waits (s := s.goTo _) hst hticket) hqueue
      hquiet
  case raises =>
    subst hdue
    obtain ⟨t, hexec, htnow, htc, hpends, hframe⟩ := timer_dwells hs (dwellDueUs_clamped hv hd hst hpend) hnow
      (dwellExpired_raises hst hticket hpreview)
    exact ⟨t, hexec, htnow, by rw [htc], by rw [htc], by rw [htc], by rw [htc]; rfl, by rw [htc], hpends, hframe⟩
  case halted =>
    subst hdue
    obtain ⟨t, hexec, htnow, htc, hpends, hframe⟩ := timer_dwells hs (dwellDueUs_halted hv hd hst) hnow
      (dwellExpired_halted hst)
    exact ⟨t, hexec, htnow, by rw [htc], by rw [htc], by rw [htc], by rw [htc], by rw [htc], hpends, hframe⟩

end Sys2Proof.Machine
end

