-- ==== Sys2Proof/Proofs/Lamps.lean ====
section
/-! LC (03): previews light and end (R68 to R71), banks fault and are cleared (R65 to R67), and regulation steps the lit banks
(R57, R61). -/

namespace Sys2Proof.Machine

variable {s : State} {tag : Byte} {profile duration : Nat}

/-! ### PREVIEW (R68, R69) -/

/-- The tests of a mounted part's PREVIEW on one of the four profiles. -/
theorem previewRefusal_mounted (hv : s.sau.volume.isSome = true) (hprofile : profile ≤ 3) :
    s.previewRefusal profile duration
      = if s.runActive || !s.settled then some .state
        else if s.ticketOpen || s.lc.preview.isSome then some .busy
        else if !s.cc.sync.state.admits then some .noSync
        else if !s.anyUsable (profileAt s.set.profiles profile) then some .lamp
        else if s.di.sensorDark then some .sensor
        else s.doseRefusal (profileAt s.set.profiles profile) (previewSeconds duration * 1000) := by
  simp [State.previewRefusal, State.mounted, hv, Nat.not_lt.mpr hprofile]

/-- A refused PREVIEW changes no state. -/
theorem exec_preview_refused {r : Result} (hs : s.serves) (h : s.previewRefusal profile duration = some r) :
    exec (.preview tag profile duration) s = .next (s.answeredWith 0x30#8 tag r) :=
  exec_unchanged hs rfl rfl rfl (fun _ => nofun) (by
    change decidePreview profile duration (s.holding 0x30#8 tag) = _
    rw [decidePreview, show (s.holding 0x30#8 tag).previewRefusal profile duration = some r from h]
    rfl)

/-- An admitted PREVIEW is lit, and the reply carries the duration in force. -/
theorem exec_preview_lit (hs : s.serves) (h : s.previewRefusal profile duration = none) :
    exec (.preview tag profile duration) s
      = .next (State.answered 0x30#8 tag ⟨.ok, [.num (previewSeconds duration), .flag (outside 1 30 duration)]⟩
          (s.lightPreview profile duration)) :=
  exec_decided hs rfl rfl rfl (fun _ => nofun) (by
    change decidePreview profile duration (s.holding 0x30#8 tag) = _
    rw [decidePreview, show (s.holding 0x30#8 tag).previewRefusal profile duration = none from h]
    rfl) rfl rfl

/-- The level a window gives a bank: an enabled healthy bank takes the profile's level or the learned one. -/
theorem windowLevel_eq (p : Profile) (b : LampBank) :
    s.windowLevel profile p b
      = if p.enabled.get b = true ∧ (s.lc.banks.get b).faulted = false then
          (match p.mode with
           | .fixed => p.levels.get b
           | .heldLux => max 1 ((learnedAt s.lc.learned profile).get b))
        else 0 := by
  simp only [State.windowLevel, State.usable, Bool.and_eq_true, Bool.not_eq_true'] <;> rfl

/-- The banks of a window. -/
theorem openWindow_bank (k : WindowKind) (b : LampBank) :
    ((s.openWindow k profile).lc.banks.get b).level = s.windowLevel profile (profileAt s.set.profiles profile) b
    ∧ ((s.openWindow k profile).lc.banks.get b).lit
        = decide (1 ≤ s.windowLevel profile (profileAt s.set.profiles profile) b) := by
  simp [State.openWindow]

/-- Settles O39, by the tests and by the preview's state. -/
theorem previewsLightAndEnd : Obligations.PreviewsLightAndEnd := by
  refine ⟨fun tag profile duration s hs => ⟨fun hv => ?notMounted, fun hv h => ?profile, fun hv hp h => ?state,
      fun hv hp hrun hset h => ?busy, fun p hp hv hprofile hrun hset hticket hpreview hsync husable hdark hdose => ?lit⟩,
    fun tag s hs => ⟨fun h => ?absent, fun h => ?ends⟩⟩
  case notMounted => exact exec_preview_refused hs (by simp [State.previewRefusal, State.mounted, hv])
  case profile => exact exec_preview_refused hs (by simp [State.previewRefusal, State.mounted, hv, h])
  case state =>
    refine exec_preview_refused hs ((previewRefusal_mounted hv hp).trans (if_pos ?_))
    rcases h with h | h <;> simp [h]
  case busy =>
    refine exec_preview_refused hs ((previewRefusal_mounted hv hp).trans ((if_neg (by simp [hrun, hset])).trans (if_pos ?_)))
    rcases h with h | h <;> simp [h]
  case lit =>
    subst hp
    have hadmitted : s.previewRefusal profile duration = none := by
      rw [previewRefusal_mounted hv hprofile]
      simpa [hrun, hset, hticket, hpreview, hsync, husable, hdark, previewSeconds, clampTo] using hdose
    refine ⟨_, exec_preview_lit hs hadmitted, fun b => ?bank, ?window, ?record, ?frame, fun hsend => ?reply⟩
    case bank =>
      obtain ⟨hlevel, hlit⟩ := openWindow_bank (s := s) (profile := profile) .preview b
      rw [answered_lc]
      refine ⟨hlevel.trans ?_, hlit.trans (by rw [← hlevel]; rfl)⟩
      exact (windowLevel_eq _ b).trans rfl
    case window => rw [answered_lc]; rfl
    case record => rw [answered_lc]; rfl
    case frame =>
      refine (answered_frame _ _ _ _).trans ?_
      rw [answered_lc]
      rfl
    case reply =>
      refine (answered_sending _ _ _ (s.lightPreview profile duration) hsend).trans ?_
      simp only [replyTo, previewSeconds, clampTo, outside, Bool.decide_or]
      rfl
  case absent =>
    exact exec_unchanged hs rfl rfl rfl (fun _ => nofun)
      ((if_neg (by simp [h])).trans rfl : decidePreviewOff (s.holding 0x31#8 tag) = _)
  case ends =>
    obtain ⟨p, hp⟩ := Option.isSome_iff_exists.mp h
    obtain ⟨learned, hlearned, hended⟩ := endPreview_some (s := s.holding 0x31#8 tag) .off hp
    refine ⟨learned, hlearned, exec_decided hs rfl rfl rfl (fun _ => nofun) ?_ rfl rfl⟩
    exact (if_pos h).trans (by rw [hended]; rfl)

/-! ### A bank's current fault (R65, R66) -/

/-- The record of a bank that a report has put out of service. -/
def BankRec.faultedBy (code : FaultCode) (b : BankRec) : BankRec :=
  { b with lit := false, level := 0, faulted := true, kind := some code }

/-- LC's part with a bank out of service. -/
def State.withBankOut (b : LampBank) (code : FaultCode) (s : State) : State :=
  { s with lc := { s.lc with banks := s.lc.banks.set b ((s.lc.banks.get b).faultedBy code) } }

theorem anyLit_iff : s.anyLit = true ↔ ∃ b, (s.lc.banks.get b).lit = true :=
  PerBank.any_eq_true _

theorem withBankOut_lit {b : LampBank} {code : FaultCode} {c : LampBank} :
    (((s.withBankOut b code).lc.banks.get c).lit = true) ↔ c ≠ b ∧ (s.lc.banks.get c).lit = true := by
  by_cases h : c = b
  · simp [State.withBankOut, BankRec.faultedBy, h]
  · simp [State.withBankOut, PerBank.get_set, h]

section bankFault
variable {b : LampBank} {r : CurrentReport}

theorem bankFault_off (h : s.bankOn b = false) : s.bankFault b r = s := by
  simp [State.bankFault, h]

/-- The fault of a lit bank in its on-share: the bank is out, the fault is reported, the ticket of a capture window is marked,
and with no bank lit the preview ends. -/
theorem bankFault_on (h : s.bankOn b = true) {x : State}
    (hx : x = ((s.withBankOut b (reportCode r)).litTimeEnded true).report (reportCode r) [bankCode b]) :
    s.bankFault b r
      = if State.anyLit (if x.captureWindow then x.onOpenTicket fun t => { t with lampDegraded := true } else x) then
          (if x.captureWindow then x.onOpenTicket fun t => { t with lampDegraded := true } else x)
        else (if x.captureWindow then x.onOpenTicket fun t => { t with lampDegraded := true } else x).endPreview .dark := by
  subst hx
  simp only [State.bankFault, h, if_true]
  rfl

/-- With another bank lit, the window goes on. -/
theorem bankFault_goesOn (h : s.bankOn b = true) (hlit : (s.withBankOut b (reportCode r)).anyLit = true) :
    s.bankFault b r
      = { (s.withBankOut b (reportCode r)).report (reportCode r) [bankCode b] with
          cc := { s.cc with tickets :=
            if s.captureWindow = true then mapOpen (fun k => { k with lampDegraded := true }) s.cc.tickets
            else s.cc.tickets } } := by
  obtain ⟨x, hx⟩ : ∃ x, x = (s.withBankOut b (reportCode r)).report (reportCode r) [bankCode b] := ⟨_, rfl⟩
  have hended : (s.withBankOut b (reportCode r)).litTimeEnded true = s.withBankOut b (reportCode r) := by
    simp [State.litTimeEnded, hlit]
  have hlc : x.lc = (s.withBankOut b (reportCode r)).lc := by rw [hx, report_lc]
  have hcc : x.cc = s.cc := by rw [hx, report_cc]; rfl
  have hwindow : x.captureWindow = s.captureWindow := by rw [State.captureWindow, hlc]; rfl
  rw [bankFault_on h (x := x) (by rw [hended, hx]), ← hx, hwindow]
  cases s.captureWindow with
  | true =>
    simp only [if_true]
    rw [if_pos]
    · simp [State.onOpenTicket, hcc]
    · simpa [State.anyLit, State.onOpenTicket, hlc] using hlit
  | false =>
    simp only [Bool.false_eq_true, if_false]
    rw [if_pos]
    · rw [← hcc]
    · simpa [State.anyLit, hlc] using hlit

/-- The fault of the last lit bank of a preview ends the preview with DARK (R72). -/
theorem bankFault_ends {p : Preview} (h : s.bankOn b = true) (hlit : (s.withBankOut b (reportCode r)).anyLit = false)
    (hp : s.lc.preview = some p) (hw : (s.lc.window.map Window.kind) = some .preview) :
    s.bankFault b r
      = { (s.withBankOut b (reportCode r)).report (reportCode r) [bankCode b] with
          lc := { (s.withBankOut b (reportCode r)).lc with
            banks := (s.withBankOut b (reportCode r)).lc.banks.map BankRec.dark, window := none, preview := none
            lastEnd := some .dark }
          di := { s.di with satCount := 0, darkCount := 0 } } := by
  obtain ⟨y, hy⟩ : ∃ y, y = (s.withBankOut b (reportCode r)).litTimeEnded true := ⟨_, rfl⟩
  have hended : y = { s.withBankOut b (reportCode r) with di := { s.di with satCount := 0, darkCount := 0 } } := by
    rw [hy, State.litTimeEnded, hlit]
    rfl
  obtain ⟨x, hx⟩ : ∃ x, x = y.report (reportCode r) [bankCode b] := ⟨_, rfl⟩
  have hlc : x.lc = (s.withBankOut b (reportCode r)).lc := by rw [hx, report_lc, hended]
  have hdark : x.anyLit = false := by simpa [State.anyLit, hlc] using hlit
  have hwindow : x.lc.window.map Window.kind = some .preview := by rw [hlc]; exact hw
  have hnot : x.captureWindow = false := by
    unfold State.captureWindow
    cases hxw : x.lc.window with
    | none => rfl
    | some w =>
      rw [hxw] at hwindow
      simp only [Option.map_some, Option.some.injEq] at hwindow
      simp [hwindow]
  have hfault : s.bankFault b r = x.endPreview .dark := by
    rw [bankFault_on h (hx.trans (by rw [hy])), hnot]
    exact (if_neg (by simpa using hdark)).trans rfl
  have hreport : x = { (s.withBankOut b (reportCode r)).report (reportCode r) [bankCode b] with di := y.di } := by
    obtain ⟨-, -, -, hfb, hlk⟩ := report_alike (s := y) (t := s.withBankOut b (reportCode r))
      (by rw [hended]; exact ⟨rfl, rfl, rfl, rfl, rfl⟩) (reportCode r) [bankCode b]
    rw [hx, report_frame, hfb, hlk, report_frame (s.withBankOut b (reportCode r)), hended]
  rw [hfault, endPreview_lit (by rw [hlc]; exact hp) hwindow, hlc, if_neg (by simpa using hdark), hreport, hended]

end bankFault

/-! ### LAMP CLEAR (R67) -/

/-- Settles O42, by the report and by the target of LAMP CLEAR. -/
theorem banksFaultAndAreCleared : Obligations.BanksFaultAndAreCleared := by
  refine ⟨fun b r s code detail rec hs hcode hdetail hrec => ?report, fun tag s hs => ⟨fun b => ?bank, ?sensor, ?other⟩⟩
  case report =>
    obtain ⟨hp, hqueue, hquiet⟩ := hs
    have hcode : code = reportCode r := hcode.trans (by cases r <;> rfl)
    have hdetail : detail = bankCode b := hdetail.trans (by cases b <;> rfl)
    subst hcode hdetail hrec
    have hbanks : ((s.withBankOut b (reportCode r)).report (reportCode r) [bankCode b]).fb
        = (s.report (reportCode r) [bankCode b]).fb := by
      refine report_banks ⟨?_, ?_, ?_, ?_⟩ _ _ <;> rfl
    refine ⟨fun hoff => ?off, fun b' hon hne hlit => ?on, fun p hon hlast hpreview hwindow => ?last⟩
    case off => exact event_next hp (bankFault_off hoff) hqueue hquiet
    case on =>
      have hstill : (s.withBankOut b (reportCode r)).anyLit = true := anyLit_iff.mpr ⟨b', withBankOut_lit.mpr ⟨hne, hlit⟩⟩
      refine ⟨_, event_next hp (bankFault_goesOn hon hstill) ((report_queue _ _ _).trans hqueue)
        (runQuiet_rc (s := s) (report_rc _ _ _) hquiet), ?_⟩
      rw [kick_lc, kick_fb, kick_cc, kick_di, kick_tc, kick_sau, kick_set, kick_pins]
      exact ⟨report_lc _ _ _, hbanks, rfl, report_di _ _ _, report_tc _ _ _, report_sau _ _ _, report_set _ _ _,
        report_pins _ _ _⟩
    case last =>
      have hdark : (s.withBankOut b (reportCode r)).anyLit = false := by
        rw [Bool.eq_false_iff]
        intro h
        obtain ⟨c, hc⟩ := anyLit_iff.mp h
        obtain ⟨hne, hlit⟩ := withBankOut_lit.mp hc
        exact Bool.false_ne_true ((hlast c hne).symm.trans hlit)
      refine ⟨_, event_next hp (bankFault_ends hon hdark hpreview hwindow) ((report_queue _ _ _).trans hqueue)
        (runQuiet_rc (s := s) (report_rc _ _ _) hquiet), fun c => ?_, ?_⟩
      · simp [BankRec.dark]
      · rw [kick_lc, kick_fb, kick_cc, kick_di, kick_tc, kick_sau, kick_set, kick_pins]
        refine ⟨?faulted, ?kind, rfl, rfl, rfl, rfl, hbanks, rfl, report_cc _ _ _, report_tc _ _ _, report_sau _ _ _,
          report_set _ _ _, report_pins _ _ _⟩ <;>
          simp [State.withBankOut, BankRec.dark, BankRec.faultedBy]
  case bank => exact exec_decided hs rfl rfl rfl (fun _ => nofun) rfl rfl rfl
  case sensor => exact exec_decided hs rfl rfl rfl (fun _ => nofun) rfl rfl rfl
  case other => exact exec_unchanged hs rfl rfl rfl (fun _ => nofun) rfl

/-! ### Regulation (R57, R61) -/

/-- What shapes a bank's frame rests on the clock, the last edge and the sync rate. -/
theorem frameLevel_congr {t : State} (hnow : t.now = s.now) (hset : t.set = s.set) (hedge : t.lc.frameEdge = s.lc.frameEdge)
    (b : BankRec) : t.frameLevel b = s.frameLevel b := by
  have hindex : ∀ n, t.frameIndex n = s.frameIndex n := fun n => by
    simp only [State.frameIndex, State.frameCount, hset, hedge]
  unfold State.frameLevel
  rw [hedge, hindex, hindex, hnow]

/-- The frame in progress keeps its on-share over a step. -/
theorem frameLevel_step {e target : Nat} {b : BankRec} (hedge : s.lc.frameEdge.getD 0 ≤ s.now) :
    s.frameLevel (b.step e target s.now (s.frameLevel b)) = s.frameLevel b := by
  by_cases h : (b.lit && steppedLevel e target b.level != b.level) = true
  · have hstep : b.step e target s.now (s.frameLevel b)
        = { b with level := steppedLevel e target b.level, prevLevel := s.frameLevel b, changedAt := s.now } := if_pos h
    rw [hstep]
    exact if_pos ⟨hedge, rfl⟩
  · rw [show b.step e target s.now (s.frameLevel b) = b from if_neg h]

/-- Settles O43, from what the comparison makes of each bank. -/
theorem regulationStepsLitBanks : Obligations.RegulationStepsLitBanks := by
  intro s w due hs hw hnext hheld hlit hnow
  obtain ⟨hp, hqueue, hquiet⟩ := hs
  have hdue : s.compareDue? = some (due, w) := by simp [State.compareDue?, hw, hnext, hlit, hheld]
  have hdueUs : s.compareDueUs? = some due := by rw [State.compareDueUs?, hdue]; rfl
  have heffect : (s.goTo due).compare = (s.goTo due).compareAt due w := by
    rw [State.compare, show (s.goTo due).compareDue? = s.compareDue? from rfl, hdue]
  refine ⟨_, timer_next hp hdueUs hnow heffect hqueue hquiet, ?now, ?window, fun b => ?bank, ?learned, ?frame⟩
  case now => rw [kick_now]; rfl
  case window => rw [kick_lc]; rfl
  case learned => rw [kick_lc]; rfl
  case frame =>
    refine (kick_frame _).trans ?_
    rw [kick_now, kick_lc]
    rfl
  case bank =>
    have hbank : ((s.goTo due).compareAt due w).lc.banks.get b
        = (s.lc.banks.get b).step s.di.lux w.target (max s.now due) ((s.goTo due).frameLevel (s.lc.banks.get b)) :=
      PerBank.get_map _ _ _
    rw [kick_lc, hbank, step_lit, step_faulted, step_level]
    refine ⟨rfl, rfl, ?level, fun hb hedge => ?keeps⟩
    case level =>
      cases (s.lc.banks.get b).lit <;> rfl
    case keeps =>
      have hstep := frameLevel_step (s := s.goTo due) (e := s.di.lux) (target := w.target) (b := s.lc.banks.get b)
        (by rwa [kick_now] at hedge)
      refine Eq.trans (frameLevel_congr (s := s.goTo due) ?_ ?_ ?_ _) (hstep.trans ?_)
      · rw [kick_now]; rfl
      · rw [kick_set]; rfl
      · rw [kick_lc]; rfl
      · rw [kick_now]; rfl

end Sys2Proof.Machine
end

