-- ==== Sys2Proof/Proofs/Dose.lean ====
section
/-! DI (04): the sensor's readings and what they charge (R75 to R81), the tests of the day dose that a credit meets (R85, R87),
and the dose day (R90 to R93). -/

namespace Sys2Proof.Machine

variable {s : State} {v : Volume} {u : Nat}

/-! ### Credits (R80, R81) -/

/-- The part with units of room light on the day dose and the current opening. -/
theorem chargeDay_eq (u : Nat) (s : State) :
    s.chargeDay u = { s with
      di := { s.di with dayDose := min 4294967295 (s.di.dayDose + u) }
      sau := { s.sau with openings :=
        s.sau.openings.modify s.tc.j fun o => { o with dose := min 4294967295 (o.dose + u) } } } := by
  simp only [State.chargeDay, updateOpening_modify, addDose, satAdd, maxDose]

/-- The part with the units of a lit sample: in a capture window the OPEN ticket has them too. -/
def State.chargeLit (u : Nat) (s : State) : State :=
  (s.chargeDay u).chargeTicket u

theorem chargeLit_eq (u : Nat) (s : State) :
    s.chargeLit u = { s with
      di := { s.di with dayDose := min 4294967295 (s.di.dayDose + u) }
      sau := { s.sau with openings :=
        s.sau.openings.modify s.tc.j fun o => { o with dose := min 4294967295 (o.dose + u) } }
      cc := { s.cc with tickets :=
        if s.captureWindow = true then mapOpen (fun k => { k with dose := min 4294967295 (k.dose + u) }) s.cc.tickets
        else s.cc.tickets } } := by
  have hwindow : (s.chargeDay u).captureWindow = s.captureWindow := rfl
  rw [State.chargeLit, State.chargeTicket, hwindow, chargeDay_eq]
  cases s.captureWindow <;> rfl

theorem creditLit_mounted (hv : s.sau.volume = some v) (hu : u ≠ 0) : s.creditLit u = (s.chargeLit u).testDayDose :=
  if_neg (by simp [hu, State.mounted, hv])

theorem creditAmbient_mounted (hv : s.sau.volume = some v) (hu : u ≠ 0) :
    s.creditAmbient u = (s.chargeDay u).testDayDose :=
  if_neg (by simp [hu, State.mounted, hv])

theorem creditLit_none : s.creditLit 0 = s :=
  if_pos (.inl rfl)

/-! ### The reading of a millisecond (R75, R79) -/

/-- The part with a reading taken that finds no bank lit. -/
def State.read (raw : Nat) (s : State) : State :=
  { s with
    pins := { s.pins with sensorRaw := raw }
    di := { s.di with raw := raw, lux := raw * s.set.k / 64, lastRead := some (s.now / 1000) } }

/-- The part with a lit sample taken, its units still to be credited, and the two counts as given. -/
def State.sampled (raw sat dark : Nat) (s : State) : State :=
  { s with
    pins := { s.pins with sensorRaw := raw }
    di := { s.di with
      raw := raw, lux := raw * s.set.k / 64, lastRead := some (s.now / 1000), satCount := sat, darkCount := dark
      remainder := (s.di.remainder + raw * s.set.k / 64) % 1000 } }

/-- The units of a lit sample (R79). -/
def State.unitsOf (raw : Nat) (s : State) : Nat :=
  (s.di.remainder + raw * s.set.k / 64) / 1000

theorem readSensor_unlit {raw : Nat} (h : s.anyLit = false) : (s.setSensor raw).readSensor = s.read raw := by
  have hlit : (s.setSensor raw).anyLit = false := h
  rw [State.readSensor, hlit]
  rfl

theorem readSensor_lit {raw : Nat} (h : s.anyLit = true) :
    (s.setSensor raw).readSensor = (s.read raw).litSample := by
  have hlit : (s.setSensor raw).anyLit = true := h
  rw [State.readSensor, hlit]
  rfl

/-- A lit sample within the sensor's range: both counts go to 0, and its units are credited. -/
theorem readSensor_inRange {raw : Nat} (h : s.anyLit = true) (h0 : raw ≠ 0) (h1 : raw ≠ 4095) :
    (s.setSensor raw).readSensor = (s.sampled raw 0 0).creditLit (s.unitsOf raw) := by
  rw [readSensor_lit h]
  simp [State.litSample, State.read, nextCount, h0, h1, State.integrate, State.sampled, State.unitsOf]

/-- A report rests on neither DI's part nor the pins. -/
theorem report_withSensor (s : State) (d : Di) (p : Pins) (c : FaultCode) (detail : List Nat) :
    State.report c detail { s with pins := p, di := d } = { s.report c detail with pins := p, di := d } := by
  obtain ⟨-, -, -, hfb, hlk⟩ := report_alike (s := { s with pins := p, di := d }) (t := s) ⟨rfl, rfl, rfl, rfl, rfl⟩ c detail
  rw [report_frame, hfb, hlk, report_frame s]

/-- The tenth saturated sample in a row is reported before its units are credited (R76). -/
theorem readSensor_saturates (h : s.anyLit = true) (hsat : s.di.satCount = 9) :
    (s.setSensor 4095).readSensor
      = State.creditLit (s.unitsOf 4095) { s.report .sensorSaturated [] with
          pins := { s.pins with sensorRaw := 4095 }, di := (s.sampled 4095 10 0).di } := by
  have hreport := report_withSensor s { (s.read 4095).di with satCount := 10, darkCount := 0 }
    { s.pins with sensorRaw := 4095 } .sensorSaturated []
  have hsample : (s.read 4095).litSample = State.integrate (State.report .sensorSaturated []
      { s with pins := { s.pins with sensorRaw := 4095 }
               di := { (s.read 4095).di with satCount := 10, darkCount := 0 } }) := by
    simp [State.litSample, State.read, nextCount, hsat]
  rw [readSensor_lit h, hsample, hreport]
  rfl

/-- The fiftieth dark sample in a row is the sensor's failure (R77). -/
theorem readSensor_darkens (h : s.anyLit = true) (hdark : s.di.darkCount = 49) (hr : s.di.remainder < 1000) :
    (s.setSensor 0).readSensor = (s.sampled 0 0 50).sensorFailed := by
  have hunits : s.di.remainder / 1000 = 0 := by omega
  rw [readSensor_lit h]
  simp [State.litSample, State.read, nextCount, hdark, State.integrate, State.sampled, hunits, creditLit_none]

/-- A reading that the present millisecond has not had yet. -/
theorem sensorReading_first {raw : Nat} (hs : s.starting = false) (h : s.di.lastRead ≠ some (s.now / 1000)) :
    s.sensorReading raw = (s.setSensor raw).readSensor := by
  rw [State.sensorReading, if_neg (by simp [hs])]
  exact if_neg h

/-- A credit of a lit sample below the warning level tests nothing further. -/
theorem creditLit_charges (hv : s.sau.volume = some v)
    (hb : u = 0 ∨ min 4294967295 (s.di.dayDose + u) < v.limits.dayBudget * 7 / 8) :
    s.creditLit u = if u = 0 then s else s.chargeLit u := by
  by_cases hu : u = 0
  · rw [hu, creditLit_none, if_pos rfl]
  · have hlimits : (s.chargeLit u).limits? = some v.limits := by simp [chargeLit_eq, State.limits?, hv]
    have hdose : (s.chargeLit u).di.dayDose = min 4294967295 (s.di.dayDose + u) := by rw [chargeLit_eq]
    rw [if_neg hu, creditLit_mounted hv hu, testDayDose_below hlimits (by rw [hdose]; exact hb.resolve_left hu)]

/-- A credit of room light below the warning level tests nothing further. -/
theorem creditAmbient_charges (hv : s.sau.volume = some v) (hu : u ≠ 0)
    (hb : min 4294967295 (s.di.dayDose + u) < v.limits.dayBudget * 7 / 8) : s.creditAmbient u = s.chargeDay u := by
  have hlimits : (s.chargeDay u).limits? = some v.limits := by simp [chargeDay_eq, State.limits?, hv]
  have hdose : (s.chargeDay u).di.dayDose = min 4294967295 (s.di.dayDose + u) := by rw [chargeDay_eq]
  rw [creditAmbient_mounted hv hu, testDayDose_below hlimits (by rw [hdose]; exact hb)]

/-! ### The failure of the sensor (R77) -/

/-- The part with the sensor-dark block standing after the fiftieth dark sample. -/
def State.blocked50 (s : State) : State :=
  { s.sampled 0 0 50 with di := { (s.sampled 0 0 50).di with sensorDark := true } }

theorem sensorFailed_eq (s : State) :
    (s.sampled 0 0 50).sensorFailed = (s.blocked50.cutLight .sensorCut).report .sensorDark [] :=
  rfl

/-- With no capture in progress a cut of the lamps leaves CC, and sets both counts to 0. -/
theorem cutLight_atRest (r : SideResult) (hlit : s.anyLit = true) (hi : s.cc.state = .idle) :
    (s.cutLight r).cc = s.cc ∧ (s.cutLight r).di.satCount = 0 ∧ (s.cutLight r).di.darkCount = 0 := by
  rw [cutLight_idle r hi]
  refine ⟨by simp, ?_⟩
  cases hp : s.lc.preview with
  | none =>
    rw [endPreview_none hp, banksDark_eq, if_pos hlit]
    exact ⟨rfl, rfl⟩
  | some p =>
    obtain ⟨learned, -, hended⟩ := endPreview_some .cut hp
    rw [if_pos hlit] at hended
    rw [banksDark_eq]
    split <;> simp [hended]

/-- Settles O44, by the reading and by what the counts bring. -/
theorem sensorReadingsAreTaken : Obligations.SensorReadingsAreTaken := by
  refine ⟨fun s raw hs hstarted hread => ⟨fun hlit => ?unlit, fun v u hlit h0 h1 hv hu hb => ?lit⟩,
    fun s hs hstarted hread hlit => ⟨fun v hsat hv hb => ?saturated, fun hdark hr hrun hover hdwell => ?dark⟩⟩
  case unlit =>
    obtain ⟨hp, hqueue, hquiet⟩ := hs
    exact pinEvent_next hp ((sensorReading_first hstarted hread).trans (readSensor_unlit hlit)) hqueue hquiet
  case lit =>
    obtain ⟨hp, hqueue, hquiet⟩ := hs
    have hu : u = s.unitsOf raw := hu
    have hcredit := creditLit_charges (s := s.sampled raw 0 0) (u := u) hv hb
    have heffect := (sensorReading_first hstarted hread).trans (readSensor_inRange hlit h0 h1)
    rw [← hu, hcredit] at heffect
    by_cases hzero : u = 0
    · rw [if_pos hzero] at heffect
      refine ⟨_, pinEvent_next hp heffect hqueue hquiet, by rw [kick_di, if_pos hzero]; rfl,
        by rw [kick_sau, if_pos hzero]; rfl, by rw [kick_cc, if_pos (.inl hzero)]; rfl, ?_⟩
      refine (kick_frame _).trans ?_
      rw [kick_di, kick_sau, kick_cc]
      rfl
    · rw [if_neg hzero, chargeLit_eq] at heffect
      refine ⟨_, pinEvent_next hp heffect hqueue hquiet, by rw [kick_di, if_neg hzero]; rfl,
        by rw [kick_sau, if_neg hzero]; rfl, ?_, ?_⟩
      · rw [kick_cc]
        refine congrArg (fun tickets => { s.cc with tickets := tickets }) ?_
        cases hw : s.captureWindow with
        | false =>
          exact (if_neg fun h => Bool.false_ne_true (hw.symm.trans h)).trans (if_pos (.inr rfl)).symm
        | true => exact (if_pos hw).trans (if_neg (by simp [hzero])).symm
      · refine (kick_frame _).trans ?_
        rw [kick_di, kick_sau, kick_cc]
        rfl
  case saturated =>
    obtain ⟨hp, hqueue, hquiet⟩ := hs
    have heffect : s.tenthSaturated = _ :=
      (if_pos ⟨hlit, hsat⟩).trans ((sensorReading_first hstarted hread).trans (readSensor_saturates hlit hsat))
    obtain ⟨x, hx⟩ : ∃ x, x = { s.report .sensorSaturated [] with
      pins := { s.pins with sensorRaw := 4095 }, di := (s.sampled 4095 10 0).di } := ⟨_, rfl⟩
    have hxv : x.sau.volume = some v := by rw [hx]; simpa using hv
    have hcredit := creditLit_charges (s := x) (u := s.unitsOf 4095) hxv (by
      refine .inr (Nat.lt_of_le_of_lt (Nat.min_le_right _ _) ?_)
      rw [hx]
      exact hb)
    rw [← hx, hcredit] at heffect
    obtain ⟨t, ht, htdi, htfields⟩ : ∃ t, s.tenthSaturated = t ∧ t.di.satCount = 10
        ∧ t = { x with di := t.di, sau := t.sau, cc := t.cc } := by
      refine ⟨_, heffect, ?_⟩
      split
      · exact ⟨by rw [hx]; rfl, rfl⟩
      · rw [chargeLit_eq]
        exact ⟨by rw [hx]; rfl, rfl⟩
    refine ⟨_, event_next hp ht (by rw [htfields, hx]; exact (report_queue _ _ _).trans hqueue)
      (runQuiet_rc (s := s) (by rw [htfields, hx]; exact report_rc _ _ _) hquiet), ?_⟩
    rw [kick_di, kick_fb, kick_lc, kick_tc, kick_set, kick_pins, htfields, hx]
    exact ⟨htdi, rfl, report_lc _ _ _, report_tc _ _ _, report_set _ _ _, rfl⟩
  case dark =>
    obtain ⟨hp, hqueue, -⟩ := hs
    obtain ⟨y, hy⟩ : ∃ y, y = s.blocked50 := ⟨_, rfl⟩
    have hfailed := (sensorReading_first hstarted hread).trans
      ((readSensor_darkens hlit hdark hr).trans (sensorFailed_eq s))
    rw [← hy] at hfailed
    have heffect : s.fiftiethDark = _ := (if_pos ⟨hlit, hdark⟩).trans hfailed
    obtain ⟨⟨hnow, hset, hsau, htc, hfb, hpins, hq, -, hrc, hdi⟩, hcutDark, hpreview, hend⟩ :=
      cutLight_leaves (s := y) (by rw [hy]; exact hover) (by rw [hy]; exact hdwell) .sensorCut
    obtain ⟨z, hz⟩ : ∃ z, z = y.cutLight .sensorCut := ⟨_, rfl⟩
    rw [← hz] at heffect hnow hset hsau htc hfb hpins hq hrc hdi hcutDark hpreview hend
    obtain ⟨r, -, hexec⟩ := event_records hp heffect (by rw [report_queue, hq, hy]; exact hqueue)
      (by rw [State.runActive, report_rc, hrc, hy]; exact hrun)
    have hyfields : y.lc = s.lc ∧ y.cc = s.cc ∧ y.now = s.now ∧ y.set = s.set ∧ y.sau = s.sau ∧ y.fb = s.fb
        ∧ y.tc = s.tc ∧ y.di.sensorDark = true ∧ y.di.dayDose = s.di.dayDose
        ∧ y.pins = { s.pins with sensorRaw := 0 } := by rw [hy]; exact ⟨rfl, rfl, rfl, rfl, rfl, rfl, rfl, rfl, rfl, rfl⟩
    obtain ⟨hylc, hycc, hynow, hyset, hysau, hyfb, hytc, hyblock, hydose, hypins⟩ := hyfields
    refine ⟨_, hexec, ?block, fun b => ?bank, ?preview, ?ended, ?report, ?dose, ?tc, ?set, ?sau, ?pins, ?now,
      fun hi => ?rest, fun pre k k' hnone ht hk hk' => ?cut⟩
    case block => rw [kick_di]; exact (congrArg Di.sensorDark ((report_di _ _ _).trans hdi)).trans hyblock
    case bank => rw [kick_lc]; exact report_dark hcutDark b
    case preview => rw [kick_lc]; exact (congrArg Lc.preview (report_lc _ _ _)).trans hpreview
    case ended => rw [kick_lc]; exact (congrArg Lc.lastEnd (report_lc _ _ _)).trans (hend.trans (by rw [hylc]))
    case report =>
      rw [kick_fb]
      exact report_banks ⟨hnow.trans hynow, hset.trans hyset, congrArg Sau.volume (hsau.trans hysau), hfb.trans hyfb⟩ _ _
    case dose => rw [kick_di]; exact (congrArg Di.dayDose ((report_di _ _ _).trans hdi)).trans hydose
    case tc => rw [kick_tc]; exact (report_tc _ _ _).trans (htc.trans hytc)
    case set => rw [kick_set]; exact (report_set _ _ _).trans (hset.trans hyset)
    case sau => rw [kick_sau]; exact (report_sau _ _ _).trans (hsau.trans hysau)
    case pins => rw [kick_pins]; exact (report_pins _ _ _).trans (hpins.trans hypins)
    case now => rw [kick_now]; exact (report_now _ _ _).trans (hnow.trans hynow)
    case rest =>
      obtain ⟨hcc, hsat, hdarkCount⟩ := cutLight_atRest (s := y) .sensorCut (by rw [State.anyLit, hylc]; exact hlit)
        (by rw [hycc]; exact hi)
      rw [← hz] at hcc hsat hdarkCount
      rw [kick_cc, kick_di]
      exact ⟨(report_cc _ _ _).trans (hcc.trans hycc), (congrArg Di.satCount (report_di _ _ _)).trans hsat,
        (congrArg Di.darkCount (report_di _ _ _)).trans hdarkCount⟩
    case cut =>
      have ht' : y.cc.tickets = pre ++ [k] := by rw [hycc]; exact ht
      have hcc : (z.report .sensorDark []).cc = (y.cutLight .sensorCut).cc := (report_cc _ _ _).trans (by rw [hz])
      rw [kick_cc, hk']
      refine ⟨fun hc => ?opening, fun hc => ?exposing⟩
      case opening =>
        obtain ⟨hidle, hlast⟩ := cutLight_opening .sensorCut ht' hk (by rw [hycc]; exact hc) (by rw [hytc]; exact hover)
          (by rw [hytc]; exact hdwell)
        exact ⟨(congrArg Cc.state hcc).trans hidle,
          (congrArg (fun c => c.tickets.getLast?) hcc).trans (hlast.trans (by rw [hynow]; rfl))⟩
      case exposing =>
        obtain ⟨hexpose, hlast⟩ := cutLight_exposing .sensorCut ht' hk (by rw [hycc]; exact hc)
        exact ⟨(congrArg Cc.state hcc).trans hexpose, (congrArg (fun c => c.tickets.getLast?) hcc).trans hlast⟩

/-! ### Room light (R81) -/

/-- The part with the present second charged, its units still to be credited. -/
def State.accounted (s : State) : State :=
  { s with di := { s.di with lastAmbient := some (s.now / 1000 / 1000) } }

section ambient
variable (hread : s.di.lastRead = some (s.now / 1000)) (hsecond : s.now / 1000 % 1000 = 0)
  (hcharged : s.di.lastAmbient ≠ some (s.now / 1000 / 1000))
include hsecond hcharged

theorem secondDue_uncharged : s.secondDue = true := by
  simp [State.secondDue, State.clock, hsecond, hcharged]

include hread

/-- A whole second whose reading has been made is charged by DI's own work. -/
theorem milli_accrues : s.milli = s.accrue := by
  have honce : s.readOnce = s := if_pos (by simp [State.clock, hread])
  rw [State.milli, honce]
  exact if_pos (secondDue_uncharged hsecond hcharged)

theorem ambientTick_accrues : s.ambientTick = s.accrue :=
  (if_pos (secondDue_uncharged hsecond hcharged)).trans (milli_accrues hread hsecond hcharged)

end ambient

theorem accrue_free (h : s.sau.volume = none ∨ ∃ v, s.sau.volume = some v ∧ v.limits.ambient = false) :
    s.accrue = s.accounted := by
  rcases h with h | ⟨v, h, ha⟩
  · simp only [State.accrue, State.limits?, h]
    rfl
  · simp [State.accrue, State.limits?, h, ha, State.accounted, State.clock]

theorem accrue_credits (hv : s.sau.volume = some v) (ha : v.limits.ambient = true) (hlit : s.anyLit = false) :
    s.accrue = s.accounted.creditAmbient s.di.lux := by
  simp [State.accrue, State.limits?, hv, ha, hlit, State.accounted, State.clock]

/-! ### What a credit that reaches a level brings (R85, R87) -/

/-- The part with a credit made and the tests still to come. -/
def credited (u dose : Nat) (s y : State) : Prop :=
  y.sau = { s.sau with openings := s.sau.openings.modify s.tc.j fun o => { o with dose := min 4294967295 (o.dose + u) } }
  ∧ y.di.dayDose = dose ∧ y.di.warned = s.di.warned ∧ y.di.exhausted = s.di.exhausted
  ∧ y.lc = s.lc ∧ y.fb = s.fb ∧ y.tc = s.tc ∧ y.set = s.set ∧ y.now = s.now ∧ y.lk = s.lk ∧ y.rc = s.rc
  ∧ y.cc.state = s.cc.state ∧ (s.captureWindow = false → y.cc = s.cc)

/-- The two commands that credit: a charged second, and a lit sample, whose units the OPEN ticket of a capture window has
too. -/
theorem exec_credits {i : Instr} {dose : Nat} (hp : s.powered = true) (hv : s.sau.volume = some v)
    (hstarted : s.starting = false)
    (hi : (i = .ambientAccrual ∧ u = s.di.lux ∧ s.di.lastRead = some (s.now / 1000) ∧ (s.now / 1000) % 1000 = 0
          ∧ s.di.lastAmbient ≠ some (s.now / 1000 / 1000) ∧ s.anyLit = false ∧ v.limits.ambient = true)
        ∨ ∃ raw, i = .sensorReading raw ∧ raw ≠ 0 ∧ raw ≠ 4095 ∧ u = (s.di.remainder + raw * s.set.k / 64) / 1000
          ∧ s.anyLit = true ∧ s.di.lastRead ≠ some (s.now / 1000))
    (hu : u ≠ 0) (hdose : dose = min 4294967295 (s.di.dayDose + u)) :
    ∃ y, exec i s = .next y.testDayDose.settle ∧ credited u dose s y
      ∧ ∀ raw, i = .sensorReading raw → s.captureWindow = true →
          y.cc = { s.cc with tickets := mapOpen (fun k => { k with dose := min 4294967295 (k.dose + u) }) s.cc.tickets } := by
  rcases hi with ⟨rfl, hlux, hread, hsecond, hcharged, hlit, hambient⟩ | ⟨raw, rfl, h0, h1, hunits, hlit, hread⟩
  · have heffect : s.ambientTick = (s.accounted.chargeDay u).testDayDose := by
      rw [ambientTick_accrues hread hsecond hcharged, accrue_credits hv hambient hlit, ← hlux]
      exact creditAmbient_mounted (s := s.accounted) hv hu
    refine ⟨s.accounted.chargeDay u, ?exec, ?credited, nofun⟩
    case exec => exact congrArg Host.Outcome.next ((if_pos hp).trans (congrArg State.settle heffect))
    case credited =>
      rw [chargeDay_eq]
      exact ⟨rfl, hdose.symm, rfl, rfl, rfl, rfl, rfl, rfl, rfl, rfl, rfl, rfl, fun _ => rfl⟩
  · have hunits : u = s.unitsOf raw := hunits
    have heffect : s.sensorReading raw = ((s.sampled raw 0 0).chargeLit u).testDayDose := by
      rw [sensorReading_first hstarted hread, readSensor_inRange hlit h0 h1, ← hunits]
      exact creditLit_mounted (s := s.sampled raw 0 0) hv hu
    refine ⟨(s.sampled raw 0 0).chargeLit u, ?execLit, ?creditedLit, fun _ _ hw => ?ticket⟩
    case execLit => exact congrArg Host.Outcome.next ((if_pos hp).trans (congrArg State.settle heffect))
    case creditedLit =>
      rw [chargeLit_eq]
      refine ⟨rfl, hdose.symm, rfl, rfl, rfl, rfl, rfl, rfl, rfl, rfl, rfl, rfl, fun hw => ?_⟩
      refine congrArg (fun tickets => { s.cc with tickets := tickets }) ?_
      exact if_neg fun h => Bool.false_ne_true (hw.symm.trans h)
    case ticket =>
      rw [chargeLit_eq]
      refine congrArg (fun tickets => { s.cc with tickets := tickets }) ?_
      exact if_pos hw

/-- From the warning level on, below the budget: the flag and the notice. -/
theorem testDayDose_warned {c : ClassRec} (hc : s.limits? = some c) (hw : s.di.warned = false)
    (h : warningLevel c.dayBudget ≤ s.di.dayDose) (hb : s.di.dayDose < c.dayBudget) :
    s.testDayDose = { s with di := { s.di with warned := true } }.doseNotice .warning := by
  rw [State.testDayDose, hc]
  change (s.testWarning c).testBudget c = _
  rw [testWarning_warns h hw]
  exact testBudget_below (by simpa [State.doseNotice] using hb)

/-- A reason is among those of the DOSE notice it joins. -/
theorem doseNotice_tells (r : DoseReason) (hm : s.set.noticeMask.getLsbD 6 = true) :
    (s.doseNotice r).lk.pendingSet.getLsbD 6 = true ∧ r ∈ (s.doseNotice r).lk.gathered.dose := by
  refine ⟨notifyWith_pends (k := .dose) hm, ?_⟩
  rw [State.doseNotice, notifyWith_unmasked (k := .dose) hm]
  simp only [insertNew]
  split <;> simp_all

/-- Settles O45, by the kind of the credit and the level it reaches. -/
theorem ambientLightIsCharged : Obligations.AmbientLightIsCharged := by
  refine ⟨fun s hs hread hsecond hcharged hlit => ⟨fun hfree => ?free, fun v hv ha hlux hb => ?charged,
      fun v raw hstarted hv ha hlux hb => ?reading⟩,
    fun s v i u dose hs hv hstarted hi hu hdose => ⟨fun hwarn hbelow hwarned => ?warns,
      fun hbudget hexhausted hrun hover hdwell => ?exhausts⟩⟩
  case free =>
    obtain ⟨hp, hqueue, hquiet⟩ := hs
    exact event_next hp ((ambientTick_accrues hread hsecond hcharged).trans (accrue_free hfree)) hqueue hquiet
  case charged =>
    obtain ⟨hp, hqueue, hquiet⟩ := hs
    have heffect : s.ambientTick = s.accounted.chargeDay s.di.lux :=
      (ambientTick_accrues hread hsecond hcharged).trans ((accrue_credits hv ha hlit).trans
        (creditAmbient_charges (s := s.accounted) hv hlux hb))
    rw [chargeDay_eq] at heffect
    refine ⟨_, event_next hp heffect hqueue hquiet, by rw [kick_di]; rfl, by rw [kick_sau]; rfl, ?_⟩
    refine (kick_frame _).trans ?_
    rw [kick_di, kick_sau]
    rfl
  case reading =>
    obtain ⟨hp, hqueue, hquiet⟩ := hs
    have haccrue : s.milli = s.accounted.chargeDay s.di.lux :=
      (milli_accrues hread hsecond hcharged).trans ((accrue_credits hv ha hlit).trans
        (creditAmbient_charges (s := s.accounted) hv hlux hb))
    obtain ⟨x, hx⟩ : ∃ x, x = s.accounted.chargeDay s.di.lux := ⟨_, rfl⟩
    have hxeq := hx.trans (chargeDay_eq _ _)
    have hxnow : x.now = s.now := by rw [hxeq]; rfl
    have hsettled : s.milli.settle = x.kick := by
      rw [haccrue, ← hx]
      exact settle_quiet (by rw [hxeq]; exact hqueue) (runQuiet_rc (s := s) (by rw [hxeq]; rfl) hquiet)
    have hunlit : (x.kick.goTo (atMs (s.clock + 1))).anyLit = false := by
      rw [State.anyLit, goTo_lc, kick_lc, hxeq]
      exact hlit
    have heffect : s.sensorReading raw = (x.kick.goTo (atMs (s.clock + 1))).read raw := by
      rw [State.sensorReading, if_neg (by simp [hstarted]), hsettled]
      exact (if_pos hread).trans (readSensor_unlit hunlit)
    have hnow : max s.now ((s.now / 1000 + 1) * 1000) = (s.now / 1000 + 1) * 1000 := by omega
    have hclock : (s.now / 1000 + 1) * 1000 / 1000 = s.now / 1000 + 1 := by omega
    have hgone : x.kick.goTo (atMs (s.clock + 1)) = { x.kick with now := (s.now / 1000 + 1) * 1000 } := by
      rw [State.goTo, kick_now, hxnow]
      exact congrArg (fun n => { x.kick with now := n }) hnow
    obtain ⟨w, hw⟩ : ∃ w, w = (x.kick.goTo (atMs (s.clock + 1))).read raw := ⟨_, rfl⟩
    have hwlk : w.lk = x.kick.lk := by rw [hw]; rfl
    have hwframe : w = { s with
        now := (s.now / 1000 + 1) * 1000, pins := { s.pins with sensorRaw := raw }, lk := w.lk
        di := { s.di with
          lastAmbient := some (s.now / 1000 / 1000), dayDose := min 4294967295 (s.di.dayDose + s.di.lux)
          raw := raw, lux := raw * s.set.k / 64, lastRead := some (s.now / 1000 + 1) }
        sau := { s.sau with openings :=
          s.sau.openings.modify s.tc.j fun o => { o with dose := min 4294967295 (o.dose + s.di.lux) } } } := by
      rw [hwlk, hw, hgone, show x.kick = { x with lk := x.kick.lk } from kick_frame x, State.read]
      dsimp only
      rw [hclock, hxeq]
      rfl
    refine ⟨_, pinEvent_next hp (heffect.trans hw.symm) (by rw [hwlk, kick_queue, hxeq]; exact hqueue)
      (runQuiet_rc (s := s) (by rw [hwframe]) hquiet), by rw [kick_now, hwframe], by rw [kick_di, hwframe],
      by rw [kick_sau, hwframe], ?frame⟩
    refine (kick_frame _).trans ?_
    rw [kick_now, kick_di, kick_sau, hwframe]
  case warns =>
    obtain ⟨hp, hqueue, hquiet⟩ := hs
    obtain ⟨y, hexec, ⟨hsau, hday, hyw, hye, hlc, hfb, htc, hset, hnow, hlk, hrc, -, -⟩, -⟩ :=
      exec_credits hp hv hstarted hi hu hdose
    have hlimits : y.limits? = some v.limits := by simp [State.limits?, hsau, hv]
    have htest := testDayDose_warned hlimits (hyw.trans hwarned) (by rw [hday]; exact hwarn) (by rw [hday]; exact hbelow)
    have hframe := htest.trans (notifyWith_frame _ _ _)
    have htells := doseNotice_tells (s := { y with di := { y.di with warned := true } }) .warning
    rw [← htest] at htells
    have hnotices : onlyNotices y.lk y.testDayDose.lk := by
      rw [htest]
      exact notifyWith_lk _ _ _
    have hsettle : y.testDayDose.settle = y.testDayDose.kick :=
      settle_quiet (by rw [hnotices, hlk]; exact hqueue) (runQuiet_rc (s := s) (by rw [hframe]; exact hrc) hquiet)
    refine ⟨_, hexec.trans (congrArg _ hsettle), ?_⟩
    rw [kick_di, kick_lc, kick_fb, kick_tc, kick_set, kick_sau]
    refine ⟨by rw [hframe]; exact hday, by rw [hframe], by rw [hframe]; exact hye, by rw [hframe]; exact hlc,
      by rw [hframe]; exact hfb, by rw [hframe]; exact htc, by rw [hframe]; exact hset, by rw [hframe]; exact hsau,
      fun hm hb => ?_⟩
    rw [kick_busy (by rw [hnotices, hlk]; exact hb)]
    exact htells (by rw [← hset] at hm; exact hm)
  case exhausts =>
    obtain ⟨hp, hqueue, -⟩ := hs
    obtain ⟨y, hexec, ⟨hsau, hday, hyw, hye, hlc, hfb, htc, hset, hnow, hlk, hrc, hccState, hcc⟩, hticket⟩ :=
      exec_credits hp hv hstarted hi hu hdose
    have hlimits : y.limits? = some v.limits := by simp [State.limits?, hsau, hv]
    obtain ⟨z, hzcc, hztc, hzlc, hznow, htcc, -, hdark, hpreview, hlast, htfb, httc, htset, htsau, -, htnow, htq, htsend,
      htrun, htdi, htold⟩ := testDayDose_spent hlimits (by rw [hday]; exact hbudget) (hye.trans hexhausted)
        (by rw [htc]; exact hover) (by rw [htc]; exact hdwell)
    obtain ⟨r, hsettle, -⟩ := settle_resting (s := y.testDayDose) (by rw [htq, hlk]; exact hqueue)
      (by rw [State.runActive, htrun, hrc]; exact hrun)
    refine ⟨_, hexec.trans (congrArg _ hsettle), ?exhausted, ?warned, fun b => ?bank, ?dose, ?preview, ?ended, ?report, ?tc,
      ?set, ?now, ?sau, fun hm hb => ?told, fun hidle hwindow => ?rest, fun raw pre k k' hraw hnone hwindow ht hk hk' => ?cut⟩
    case exhausted => rw [kick_di]; exact (congrArg Di.exhausted htdi).trans rfl
    case warned => rw [kick_di]; exact (congrArg Di.warned htdi).trans rfl
    case bank => rw [kick_lc]; exact hdark b
    case dose => rw [kick_di]; exact (congrArg Di.dayDose htdi).trans hday
    case preview => rw [kick_lc]; exact hpreview
    case ended => rw [kick_lc]; exact hlast.trans (by rw [hlc])
    case report =>
      rw [kick_fb]
      refine htfb.trans ?_
      rw [hday]
      have hvolume : y.sau.volume = s.sau.volume := by rw [hsau]
      exact report_banks ⟨hnow, hset, hvolume, hfb⟩ _ _
    case tc => rw [kick_tc]; exact httc.trans htc
    case set => rw [kick_set]; exact htset.trans hset
    case now => rw [kick_now]; exact htnow.trans hnow
    case sau => rw [kick_sau]; exact htsau.trans hsau
    case told =>
      rw [kick_busy (s := { y.testDayDose with rc := r }) ((congrArg Option.isSome (htsend.trans (by rw [hlk]))).trans hb)]
      exact htold (by rw [hset]; exact hm)
    case rest =>
      rw [kick_cc]
      refine htcc.trans ?_
      rw [cutLight_idle _ (by rw [hzcc, hccState]; exact hidle), banksDark_cc, endPreview_cc, hzcc, hcc hwindow]
    case cut =>
      have hzt : z.cc.tickets = mapOpen (fun k => { k with dose := min 4294967295 (k.dose + u) }) pre
          ++ [{ k with dose := min 4294967295 (k.dose + u) }] := by
        rw [hzcc, hticket raw hraw hwindow]
        exact (congrArg (mapOpen _) ht).trans (mapOpen_newest hk)
      have hzstate : z.cc.state = s.cc.state := by rw [hzcc, hccState]
      rw [kick_cc, hk']
      refine ⟨fun hc => ?opening, fun hc => ?exposing⟩
      case opening =>
        obtain ⟨hidle, hlast⟩ := cutLight_opening .doseCut hzt hk (by rw [hzstate]; exact hc)
          (by rw [hztc, htc]; exact hover) (by rw [hztc, htc]; exact hdwell)
        exact ⟨(congrArg Cc.state htcc).trans hidle,
          (congrArg (fun c => c.tickets.getLast?) htcc).trans (hlast.trans (by rw [hznow, hnow]; rfl))⟩
      case exposing =>
        obtain ⟨hexpose, hlast⟩ := cutLight_exposing .doseCut hzt hk (by rw [hzstate]; exact hc)
        exact ⟨(congrArg Cc.state htcc).trans hexpose, (congrArg (fun c => c.tickets.getLast?) htcc).trans hlast⟩

/-! ### The dose day (R90 to R93) -/

/-- The part with a new day's doses, its DOSE notice still to come. -/
def State.dosesCleared (s : State) : State :=
  if s.mounted then
    { s with
      di := { s.di with carry := [], dayDose := 0, carriedIn := 0, exhausted := false, warned := false }
      sau := { s.sau with openings := s.sau.openings.map fun o => { o with dose := 0 } } }
  else { s with di := { s.di with carry := [] } }

theorem rollover_eq (s : State) : s.rollover = s.dosesCleared.doseNotice .rollover := by
  unfold State.rollover State.dosesCleared
  cases s.mounted <;> rfl

/-- What a new day leaves, from the state with the day's start and alarm set. -/
def dayBegun (s t : State) : Prop :=
  t.now = s.now ∧ t.di.dayStart = s.di.dayStart ∧ t.di.alarm = s.di.alarm ∧ t.di.carry = []
  ∧ (s.sau.volume.isSome = true → t.di.dayDose = 0 ∧ t.di.carriedIn = 0 ∧ t.di.exhausted = false
      ∧ t.di.warned = false ∧ t.sau = { s.sau with openings := s.sau.openings.map fun o => { o with dose := 0 } })
  ∧ (s.sau.volume = none → t.sau = s.sau)
  ∧ t.di.remainder = s.di.remainder ∧ t.di.sensorDark = s.di.sensorDark
  ∧ t.lc = s.lc ∧ t.tc = s.tc ∧ t.cc = s.cc ∧ t.set = s.set ∧ t.fb = s.fb ∧ t.rc = s.rc

theorem dosesCleared_begins (s : State) : dayBegun s s.dosesCleared ∧ s.dosesCleared.lk = s.lk := by
  unfold State.dosesCleared
  cases hv : s.sau.volume with
  | none => simp [dayBegun, State.mounted, hv]
  | some v => simp [dayBegun, State.mounted, hv]

theorem rollover_begins (s : State) : dayBegun s s.rollover := by
  obtain ⟨hbegun, -⟩ := dosesCleared_begins s
  rw [rollover_eq, State.doseNotice, notifyWith_frame]
  exact hbegun

theorem rollover_lk (s : State) : onlyNotices s.lk s.rollover.lk := by
  obtain ⟨-, hlk⟩ := dosesCleared_begins s
  rw [rollover_eq, ← hlk]
  exact notifyWith_lk _ _ _

theorem rollover_tells (hm : s.set.noticeMask.getLsbD 6 = true) :
    s.rollover.lk.pendingSet.getLsbD 6 = true ∧ .rollover ∈ s.rollover.lk.gathered.dose := by
  obtain ⟨⟨-, -, -, -, -, -, -, -, -, -, -, hset, -⟩, -⟩ := dosesCleared_begins s
  rw [rollover_eq]
  exact doseNotice_tells _ (by rw [hset]; exact hm)

/-- A new day goes on under a request in hand. -/
theorem rollover_holding (k tag : Byte) (s : State) : (s.holding k tag).rollover = s.rollover.holding k tag := by
  have hcleared : (s.holding k tag).dosesCleared = s.dosesCleared.holding k tag := by
    unfold State.dosesCleared
    rw [show (s.holding k tag).mounted = s.mounted from rfl]
    cases s.mounted <;> rfl
  rw [rollover_eq, rollover_eq, hcleared]
  unfold State.doseNotice State.notifyWith
  rw [holding_set]
  cases s.dosesCleared.set.noticeMask.getLsbD NoticeKind.dose.bit <;> rfl

/-- Settles O46, by the alarm and by DAY MARK. -/
theorem rolloversStartANewDay : Obligations.RolloversStartANewDay := by
  refine ⟨fun s hs halarm => ?alarm, fun tag length hours s hs hhours => ?mark⟩
  case alarm =>
    obtain ⟨hp, hqueue, hquiet⟩ := hs
    have hreached : atMs s.di.alarm ≤ s.now := atMs_le_of_le_clock halarm
    obtain ⟨x, hx⟩ : ∃ x, x = { s with di := { s.di with
      dayStart := s.di.alarm, alarm := s.di.alarm + s.set.dayLength * 3600000 } } := ⟨_, rfl⟩
    have heffect : (s.goTo (atMs s.di.alarm)).alarmExpired = x.rollover := by rw [goTo_reached hreached, hx]; rfl
    obtain ⟨hnow, hstart, halarm', hcarry, hvolume, hnone, hrem, hblock, hlc, htc, hcc, hset, hfb, hrc⟩ := rollover_begins x
    have hlk : onlyNotices s.lk x.rollover.lk := by
      have h := rollover_lk x
      rwa [show x.lk = s.lk by rw [hx]] at h
    have hxsau : x.sau = s.sau := by rw [hx]
    have hxset : x.set = s.set := by rw [hx]
    rw [hxsau] at hvolume hnone
    refine ⟨_, timer_next hp rfl (Nat.div_le_div_right hreached) heffect (by rw [hlk]; exact hqueue)
      (runQuiet_rc (s := s) (hrc.trans (by rw [hx])) hquiet), ?_⟩
    rw [kick_now, kick_di, kick_sau, kick_lc, kick_tc, kick_cc, kick_set, kick_fb]
    refine ⟨hnow.trans (by rw [hx]), hstart.trans (by rw [hx]), halarm'.trans (by rw [hx]), hcarry, hvolume, hnone,
      hrem.trans (by rw [hx]), hblock.trans (by rw [hx]), hlc.trans (by rw [hx]), htc.trans (by rw [hx]),
      hcc.trans (by rw [hx]), hset.trans hxset, hfb.trans (by rw [hx]), fun hm hb => ?_⟩
    rw [kick_busy (by rw [hlk]; exact hb)]
    exact rollover_tells (by rw [hxset]; exact hm)
  case mark =>
    by_cases hlock : s.pins.lockEngaged = true
    · rw [if_pos hlock]
      exact exec_unchanged hs rfl rfl rfl (fun _ => nofun) (if_pos hlock)
    rw [if_neg hlock]
    obtain ⟨x, hx⟩ : ∃ x, x = { s with
      set := { s.set with dayLength := hours }
      di := { s.di with dayStart := s.now / 1000, alarm := s.now / 1000 + hours * 3600000 } } := ⟨_, rfl⟩
    have ⟨⟨⟨_, hqueue, hquiet⟩, _⟩, _⟩ := hs
    obtain ⟨hnow, hstart, halarm', hcarry, hvolume, hnone, hrem, hblock, hlc, htc, hcc, hset, hfb, hrc⟩ := rollover_begins x
    have hlk : onlyNotices s.lk x.rollover.lk := by
      have h := rollover_lk x
      rwa [show x.lk = s.lk by rw [hx]] at h
    have hxsau : x.sau = s.sau := by rw [hx]
    rw [hxsau] at hvolume hnone
    have hd : decisionOf (.dayMark tag length) (s.holding 0x39#8 tag)
        = (x.rollover.holding 0x39#8 tag, ⟨.ok, [.time (some (s.now / 1000)), .num hours,
            .time (some (s.now / 1000 + hours * 3600000)), .flag (outside 1 48 length)]⟩) := by
      rw [← rollover_holding, hx, hhours]
      exact if_neg hlock
    have hexec := exec_decides (i := .dayMark tag length) hs rfl rfl rfl (fun _ => nofun) hd (by rw [hlk]; exact hqueue)
      (runQuiet_rc (s := s) (hrc.trans (by rw [hx])) hquiet)
    refine ⟨_, hexec, ?_⟩
    rw [answered_set, answered_di, answered_sau, answered_lc, answered_tc, answered_cc, answered_fb, answered_now,
      answered_pendingSet, answered_gathered]
    refine ⟨hset.trans (by rw [hx]), hstart.trans (by rw [hx]), halarm'.trans (by rw [hx]), hcarry, hvolume, hnone,
      hrem.trans (by rw [hx]), hblock.trans (by rw [hx]), hlc.trans (by rw [hx]), htc.trans (by rw [hx]),
      hcc.trans (by rw [hx]), hfb.trans (by rw [hx]), hnow.trans (by rw [hx]), fun hm _ => rollover_tells (by rw [hx]; exact hm),
      fun hsend => ?_⟩
    refine (answered_sending _ _ _ _ (by rw [hlk]; exact hsend)).trans ?_
    simp only [replyTo, outside, Bool.decide_or]
    rfl

end Sys2Proof.Machine
end

