-- ==== Sys2Proof/Proofs/Captures.lean ====
section
/-! CAPTURE (05 R116, R117): its selection, its tests in the order of Table 5-6, and the ticket it opens. -/

namespace Sys2Proof.Machine

variable {s : State} {tag : Byte} {profile : Nat} {v : Volume} {p : Profile} {rule : SideSelection} {sides : SidesOverride}

/-! ### The selection (R116) -/

/-- The left side a rule selects, of the side on the left half. -/
def pickLeft (rule : SideSelection) (s : State) (l : Nat) : Nat :=
  match rule with
  | .auto => if s.sideState l = .pending ∨ s.sideState l = .retake then l else 0
  | .left | .both => l
  | .right => 0

/-- The right side a rule selects, of the side on the right half. -/
def pickRight (rule : SideSelection) (s : State) (r : Nat) : Nat :=
  match rule with
  | .auto => if s.sideState r = .pending ∨ s.sideState r = .retake then r else 0
  | .right | .both => r
  | .left => 0

theorem wantedByAuto_iff (st : SideState) : wantedByAuto st = true ↔ st = .pending ∨ st = .retake := by
  cases st <;> simp [wantedByAuto]

/-- AUTO's choice of a side; a side that does not exist is none in either case. -/
theorem autoPick (s : State) (n : Nat) :
    (if wantedByAuto (s.sideState n) && n != 0 then n else 0)
      = if s.sideState n = .pending ∨ s.sideState n = .retake then n else 0 := by
  simp only [← wantedByAuto_iff, Bool.and_eq_true, bne_iff_ne]
  by_cases hn : n = 0
  · simp [hn]
  · simp [hn]

theorem select_mounted (hv : s.sau.volume = some v) :
    s.select rule = { left := pickLeft rule s (leftSide v.direction v.n s.tc.j)
                      right := pickRight rule s (rightSide v.direction v.n s.tc.j) } := by
  have hleft : s.leftNow = leftSide v.direction v.n s.tc.j := by simp [State.leftNow, hv]
  have hright : s.rightNow = rightSide v.direction v.n s.tc.j := by simp [State.rightNow, hv]
  cases rule <;> simp only [State.select, hleft, hright, pickLeft, pickRight, autoPick]

theorem selectionRule_some (h : sides = .named (some rule) ∨ (sides = .absent ∧ rule = p.selection)) :
    selectionRule p sides = some rule := by
  rcases h with rfl | ⟨rfl, rfl⟩ <;> rfl

/-! ### The tests (R116, Table 5-6) -/

theorem platenFits_mounted (hv : s.sau.volume = some v) :
    s.platenFits = true ↔ s.tc.state = .clamped ∨ v.limits.policy = .free := by
  simp [State.platenFits, State.limits?, hv]

theorem admits_iff (st : SyncState) : st.admits = false ↔ st = .detecting ∨ st = .manualExternalLost := by
  cases st <;> simp [SyncState.admits]

/-- The tests of a mounted part's CAPTURE on one of the four profiles under a rule, in their order. -/
theorem captureRefusal_chain {left right : Nat} {fromHost : Bool} {runs : Prop} [Decidable runs]
    (hruns : runs ↔ fromHost = true ∧ s.runActive = true) (hv : s.sau.volume = some v) (hprofile : profile ≤ 3)
    (hp : p = profileAt s.set.profiles profile) :
    s.captureRefusal profile (some rule) ⟨left, right⟩ fromHost
      = if runs ∨ s.settled = false ∨ (s.tc.state ≠ .clamped ∧ v.limits.policy ≠ .free) then
          some .state
        else if s.ticketOpen = true then some .busy
        else if s.cc.sync.state = .detecting ∨ s.cc.sync.state = .manualExternalLost then some .noSync
        else if (left ≠ 0 ∧ s.pins.readyA = false) ∨ (right ≠ 0 ∧ s.pins.readyB = false) then some .camera
        else if (PerBank.any fun b => p.enabled.get b && !(s.lc.banks.get b).faulted) = false then some .lamp
        else if s.di.sensorDark = true then some .sensor
        else if left = 0 ∧ right = 0 then some .nothing
        else if (left ≠ 0 ∧ s.sideState left = .held) ∨ (right ≠ 0 ∧ s.sideState right = .held) then some .held
        else if 32 ≤ s.cc.tickets.length then some .ringFull
        else s.doseRefusal p (p.settle + p.exposure + syncPeriodMs s.set.syncRate) := by
  have hstate : ((fromHost && s.runActive) || !s.settled || !s.platenFits) = true
      ↔ runs ∨ s.settled = false ∨ (s.tc.state ≠ .clamped ∧ v.limits.policy ≠ .free) := by
    rw [hruns, Bool.or_eq_true, Bool.or_eq_true, Bool.and_eq_true, Bool.not_eq_true', Bool.not_eq_true', ← Bool.not_eq_true,
      ← Bool.not_eq_true, platenFits_mounted hv, or_assoc, not_or]
  have hsync : (!s.cc.sync.state.admits) = true ↔ s.cc.sync.state = .detecting ∨ s.cc.sync.state = .manualExternalLost := by
    rw [Bool.not_eq_true', admits_iff]
  have hcamera : (!s.camerasReady ⟨left, right⟩) = true
      ↔ (left ≠ 0 ∧ s.pins.readyA = false) ∨ (right ≠ 0 ∧ s.pins.readyB = false) := by
    simp [State.camerasReady]
  have hlamp : (!s.anyUsable p) = true ↔ (PerBank.any fun b => p.enabled.get b && !(s.lc.banks.get b).faulted) = false := by
    rw [Bool.not_eq_true']
    rfl
  have hheld : s.selectionHeld ⟨left, right⟩ = true
      ↔ (left ≠ 0 ∧ s.sideState left = .held) ∨ (right ≠ 0 ∧ s.sideState right = .held) := by
    simp [State.selectionHeld]
  simp only [State.captureRefusal, ← hp, State.mounted, hv, Option.isSome_some, Bool.not_true, Bool.false_eq_true, if_false,
    Nat.not_lt.mpr hprofile, reduceCtorEq, or_self, hstate, hsync, hcamera, hlamp, hheld, ringSize]
  rfl

/-- The first test of a chain fails, or the chain goes on. -/
theorem chain_step {c A B : Prop} [Decidable c] {o rest : Option Result} {x : Result}
    (h : o = if c then some x else rest) (hx : o = some x → A) (hrest : o = rest → B) : if c then A else B := by
  split
  next hc => exact hx (h.trans (if_pos hc))
  next hc => exact hrest (h.trans (if_neg hc))

section decided
variable (hrule : selectionRule (profileAt s.set.profiles profile) sides = some rule)
include hrule

theorem decideCapture_refused {x : Result} {fromHost : Bool}
    (h : s.captureRefusal profile (some rule) (s.select rule) fromHost = some x) (hx : x ≠ .ringFull) :
    decideCapture profile sides fromHost s = refuse x s := by
  unfold decideCapture
  dsimp only
  rw [hrule, Option.getD_some, h]
  split
  case h_1 heq => exact absurd (Option.some.inj heq) hx
  case h_2 heq => rw [Option.some.inj heq]
  case h_3 heq => cases heq

theorem decideCapture_ringFull {fromHost : Bool}
    (h : s.captureRefusal profile (some rule) (s.select rule) fromHost = some .ringFull) :
    decideCapture profile sides fromHost s = refuse .ringFull (s.report .ringFull [s.oldestSerial]) := by
  unfold decideCapture
  dsimp only
  rw [hrule, Option.getD_some, h]

theorem decideCapture_accepted {fromHost : Bool}
    (h : s.captureRefusal profile (some rule) (s.select rule) fromHost = none) :
    decideCapture profile sides fromHost s
      = answer .accepted [.num s.cc.nextSerial, .num (s.select rule).left, .num (s.select rule).right]
          (s.openCapture profile (s.select rule)) := by
  unfold decideCapture
  dsimp only
  rw [hrule, Option.getD_some, h]

/-- A refused CAPTURE, but for a full ring, changes no state. -/
theorem exec_capture_refused {x : Result} (hs : s.serves)
    (h : s.captureRefusal profile (some rule) (s.select rule) true = some x) (hx : x ≠ .ringFull) :
    exec (.capture tag profile sides) s = .next (s.answeredWith 0x42#8 tag x) :=
  exec_unchanged hs rfl rfl rfl (fun _ => nofun) (decideCapture_refused (s := s.holding 0x42#8 tag) hrule h hx)

/-- With the ring full it is refused, and the report names the oldest ticket. -/
theorem exec_capture_ringFull (hs : s.serves)
    (h : s.captureRefusal profile (some rule) (s.select rule) true = some .ringFull) :
    ∃ t, exec (.capture tag profile sides) s = .next t
      ∧ t.fb = (s.report .ringFull [((s.cc.tickets.head?).map Ticket.serial).getD 0]).fb
      ∧ t = { s with fb := t.fb, lk := t.lk }
      ∧ (s.lk.sending = none → t.lk.sending = some (.reply
          { kind := 0xC2#8, tag := tag, result := .ringFull, body := [] })) := by
  have ⟨⟨⟨_, hqueue, hquiet⟩, _⟩, _⟩ := hs
  have holdest : s.oldestSerial = ((s.cc.tickets.head?).map Ticket.serial).getD 0 := by
    unfold State.oldestSerial
    cases s.cc.tickets <;> rfl
  have hd : decisionOf (.capture tag profile sides) (s.holding 0x42#8 tag)
      = ((s.holding 0x42#8 tag).report .ringFull [((s.cc.tickets.head?).map Ticket.serial).getD 0], ⟨.ringFull, []⟩) := by
    rw [← holdest]
    exact decideCapture_ringFull (s := s.holding 0x42#8 tag) hrule h
  refine ⟨_, exec_next (i := .capture tag profile sides) hs rfl rfl rfl (fun _ => nofun) hd ((report_queue _ _ _).trans hqueue)
    (runQuiet_rc (s := s) (report_rc _ _ _) hquiet), ?banks, ?frame, fun hsend => ?reply⟩
  case banks =>
    rw [answered_fb]
    refine report_banks ⟨?_, ?_, ?_, ?_⟩ _ _ <;> rfl
  case frame =>
    refine (answered_frame _ _ _ _).trans ?_
    rw [answered_fb, report_frame]
    rfl
  case reply => exact answered_sending _ _ _ _ ((report_sending _ _ _).trans hsend)

end decided

/-! ### The ticket (R117) -/

theorem hold_mounted (hv : s.sau.volume = some v) (side : Nat) :
    s.hold side = if side = 0 then s else s.withSideSet v side .held := by
  rw [State.hold, setSide_mounted hv]

/-- The part with a capture's ticket opened, its lamps still to be lit. -/
def State.ticketed (k : Ticket) (s : State) : State :=
  { s with cc := { s.cc with
    tickets := s.cc.tickets ++ [k], nextSerial := serialAfter s.cc.nextSerial, state := .settle, openedAt := s.now
    triggeredAt := none, lampsOffAt := none, elapsed := false, limitPassed := false, cut := none
    camA := s.cc.camA.rest, camB := s.cc.camB.rest } }

/-- The openings with the selected sides HELD. -/
def heldOpenings (v : Volume) (left right : Nat) (l : List Opening) : List Opening :=
  let mid := if left = 0 then l else l.modify (left / 2) (withSide v.direction left .held)
  if right = 0 then mid else mid.modify (right / 2) (withSide v.direction right .held)

/-- The selected sides are HELD, each of the two if it exists. -/
theorem hold_both (hv : s.sau.volume = some v) (left right : Nat) :
    (s.hold left).hold right
      = { s with sau := { s.sau with openings := heldOpenings v left right s.sau.openings } } := by
  have hmid : (s.hold left).sau.volume = some v := by
    rw [hold_mounted hv]
    split
    · exact hv
    · exact hv
  rw [hold_mounted hmid, hold_mounted hv]
  unfold heldOpenings
  by_cases hl : left = 0 <;> by_cases hr : right = 0 <;> simp only [hl, hr, if_true, if_false] <;> rfl

/-- The ticket a capture opens. -/
def State.opensTicket (profile : Nat) (sel : Selection) (s : State) : Ticket :=
  { s.newTicket profile sel with lampDegraded := s.anyFaulted (profileAt s.set.profiles profile) }

/-- An accepted CAPTURE: the preview ends, the ticket opens over the selected sides, which are HELD, and its window is lit. -/
theorem openCapture_mounted (hv : s.sau.volume = some v) (sel : Selection) :
    s.openCapture profile sel
      = State.openWindow .capture profile { (s.endPreview .cut).ticketed ((s.endPreview .cut).opensTicket profile sel) with
          sau := { s.sau with openings := heldOpenings v sel.left sel.right s.sau.openings } } := by
  obtain ⟨y, hy⟩ : ∃ y, y = (s.endPreview .cut).ticketed ((s.endPreview .cut).opensTicket profile sel) := ⟨_, rfl⟩
  have hsau : y.sau = s.sau := by rw [hy]; exact endPreview_sau s .cut
  have hset : (s.endPreview .cut).set = s.set := endPreview_set s .cut
  have hopen : s.openCapture profile sel = State.openWindow .capture profile ((y.hold sel.left).hold sel.right) := by
    rw [hy, State.opensTicket, hset]
    rfl
  rw [hopen, ← hy]
  rw [hold_both (by rw [hsau]; exact hv), hsau]

/-- The end of a lit preview before a capture. -/
theorem endPreview_beforeCapture (hw : s.captureWindow = false) :
    (s.endPreview .cut).lc.learned = s.lc.learned
    ∧ (∀ b, ((s.endPreview .cut).lc.banks.get b).faulted = (s.lc.banks.get b).faulted)
    ∧ (s.endPreview .cut).lc.lastEnd = (if s.lc.preview.isSome then some .cut else s.lc.lastEnd)
    ∧ (s.endPreview .cut).di
        = if s.lc.preview.isSome = true ∧ s.anyLit = true then { s.di with satCount := 0, darkCount := 0 } else s.di := by
  have hnot : (s.lc.window.map Window.kind) ≠ some .capture := by
    intro h
    obtain ⟨w, hwindow, hkind⟩ := Option.map_eq_some_iff.mp h
    simp [State.captureWindow, hwindow, hkind] at hw
  cases hp : s.lc.preview with
  | none =>
    rw [endPreview_none hp]
    exact ⟨rfl, fun _ => rfl, rfl, (if_neg (by simp)).symm⟩
  | some q =>
    obtain ⟨learned, hlearned, hended⟩ := endPreview_some .cut hp
    rw [hended]
    refine ⟨hlearned hnot, fun b => by simp [BankRec.dark], rfl, ?_⟩
    simp

/-- DI's answer is never that the ring is full. -/
theorem doseRefusal_ne_ringFull {time : Nat} : s.doseRefusal p time ≠ some .ringFull := by
  unfold State.doseRefusal
  split
  · nofun
  · dsimp only
    split
    · nofun
    · split <;> nofun

/-- Settles O50: the tests as one chain, and what an accepted capture opens. -/
theorem captureOpensATicket : Obligations.CaptureOpensATicket := by
  intro tag profile sides s hs
  refine ⟨fun hv => ?notMounted, fun hv h => ?argument,
    fun v p rule l r left right hv hprofile hp hrule hl hr hleft hright => ?tests⟩
  case notMounted =>
    refine exec_unchanged hs rfl rfl rfl (fun _ => nofun) ?_
    have hrefused : ∀ r sel, (s.holding 0x42#8 tag).captureRefusal profile r sel true = some .notMounted := fun r sel => by
      simp [State.captureRefusal, State.mounted, hv]
    change decideCapture profile sides true (s.holding 0x42#8 tag) = _
    rw [decideCapture, hrefused]
    rfl
  case argument =>
    refine exec_unchanged hs rfl rfl rfl (fun _ => nofun) ?_
    have hrefused : ∀ sel, (s.holding 0x42#8 tag).captureRefusal profile
        (selectionRule (profileAt (s.holding 0x42#8 tag).set.profiles profile) sides) sel true = some .argument := fun sel => by
      rcases h with h | rfl
      · simp [State.captureRefusal, State.mounted, hv, h]
      · simp [State.captureRefusal, State.mounted, hv, selectionRule]
    change decideCapture profile sides true (s.holding 0x42#8 tag) = _
    rw [decideCapture, hrefused]
    rfl
  case tests =>
    have hleft : left = pickLeft rule s l := hleft.trans (by cases rule <;> rfl)
    have hright : right = pickRight rule s r := hright.trans (by cases rule <;> rfl)
    have hsel : s.select rule = ⟨left, right⟩ := by rw [select_mounted hv, hleft, hright, hl, hr]
    have hrule' : selectionRule (profileAt s.set.profiles profile) sides = some rule := by
      rw [← hp]
      exact selectionRule_some hrule
    have hchain := captureRefusal_chain (rule := rule) (left := left) (right := right) (fromHost := true)
      (runs := s.runActive = true) (by simp) hv hprofile hp
    have hrefuses : ∀ {x : Result}, s.captureRefusal profile (some rule) ⟨left, right⟩ true = some x → x ≠ .ringFull →
        exec (.capture tag profile sides) s = .next (s.answeredWith 0x42#8 tag x) := fun h hx =>
      exec_capture_refused hrule' hs (by rw [hsel]; exact h) hx
    refine chain_step hchain (fun h => hrefuses h nofun) fun hchain => ?_
    refine chain_step hchain (fun h => hrefuses h nofun) fun hchain => ?_
    refine chain_step hchain (fun h => hrefuses h nofun) fun hchain => ?_
    refine chain_step hchain (fun h => hrefuses h nofun) fun hchain => ?_
    refine chain_step hchain (fun h => hrefuses h nofun) fun hchain => ?_
    refine chain_step hchain (fun h => hrefuses h nofun) fun hchain => ?_
    refine chain_step hchain (fun h => hrefuses h nofun) fun hchain => ?_
    refine chain_step hchain (fun h => hrefuses h nofun) fun hchain => ?_
    refine chain_step hchain (fun h => exec_capture_ringFull hrule' hs (by rw [hsel]; exact h)) fun hchain => ?_
    refine ⟨fun x hx => hrefuses (hchain.trans hx) ?_, fun hdose hwindow => ?_⟩
    · intro h
      exact doseRefusal_ne_ringFull (hx.trans (congrArg some h))
    · have ⟨⟨⟨_, hqueue, hquiet⟩, _⟩, _⟩ := hs
      obtain ⟨y, hy⟩ : ∃ y, y = (s.holding 0x42#8 tag).endPreview .cut := ⟨_, rfl⟩
      have hd : decisionOf (.capture tag profile sides) (s.holding 0x42#8 tag)
          = (State.openWindow .capture profile { y.ticketed (y.opensTicket profile ⟨left, right⟩) with
              sau := { s.sau with openings := heldOpenings v left right s.sau.openings } },
             ⟨.accepted, [.num s.cc.nextSerial, .num left, .num right]⟩) := by
        have haccepted := decideCapture_accepted (s := s.holding 0x42#8 tag) (fromHost := true) hrule'
          (show (s.holding 0x42#8 tag).captureRefusal profile (some rule) ((s.holding 0x42#8 tag).select rule) true = none by
            rw [show (s.holding 0x42#8 tag).select rule = s.select rule from rfl, hsel]
            exact hchain.trans hdose)
        rw [show (s.holding 0x42#8 tag).select rule = s.select rule from rfl, hsel,
          openCapture_mounted (s := s.holding 0x42#8 tag) hv] at haccepted
        rw [hy]
        exact haccepted
      obtain ⟨hlearned, hfaulted, hlast, hdi⟩ := endPreview_beforeCapture (s := s.holding 0x42#8 tag) hwindow
      have hpreview := endPreview_preview (s.holding 0x42#8 tag) .cut
      rw [← hy] at hlearned hfaulted hlast hdi hpreview
      have hcc : y.cc = s.cc := by rw [hy, endPreview_cc]; rfl
      have hset : y.set = s.set := by rw [hy, endPreview_set]; rfl
      have hsau : y.sau = s.sau := by rw [hy, endPreview_sau]; rfl
      have htc : y.tc = s.tc := by rw [hy, endPreview_tc]; rfl
      have hnow : y.now = s.now := by rw [hy, endPreview_now]; rfl
      have hfb : y.fb = s.fb := by rw [hy, endPreview_fb]; rfl
      have hpins : y.pins = s.pins := by rw [hy, endPreview_pins]; rfl
      have hlk : y.lk = (s.holding 0x42#8 tag).lk := by rw [hy, endPreview_lk]
      have hrc : y.rc = s.rc := by rw [hy, endPreview_rc]; rfl
      have hk : y.opensTicket profile ⟨left, right⟩ = { s.newTicket profile ⟨left, right⟩ with
          lampDegraded := y.anyFaulted p } := by
        simp only [State.opensTicket, State.newTicket, hcc, hset, hsau, htc, State.clock, hnow, hp]
      obtain ⟨z, hz⟩ : ∃ z, z = { y.ticketed (y.opensTicket profile ⟨left, right⟩) with
        sau := { s.sau with openings := heldOpenings v left right s.sau.openings } } := ⟨_, rfl⟩
      rw [← hz] at hd
      have hzlc : z.lc = y.lc := by rw [hz]; rfl
      have hzcc : z.cc = (y.ticketed (y.opensTicket profile ⟨left, right⟩)).cc := by rw [hz]
      have hzset : z.set = s.set := by rw [hz]; exact hset
      refine ⟨_, exec_next (i := .capture tag profile sides) hs rfl rfl rfl (fun _ => nofun) hd
        (by change z.lk.queue = []; rw [hz]; exact (congrArg Lk.queue hlk).trans hqueue)
        (runQuiet_rc (s := s) (by change z.rc = s.rc; rw [hz]; exact hrc) hquiet),
        y.opensTicket profile ⟨left, right⟩, _, ?tickets, ?serial, ?closed, ?mountNo, ?opening, ?leftHalf, ?rightHalf,
        ?profileIs, ?mode, ?settle, ?exposure, ?openTime, ?dose, ?degraded, ?next, ?state, ?openedAt, rfl, ?sau, ?window,
        fun b => ?bank, ?learned, ?preview, ?ended, ?di, ?tc, ?fb, ?set, ?pins, ?now, fun hsend => ?reply⟩
      case tickets => rw [answered_cc]; change z.cc.tickets = _; rw [hzcc, ← hcc]; rfl
      case serial => rw [hk]; rfl
      case closed => rw [hk]; rfl
      case mountNo => rw [hk]; simp [State.newTicket, hv]
      case opening => rw [hk]; rfl
      case leftHalf => rw [hk]; rfl
      case rightHalf => rw [hk]; rfl
      case profileIs => rw [hk]; rfl
      case mode => rw [hk, hp]; rfl
      case settle => rw [hk, hp]; rfl
      case exposure => rw [hk, hp]; rfl
      case openTime => rw [hk]; rfl
      case dose => rw [hk]; rfl
      case degraded =>
        rw [hk]
        simp [State.anyFaulted, PerBank.any_eq_true, hfaulted]
      case next => rw [answered_cc]; change z.cc.nextSerial = _; rw [hzcc, ← hcc]; rfl
      case state => rw [answered_cc]; change z.cc.state = _; rw [hzcc]; rfl
      case openedAt => rw [answered_cc]; change z.cc.openedAt = _; rw [hzcc, ← hnow]; rfl
      case sau => rw [answered_sau]; change z.sau = _; rw [hz]; rfl
      case window => rw [answered_lc]; rfl
      case bank =>
        obtain ⟨hlevel, hlit⟩ := openWindow_bank (s := z) (profile := profile) .capture b
        have hbank : ((State.openWindow .capture profile z).lc.banks.get b).faulted = (z.lc.banks.get b).faulted := by
          simp [State.openWindow]
        rw [answered_lc]
        refine ⟨hlevel.trans ?_, hlit.trans (by rw [← hlevel]), hbank.trans ?_⟩
        · rw [windowLevel_eq, hzset, hzlc, hfaulted, hlearned, hp] <;> rfl
        · rw [hzlc, hfaulted]
          rfl
      case learned => rw [answered_lc]; change z.lc.learned = _; rw [hzlc, hlearned]; rfl
      case preview => rw [answered_lc]; change z.lc.preview = _; rw [hzlc, hpreview]
      case ended => rw [answered_lc]; change z.lc.lastEnd = _; rw [hzlc, hlast]; rfl
      case di => rw [answered_di]; change z.di = _; rw [hz]; exact hdi
      case tc => rw [answered_tc]; change z.tc = _; rw [hz]; exact htc
      case fb => rw [answered_fb]; change z.fb = _; rw [hz]; exact hfb
      case set => rw [answered_set]; exact hzset
      case pins => rw [answered_pins]; change z.pins = _; rw [hz]; exact hpins
      case now => rw [answered_now]; change z.now = _; rw [hz]; exact hnow
      case reply =>
        refine (answered_sending _ _ _ _ ?_).trans rfl
        change z.lk.sending = none
        rw [hz]
        exact (congrArg Lk.sending hlk).trans hsend

end Sys2Proof.Machine
end

