-- ==== Sys2Proof/Proofs/Syncing.lean ====
section
/-! The sync selector (05 section 5.2): its requests (R106, R107, R109), the edges it measures and delivers (R105, R110), the
loss of the external source (R108), and the end of the detection watch (R106, 11 R191). -/

namespace Sys2Proof.Machine

variable {s : State} {tag : Byte}

/-! ### Edges (R57, R105) -/

/-- The part with an edge delivered that triggers nothing: frame 1 starts. -/
def State.edgeDelivered (s : State) : State :=
  { s with
    cc := { s.cc with sync := { s.cc.sync with delivered := some s.now } }
    lc := { s.lc with
      frameEdge := some s.now, banks := s.lc.banks.map fun b => { b with prevLevel := b.level } } }

/-- An edge triggers nothing in IDLE, EXPOSE and COLLECT. -/
theorem deliverEdge_untriggered (src : SyncSource)
    (h : s.cc.state = .idle ∨ s.cc.state = .expose ∨ s.cc.state = .collect) : s.deliverEdge src = s.edgeDelivered := by
  unfold State.deliverEdge
  rcases h with h | h | h <;> rw [h] <;> rfl

/-- In WAIT-EDGE it triggers the capture (R118). -/
theorem deliverEdge_triggers (src : SyncSource) (h : s.cc.state = .waitEdge) :
    s.deliverEdge src = s.edgeDelivered.trigger src := by
  unfold State.deliverEdge
  rw [h]
  rfl

/-- The generator's start, with its first edge. -/
theorem startGenerator_idle (h : s.cc.state = .idle) :
    s.startGenerator = (s.withSync fun y => { y with gen := some s.now }).edgeDelivered :=
  deliverEdge_untriggered .internal (s := s.withSync fun y => { y with gen := some s.now }) (.inl h)

/-! ### The selector's requests (R107, R109) -/

theorem decideSyncDetect_state (h : s.cc.sync.state = .manualExternal ∨ s.cc.sync.state = .manualExternalLost
    ∨ s.cc.sync.state = .manualInternal ∨ s.cc.sync.state = .detecting) : decideSyncDetect s = refuse .state s := by
  unfold decideSyncDetect
  rcases h with h | h | h | h <;> rw [h]

theorem decideSyncDetect_automatic (h : ¬ (s.cc.sync.state = .manualExternal ∨ s.cc.sync.state = .manualExternalLost
    ∨ s.cc.sync.state = .manualInternal ∨ s.cc.sync.state = .detecting)) :
    decideSyncDetect s
      = if s.ticketOpen = true ∨ s.lc.preview.isSome = true then refuse .busy s
        else answer .accepted [] s.beginDetection := by
  unfold decideSyncDetect
  simp only [not_or] at h
  obtain ⟨h1, h2, h3, h4⟩ := h
  split
  case h_1 h => exact absurd h h1
  case h_2 h => exact absurd h h2
  case h_3 h => exact absurd h h3
  case h_4 h => exact absurd h h4
  all_goals simp only [Bool.or_eq_true]

theorem decideSyncSelect_busy (src : SyncSource) (h : s.ticketOpen = true ∨ s.lc.preview.isSome = true) :
    decideSyncSelect (some src) s = refuse .busy s :=
  if_pos (by simpa using h)

theorem decideSyncSelect_free (src : SyncSource) (ht : s.ticketOpen = false) (hp : s.lc.preview = none) :
    decideSyncSelect (some src) s = answer .ok [] (s.selectSource src) :=
  if_neg (by simp [ht, hp])

theorem selectSource_external (h : s.cc.sync.state = .external ∨ s.cc.sync.state = .manualExternal) :
    s.selectSource .external = s.withSync fun y => { y with state := .manualExternal } := by
  unfold State.selectSource
  rcases h with h | h <;> simp only [h]

theorem selectSource_lost (h1 : s.cc.sync.state ≠ .external) (h2 : s.cc.sync.state ≠ .manualExternal) :
    s.selectSource .external
      = (s.withSync fun y => { y with state := .manualExternalLost, goodCount := 0 }).runGenerator := by
  unfold State.selectSource
  dsimp only
  split
  case h_1 h => exact absurd h h1
  case h_2 h => exact absurd h h2
  all_goals rfl

/-- A generator that runs keeps running. -/
theorem runGenerator_running {g : Nat} (h : s.cc.sync.gen = some g) : s.runGenerator = s := by
  simp [State.runGenerator, h]

/-- Another one starts, with its first edge. -/
theorem runGenerator_starts (h : s.cc.sync.gen = none) (hi : s.cc.state = .idle) :
    s.runGenerator = (s.withSync fun y => { y with gen := some s.now }).edgeDelivered := by
  rw [← startGenerator_idle hi]
  simp [State.runGenerator, h]

/-- SYNC SELECT with no ticket OPEN and no preview lit. -/
theorem exec_syncSelect {src : SyncSource} {t : State} (hs : s.serves) (ht : s.ticketOpen = false) (hp : s.lc.preview = none)
    (h : (s.holding 0x45#8 tag).selectSource src = t.holding 0x45#8 tag) (hlk : t.lk = s.lk) (hrc : t.rc = s.rc) :
    exec (.syncSelect tag (some src)) s = .next (State.answeredWith 0x45#8 tag .ok t) :=
  exec_decided hs rfl rfl rfl (fun _ => nofun)
    ((decideSyncSelect_free (s := s.holding 0x45#8 tag) src ht hp).trans (by rw [h]; rfl)) hlk hrc

/-- Settles O51, by the request and by the selector's state. -/
theorem syncRequestsMoveTheSelector : Obligations.SyncRequestsMoveTheSelector := by
  intro tag s hs
  refine ⟨?detect, ?other, fun src h => ?busy, fun g ht hp hg => ?internal, fun ht hp h => ?external,
    fun g ht hp h1 h2 hg => ?lost, fun src y ht hp hg hi hsrc => ?starts⟩
  case detect =>
    split
    next h => exact exec_unchanged hs rfl rfl rfl (fun _ => nofun) (decideSyncDetect_state (s := s.holding 0x44#8 tag) h)
    next h =>
    have hd := decideSyncDetect_automatic (s := s.holding 0x44#8 tag) h
    split
    next hbusy => exact exec_unchanged hs rfl rfl rfl (fun _ => nofun) (hd.trans (if_pos hbusy))
    next hfree => exact exec_decided hs rfl rfl rfl (fun _ => nofun) (hd.trans (if_neg hfree)) rfl rfl
  case other => exact exec_unchanged hs rfl rfl rfl (fun _ => nofun) rfl
  case busy => exact exec_unchanged hs rfl rfl rfl (fun _ => nofun) (decideSyncSelect_busy (s := s.holding 0x45#8 tag) src h)
  case internal => exact exec_syncSelect hs ht hp (runGenerator_running (g := g) hg) rfl rfl
  case external => exact exec_syncSelect hs ht hp (selectSource_external (s := s.holding 0x45#8 tag) h) rfl rfl
  case lost =>
    exact exec_syncSelect hs ht hp
      ((selectSource_lost (s := s.holding 0x45#8 tag) h1 h2).trans (runGenerator_running (g := g) hg)) rfl rfl
  case starts =>
    rcases hsrc with ⟨rfl, rfl⟩ | ⟨rfl, h1, h2, rfl⟩
    · exact exec_syncSelect hs ht hp (runGenerator_starts
        (s := (s.holding 0x45#8 tag).withSync fun y => { y with state := .manualInternal, lastExt := none }) hg hi) rfl rfl
    · exact exec_syncSelect hs ht hp ((selectSource_lost (s := s.holding 0x45#8 tag) h1 h2).trans (runGenerator_starts
        (s := (s.holding 0x45#8 tag).withSync fun y => { y with state := .manualExternalLost, goodCount := 0 }) hg hi))
        rfl rfl

/-! ### The OPEN ticket -/

theorem openTicket_closed {k : Ticket} (h : s.openTicket? = some k) : k.closed = false := by
  unfold State.openTicket? at h
  split at h
  next t _ =>
    split at h
    next hc => cases h
    next hc =>
      obtain rfl := Option.some.inj h
      simpa using hc
  next => cases h

/-- A change of the OPEN ticket that leaves it OPEN. -/
theorem openTicket_mapOpen {t : State} {k : Ticket} {f : Ticket → Ticket} (h : s.openTicket? = some k)
    (ht : t.cc.tickets = mapOpen f s.cc.tickets) (hf : (f k).closed = false) : t.openTicket? = some (f k) := by
  have hk := openTicket_closed h
  unfold State.openTicket? at h ⊢
  rw [ht, mapOpen, List.getLast?_map]
  cases hl : s.cc.tickets.getLast? with
  | none => rw [hl] at h; cases h
  | some x =>
    rw [hl] at h
    dsimp only at h
    by_cases hx : x.closed = true
    · rw [if_pos hx] at h
      cases h
    · rw [if_neg hx] at h
      obtain rfl := Option.some.inj h
      simp [hk, hf]

/-! ### The external input (R105, R106, R110) -/

section edge
variable {after last : Nat}

/-- The part at the instant of an edge. -/
theorem exec_externalSyncEdge {t : State} (hs : s.quiet) (hnow : s.endsNow (s.now + after))
    (h : State.externalEdge { s with now := s.now + after } = t) (hq : t.lk.queue = []) (hr : t.runQuiet) :
    exec (.externalSyncEdge after) s = .next t.kick := by
  obtain ⟨hp, -, -⟩ := hs
  have hgone : s.goTo (s.now + after) = { s with now := s.now + after } := by
    rw [State.goTo, Nat.max_eq_right (Nat.le_add_right _ _)]
  refine event_next hp ?_ hq hr
  exact (atDue_present (due := fun _ => some (s.now + after)) (s := s) rfl hnow).trans (by rw [hgone]; exact h)

/-- The part with an edge measured that ends a period. -/
def State.measured (last : Nat) (s : State) : State :=
  s.withSync fun y =>
    { y with
      lastExt := some s.now, lastPeriod := some (s.now - last)
      goodCount := if goodPeriod s.set.syncRate (s.now - last) then y.goodCount + 1 else 0 }

theorem measure_period (h : s.cc.sync.lastExt = some last) :
    s.withSync (Sync.measure s.set.syncRate s.now) = s.measured last := by
  simp [State.withSync, Sync.measure, h, State.measured]

theorem externalEdge_delivers (h : s.cc.sync.state = .external ∨ s.cc.sync.state = .manualExternal)
    (hl : s.cc.sync.lastExt = some last) (hi : s.cc.state = .idle) : s.externalEdge = (s.measured last).edgeDelivered := by
  have hdelivers : s.externalEdge = (s.measured last).deliverEdge .external := by
    unfold State.externalEdge
    rw [measure_period hl]
    rcases h with h | h <;> simp only [h]
  exact hdelivers.trans (deliverEdge_untriggered (s := s.measured last) .external (.inl hi))

theorem externalEdge_ignored (h : s.cc.sync.state = .internal ∨ s.cc.sync.state = .manualInternal) :
    s.externalEdge = s := by
  unfold State.externalEdge
  rcases h with h | h <;> simp only [h]

theorem externalEdge_detecting (h : s.cc.sync.state = .detecting) (hl : s.cc.sync.lastExt = some last) :
    s.externalEdge
      = (s.measured last).withSync fun y => { y with found := y.found || decide (10 ≤ y.goodCount) } := by
  unfold State.externalEdge
  rw [measure_period hl]
  simp only [h]

theorem externalEdge_returns (h : s.cc.sync.state = .manualExternalLost) (hl : s.cc.sync.lastExt = some last)
    (hcount : 10 ≤ (s.measured last).cc.sync.goodCount) : s.externalEdge = (s.measured last).manualReturn := by
  unfold State.externalEdge
  rw [measure_period hl]
  simp only [h]
  exact if_pos hcount

end edge

theorem goodPeriod_iff {rate period : Nat} (h1 : 98000000 ≤ period * rate * 100) (h2 : period * rate * 100 ≤ 102000000) :
    goodPeriod rate period = true := by
  simp [goodPeriod, h1, h2]

/-- The return to MANUAL-EXTERNAL with no capture in progress. -/
theorem manualReturn_idle (hi : s.cc.state = .idle) :
    s.manualReturn
      = ((s.withSync fun y => { y with state := .manualExternal, gen := none }).edgeDelivered.syncSwitched).syncNotice false :=
  congrArg (fun x : State => x.syncSwitched.syncNotice false)
    (deliverEdge_untriggered (s := s.withSync fun y => { y with state := .manualExternal, gen := none }) .external (.inl hi))

/-- The SYNC notice changes LK's notices alone. -/
theorem syncNotice_frame (s : State) (b : Bool) : s.syncNotice b = { s with lk := (s.syncNotice b).lk } :=
  notifyWith_frame _ _ _

theorem syncNotice_lk (s : State) (b : Bool) : onlyNotices s.lk (s.syncNotice b).lk :=
  notifyWith_lk _ _ _

theorem syncNotice_pends (b : Bool) (hm : s.set.noticeMask.getLsbD 9 = true) :
    (s.syncNotice b).lk.pendingSet.getLsbD 9 = true :=
  notifyWith_pends (k := .sync) hm

/-- A loss sets the notice's lost flag. -/
theorem syncNotice_lost (hm : s.set.noticeMask.getLsbD 9 = true) : (s.syncNotice true).lk.gathered.syncLost = true := by
  rw [State.syncNotice, notifyWith_unmasked (k := .sync) hm]
  simp

/-! ### The generator and the loss of a source (R105, R108) -/

theorem edgeDue_eq {g : Nat} (h : s.cc.sync.gen = some g) :
    s.edgeDue? = some (g + (1000000 + s.set.syncRate / 2) / s.set.syncRate) := by
  rw [State.edgeDue?, h]
  rfl

theorem lossDue_eq {last : Nat} (h : s.cc.sync.state = .external ∨ s.cc.sync.state = .manualExternal)
    (hl : s.cc.sync.lastExt = some last) :
    s.lossDue? = some (last + (2000000 + s.set.syncRate / 2) / s.set.syncRate) := by
  rcases h with h | h <;> simp [State.lossDue?, h, hl, lossUs]

/-- The selector as its source is lost, the generator's first edge still to come. -/
def State.switched (s : State) : State :=
  s.withSync fun y =>
    { y with
      state := if y.state = .external then .internal else .manualExternalLost
      lastExt := if y.state = .external then none else y.lastExt
      goodCount := if y.state = .external then y.goodCount else 0
      gen := some s.now }

theorem sourceLost_eq (h : s.cc.sync.state = .external ∨ s.cc.sync.state = .manualExternal) :
    s.sourceLost
      = (((s.switched.deliverEdge .internal).report .syncLost [s.cc.sync.lastPeriod.getD 0]).syncNotice true).syncSwitched := by
  unfold State.sourceLost State.startGenerator State.switched State.withSync
  rcases h with h | h <;> simp only [h] <;> rfl

/-- What the loss is told with: the report, the SYNC notice with its lost flag, and the flag of the OPEN ticket. -/
def State.lossTold (period : Nat) (s : State) : State :=
  ((s.report .syncLost [period]).syncNotice true).syncSwitched

theorem lossTold_frame (period : Nat) (s : State) :
    s.lossTold period = { s with
      fb := (s.report .syncLost [period]).fb, lk := (s.lossTold period).lk
      cc := { s.cc with tickets := mapOpen (fun k => { k with syncSwitched := true }) s.cc.tickets } } := by
  unfold State.lossTold State.syncSwitched State.onOpenTicket
  rw [syncNotice_frame, report_frame]

theorem lossTold_lk (period : Nat) (s : State) : onlyNotices s.lk (s.lossTold period).lk :=
  onlyNotices_trans (report_lk s _ _) (syncNotice_lk _ _)

theorem lossTold_pends (period : Nat) (hm : s.set.noticeMask.getLsbD 9 = true) :
    (s.lossTold period).lk.pendingSet.getLsbD 9 = true ∧ (s.lossTold period).lk.gathered.syncLost = true := by
  have hm' : (s.report .syncLost [period]).set.noticeMask.getLsbD 9 = true := by rw [report_set]; exact hm
  exact ⟨syncNotice_pends true hm', syncNotice_lost hm'⟩

/-! ### The trigger of a FIXED capture (R118, R63) -/

/-- The OPEN ticket as its capture is triggered: E, the levels and the source (R118). -/
def Ticket.fired (lux : Nat) (levels : PerBank Nat) (src : SyncSource) (k : Ticket) : Ticket :=
  { k with startLux := some lux, startLevels := some levels, source := some src }

/-- The part with the cameras of the covered sides triggered. -/
def State.fired (k : Ticket) (src : SyncSource) (s : State) : State :=
  { s with
    cc := { s.cc.fire k s.now with
      tickets := mapOpen (Ticket.fired s.di.lux (PerBank.of s.triggerLevel) src) s.cc.tickets }
    lc := { s.lc with window := s.lc.window.map (Window.atTrigger s.startLevels) } }

theorem trigger_fixed {k : Ticket} (src : SyncSource) (h : s.openTicket? = some k) (hm : k.mode = .fixed) :
    s.trigger src = s.fired k src := by
  have htest : ∀ (n : Nat) (x : State), x.testTarget k n = x := fun n x => by simp only [State.testTarget, hm]
  simp only [State.trigger, h, htest]
  rfl

/-- The OPEN ticket of a fired capture. -/
theorem fired_openTicket {k : Ticket} (src : SyncSource) (h : s.openTicket? = some k) :
    (s.fired k src).openTicket? = some (k.fired s.di.lux (PerBank.of s.triggerLevel) src) :=
  have hopen : k.closed = false := openTicket_closed h
  openTicket_mapOpen h rfl hopen

/-! ### The end of the detection watch (R106, 11 R191) -/

theorem watchDue_eq (h : s.cc.sync.state = .detecting) : s.watchDue? = some s.cc.sync.watchEnd :=
  if_pos h

/-- What the end of the watch leaves with no capture in progress: the selector, and the SYNC notice. -/
theorem watchEnded_leaves (hi : s.cc.state = .idle) :
    s.watchEnded.cc.sync.state = (if s.cc.sync.found then .external else .internal)
    ∧ (s.cc.sync.found = false →
        s.watchEnded.cc.sync.gen = some s.now ∧ s.watchEnded.cc.sync.delivered = some s.now)
    ∧ (s.set.noticeMask.getLsbD 9 = true → s.watchEnded.lk.pendingSet.getLsbD 9 = true)
    ∧ s.watchEnded = { s with lc := s.watchEnded.lc, cc := s.watchEnded.cc, lk := s.watchEnded.lk }
    ∧ onlyNotices s.lk s.watchEnded.lk := by
  cases hf : s.cc.sync.found with
  | true =>
    have hended : s.watchEnded = (s.withSync fun y => { y with state := .external }).syncNotice false := by
      simp [State.watchEnded, hf]
    rw [hended]
    refine ⟨?_, nofun, fun hm => syncNotice_pends false hm, ?_, syncNotice_lk _ _⟩
    · rw [syncNotice_frame]; rfl
    · rw [syncNotice_frame]; rfl
  | false =>
    have hended : s.watchEnded = ((s.withSync fun y =>
        { y with state := .internal, lastExt := none, gen := some s.now }).edgeDelivered).syncNotice false := by
      simp only [State.watchEnded, hf, Bool.false_eq_true, if_false]
      exact congrArg (State.syncNotice false)
        (startGenerator_idle (s := s.withSync fun y => { y with state := .internal, lastExt := none }) hi)
    rw [hended]
    refine ⟨?_, fun _ => ?_, fun hm => syncNotice_pends false hm, ?_, syncNotice_lk _ _⟩
    · rw [syncNotice_frame]; rfl
    · rw [syncNotice_frame]; exact ⟨rfl, rfl⟩
    · rw [syncNotice_frame]; rfl

/-- After start-up the end of the watch is no more than that. -/
theorem syncWatchEnded_started (h : s.start.phase ≠ .detecting) : s.syncWatchEnded = s.watchEnded :=
  if_neg h

theorem syncWatchEnded_waits (h : s.start.phase = .detecting) (hg : s.pins.guardOpen = true) :
    s.syncWatchEnded = { s.watchEnded with
      start := { s.watchEnded.start with phase := .guardWait, guardWaits := s.watchEnded.start.guardWaits + 1 } } :=
  (if_pos h).trans (if_pos hg)

theorem syncWatchEnded_homes (h : s.start.phase = .detecting) (hg : s.pins.guardOpen = false) :
    s.syncWatchEnded = s.watchEnded.startHoming :=
  (if_pos h).trans (if_neg (by simp [hg]))

/-- A kind pending stays pending as another is told. -/
theorem notifyWith_keeps {n : Nat} (s : State) (k : NoticeKind) (f : Gathered → Gathered)
    (h : s.lk.pendingSet.getLsbD n = true) : (s.notifyWith k f).lk.pendingSet.getLsbD n = true := by
  cases hm : s.set.noticeMask.getLsbD k.bit with
  | false => rw [notifyWith_masked hm]; exact h
  | true => rw [notifyWith_unmasked hm]; simp [h]

theorem startHoming_keeps {n : Nat} (h : s.lk.pendingSet.getLsbD n = true) :
    s.startHoming.lk.pendingSet.getLsbD n = true := by
  by_cases hends : s.pins.platenUp = true ∧ s.pins.armPark = true
  · obtain ⟨hup, hpark⟩ := hends
    rw [startHoming_ends hup hpark, homingDone_eq, endHoming_starting]
    · exact notifyWith_keeps _ _ _ h
    · nofun
  · rw [startHoming_drives (by simpa only [not_and_or, Bool.not_eq_true] using hends)]
    exact h

/-- In cold start the guard wait or the homing step follows the end of the watch, in TC's part, the start-up record and the
notices alone. -/
theorem syncWatchEnded_cold (h : s.start.phase = .detecting) :
    s.syncWatchEnded = { s.watchEnded with
      tc := s.syncWatchEnded.tc, start := s.syncWatchEnded.start, lk := s.syncWatchEnded.lk }
    ∧ onlyNotices s.watchEnded.lk s.syncWatchEnded.lk
    ∧ (∀ n, s.watchEnded.lk.pendingSet.getLsbD n = true → s.syncWatchEnded.lk.pendingSet.getLsbD n = true) := by
  cases hg : s.pins.guardOpen with
  | true =>
    rw [syncWatchEnded_waits h hg]
    exact ⟨rfl, onlyNotices_refl _, fun _ => id⟩
  | false =>
    rw [syncWatchEnded_homes h hg]
    obtain ⟨hframe, hlk⟩ := startHoming_frame s.watchEnded
    exact ⟨hframe, hlk, fun _ => startHoming_keeps⟩

/-! ### The edges and the loss (O52) -/

/-- The generator's edge at its instant, with no capture that waits for it. -/
theorem exec_internalSyncEdge {g : Nat} {t : State} (hs : s.quiet) (hg : s.cc.sync.gen = some g)
    (hnow : s.endsNow (g + (1000000 + s.set.syncRate / 2) / s.set.syncRate))
    (h : ((s.goTo (g + (1000000 + s.set.syncRate / 2) / s.set.syncRate)).withSync fun y =>
      { y with gen := some (max s.now (g + (1000000 + s.set.syncRate / 2) / s.set.syncRate)) }).deliverEdge .internal = t)
    (hq : t.lk.queue = []) (hr : t.runQuiet) : exec .internalSyncEdge s = .next t.kick := by
  obtain ⟨hp, -, -⟩ := hs
  exact timer_next hp (edgeDue_eq hg) hnow h hq hr

/-- The loss of the external source, where the generator's first edge makes `x` of the part. -/
theorem exec_syncLoss {last due : Nat} {x : State} (hs : s.quiet)
    (h : s.cc.sync.state = .external ∨ s.cc.sync.state = .manualExternal) (hl : s.cc.sync.lastExt = some last)
    (hdue : due = last + (2000000 + s.set.syncRate / 2) / s.set.syncRate) (hnow : s.endsNow due)
    (hx : (s.goTo due).switched.deliverEdge .internal = x) (hlk : x.lk = s.lk) (hrc : x.rc = s.rc) :
    exec .syncLoss s = .next (State.kick (x.lossTold (s.cc.sync.lastPeriod.getD 0))) := by
  obtain ⟨hp, hqueue, hquiet⟩ := hs
  have htold := lossTold_lk (s.cc.sync.lastPeriod.getD 0) x
  refine timer_next hp ((lossDue_eq h hl).trans (congrArg some hdue.symm)) hnow
    ((sourceLost_eq (s := s.goTo due) h).trans (by rw [hx]; rfl)) (by rw [htold, hlk]; exact hqueue) ?_
  exact runQuiet_rc (s := s) (by rw [lossTold_frame]; exact hrc) hquiet

/-- Settles O52, by the event and by the selector's state. -/
theorem syncEdgesAndLosses : Obligations.SyncEdgesAndLosses := by
  refine ⟨fun s after at' hs hi hat hnow => ?edge, fun s g due hs hi hg hdue hnow => ?generator,
    fun s last due hs h hl hdue hnow => ?loss, fun s hs hd hstarted hi hnow => ?watch,
    fun s hs hd hphase hi hnow => ?cold⟩
  case edge =>
    subst hat
    obtain ⟨hp, hqueue, hquiet⟩ := id hs
    obtain ⟨x, hx⟩ : ∃ x, x = { s with now := s.now + after } := ⟨_, rfl⟩
    have hrc : x.rc = s.rc := by rw [hx]
    have hgood : ∀ last, 98000000 ≤ (s.now + after - last) * s.set.syncRate * 100 →
        (s.now + after - last) * s.set.syncRate * 100 ≤ 102000000 →
        x.measured last = x.withSync fun y => { y with
          lastExt := some (s.now + after), lastPeriod := some (s.now + after - last), goodCount := y.goodCount + 1 } := by
      intro last h1 h2
      have hgood := goodPeriod_iff h1 h2
      rw [hx]
      unfold State.measured
      dsimp only
      rw [hgood]
      rfl
    refine ⟨fun last h hl => ?delivers, fun h => ?ignored, fun last h hl h1 h2 => ?detecting,
      fun last h hl h1 h2 h9 => ?returns⟩
    case delivers =>
      refine ⟨_, exec_externalSyncEdge (t := (x.measured last).edgeDelivered) hs hnow
        (by rw [← hx]; exact externalEdge_delivers (by rw [hx]; exact h) (by rw [hx]; exact hl) (by rw [hx]; exact hi))
        (by rw [hx]; exact hqueue) (runQuiet_rc (s := s) (by rw [hx]; rfl) hquiet), ?_⟩
      rw [kick_now, kick_cc, kick_lc, kick_tc, kick_di, kick_fb, kick_set, hx]
      exact ⟨rfl, rfl, rfl, rfl, rfl, rfl, rfl, rfl, rfl, rfl, rfl⟩
    case ignored =>
      exact exec_externalSyncEdge hs hnow (externalEdge_ignored (s := { s with now := s.now + after }) h) hqueue
        (runQuiet_rc (s := s) rfl hquiet)
    case detecting =>
      refine exec_externalSyncEdge hs hnow ?_ hqueue (runQuiet_rc (s := s) rfl hquiet)
      rw [← hx, externalEdge_detecting (by rw [hx]; exact h) (by rw [hx]; exact hl), hgood last h1 h2, hx]
      rfl
    case returns =>
      have hmeasured := hgood last h1 h2
      have hcount : (x.measured last).cc.sync.goodCount = 10 := by rw [hmeasured, hx]; exact congrArg (· + 1) h9
      have hreturn := externalEdge_returns (s := x) (last := last) (by rw [hx]; exact h) (by rw [hx]; exact hl)
        (by rw [hcount])
      rw [manualReturn_idle (by rw [hx]; exact hi)] at hreturn
      obtain ⟨y, hy⟩ : ∃ y, y = (((x.measured last).withSync fun y =>
        { y with state := .manualExternal, gen := none }).edgeDelivered).syncSwitched := ⟨_, rfl⟩
      rw [← hy] at hreturn
      have hnotices := syncNotice_lk y false
      refine ⟨_, exec_externalSyncEdge (t := y.syncNotice false) hs hnow (by rw [← hx]; exact hreturn)
        (by rw [hnotices, hy, hx]; exact hqueue) (runQuiet_rc (s := s) (by rw [syncNotice_frame, hy, hx]; rfl) hquiet),
        ?_, ?_, ?_, ?_, ?_, ?_, ?_, ?_, ?_, fun hm hb => ?notice⟩
      case notice =>
        rw [kick_busy (by rw [hnotices, hy, hx]; exact hb)]
        exact syncNotice_pends false (by rw [hy, hx]; exact hm)
      · rw [kick_cc, syncNotice_frame, hy]; rfl
      · rw [kick_cc, syncNotice_frame, hy]; rfl
      · rw [kick_cc, syncNotice_frame, hy, hx]; rfl
      · rw [kick_lc, syncNotice_frame, hy, hx]; rfl
      · rw [kick_now, syncNotice_frame, hy, hx]; rfl
      · rw [kick_fb, syncNotice_frame, hy, hx]; rfl
      · rw [kick_tc, syncNotice_frame, hy, hx]; rfl
      · rw [kick_di, syncNotice_frame, hy, hx]; rfl
      · rw [kick_set, syncNotice_frame, hy, hx]; rfl
  case generator =>
    subst hdue
    obtain ⟨-, hqueue, hquiet⟩ := id hs
    refine ⟨_, exec_internalSyncEdge hs hg hnow (deliverEdge_untriggered .internal (.inl hi)) hqueue
      (runQuiet_rc (s := s) rfl hquiet), ?_⟩
    rw [kick_now, kick_cc, kick_lc, kick_tc, kick_di, kick_fb, kick_set]
    exact ⟨rfl, rfl, rfl, rfl, rfl, rfl, rfl, rfl⟩
  case loss =>
    refine ⟨fun hcc => ?untriggered, fun k hcc hk hm => ?triggers⟩
    case untriggered =>
      have hx := deliverEdge_untriggered .internal (s := (s.goTo due).switched) hcc
      have hexec := exec_syncLoss hs h hl hdue hnow hx rfl rfl
      obtain ⟨x, hxd⟩ : ∃ x, x = (s.goTo due).switched.edgeDelivered := ⟨_, rfl⟩
      rw [← hxd] at hexec
      have hframe := lossTold_frame (s.cc.sync.lastPeriod.getD 0) x
      have hlk := lossTold_lk (s.cc.sync.lastPeriod.getD 0) x
      refine ⟨_, hexec, ?_, ?_, ?_, ?_, ?_, ?_, ?_, ?_, fun hm hb => ?notice, ?_, ?_, ?_, ?_⟩
      case notice =>
        rw [kick_busy (by rw [hlk, hxd]; exact hb)]
        exact lossTold_pends _ (by rw [hxd]; exact hm)
      · rw [kick_now, hframe, hxd]; rfl
      · rw [kick_cc, hframe, hxd]; rfl
      · rw [kick_cc, kick_now, hframe, hxd]; rfl
      · rw [kick_cc, kick_now, hframe, hxd]; rfl
      · rw [kick_cc, hframe, hxd]; rfl
      · rw [kick_fb, kick_now, hframe, hxd]
        refine report_banks ⟨?_, ?_, ?_, ?_⟩ _ _ <;> rfl
      · rw [kick_cc, hframe, hxd]; rfl
      · rw [kick_lc, kick_now, hframe, hxd]; rfl
      · rw [kick_tc, hframe, hxd]; rfl
      · rw [kick_di, hframe, hxd]; rfl
      · rw [kick_sau, hframe, hxd]; rfl
      · rw [kick_set, hframe, hxd]; rfl
    case triggers =>
      have hk' : (s.goTo due).switched.edgeDelivered.openTicket? = some k := hk
      have hx := (deliverEdge_triggers .internal (s := (s.goTo due).switched) hcc).trans (trigger_fixed .internal hk' hm)
      have hexec := exec_syncLoss hs h hl hdue hnow hx rfl rfl
      have hfired := fired_openTicket .internal hk'
      have hopen : k.closed = false := openTicket_closed hk
      obtain ⟨x, hxd⟩ : ∃ x, x = (s.goTo due).switched.edgeDelivered.fired k .internal := ⟨_, rfl⟩
      rw [← hxd] at hexec hfired
      have hframe := lossTold_frame (s.cc.sync.lastPeriod.getD 0) x
      refine ⟨_, hexec, _, openTicket_mapOpen hfired (by rw [kick_cc, hframe]) hopen, ?_, ?_, ?_, rfl, rfl,
        rfl, rfl, rfl, ?_, ?_, ?_, ?_, ?_⟩
      · rw [kick_cc, hframe, hxd]; rfl
      · rw [kick_cc, kick_now, hframe, hxd]; rfl
      · rw [kick_now, hframe, hxd]; rfl
      · rw [kick_fb, kick_now, hframe, hxd]
        refine report_banks ⟨?_, ?_, ?_, ?_⟩ _ _ <;> rfl
      · rw [kick_tc, hframe, hxd]; rfl
      · rw [kick_di, hframe, hxd]; rfl
      · rw [kick_sau, hframe, hxd]; rfl
      · rw [kick_set, hframe, hxd]; rfl
  case watch =>
    obtain ⟨hp, hqueue, hquiet⟩ := hs
    have hphase : s.start.phase ≠ .detecting := fun h => by simp [State.starting, h] at hstarted
    obtain ⟨x, hx⟩ : ∃ x, x = s.goTo s.cc.sync.watchEnd := ⟨_, rfl⟩
    obtain ⟨hstate, hgen, hpend, hframe, hlk⟩ := watchEnded_leaves (s := x) (by rw [hx]; exact hi)
    have hxnow : x.now = max s.now s.cc.sync.watchEnd := by rw [hx]; rfl
    have hnowx : x.watchEnded.now = x.now := by rw [hframe]
    refine ⟨_, timer_next (t := x.watchEnded) hp (watchDue_eq hd) hnow
      (by rw [← hx]; exact syncWatchEnded_started (by rw [hx]; exact hphase)) (by rw [hlk, hx]; exact hqueue)
      (runQuiet_rc (s := s) (by rw [hframe, hx]; rfl) hquiet), ?_, ?_, fun hf => ?found, fun hm hb => ?notice, ?_, ?_, ?_, ?_, ?_⟩
    case found =>
      rw [kick_cc, kick_now, hnowx]
      exact hgen (by rw [hx]; exact hf)
    case notice =>
      rw [kick_busy (by rw [hlk, hx]; exact hb)]
      exact hpend (by rw [hx]; exact hm)
    · rw [kick_now, hnowx, hxnow]
    · rw [kick_cc, hstate, hx]; rfl
    · rw [kick_tc, hframe, hx]; rfl
    · rw [kick_di, hframe, hx]; rfl
    · rw [kick_sau, hframe, hx]; rfl
    · rw [kick_set, hframe, hx]; rfl
    · rw [kick_fb, hframe, hx]; rfl
  case cold =>
    obtain ⟨hp, hqueue, hquiet⟩ := hs
    obtain ⟨x, hx⟩ : ∃ x, x = s.goTo s.cc.sync.watchEnd := ⟨_, rfl⟩
    obtain ⟨hstate, hgen, hpend, hframe, hlk⟩ := watchEnded_leaves (s := x) (by rw [hx]; exact hi)
    have hxnow : x.now = max s.now s.cc.sync.watchEnd := by rw [hx]; rfl
    have hnowx : x.watchEnded.now = x.now := by rw [hframe]
    have hxphase : x.start.phase = .detecting := by rw [hx]; exact hphase
    obtain ⟨hcold, hcoldLk, hkeeps⟩ := syncWatchEnded_cold (s := x) hxphase
    refine ⟨_, timer_next (t := x.syncWatchEnded) hp (watchDue_eq hd) hnow (by rw [← hx]) (by rw [hcoldLk, hlk, hx]; exact hqueue)
      (runQuiet_rc (s := s) (by rw [hcold, hframe, hx]; rfl) hquiet), ?_, ?_, fun hf => ?found, fun hm hb => ?notice,
      fun hg => ?waits, fun hg => ?homes, ?frame⟩
    case found =>
      rw [kick_cc, kick_now, hcold, hnowx]
      exact hgen (by rw [hx]; exact hf)
    case notice =>
      rw [kick_busy (by rw [hcoldLk, hlk, hx]; exact hb)]
      exact hkeeps _ (hpend (by rw [hx]; exact hm))
    case waits =>
      rw [kick_tc, kick_start, syncWatchEnded_waits hxphase (by rw [hx]; exact hg), hframe, hx]
      exact ⟨rfl, rfl⟩
    case homes =>
      rw [syncWatchEnded_homes hxphase (by rw [hx]; exact hg)]
      refine startHoming_cold ?_ ?_ ?_ ?_ ?_
      · rw [hframe, hx]; exact ⟨rfl, rfl⟩
      · rw [hframe, hx]; rfl
      · rw [hframe, hx]; rfl
      · rw [hframe, hx]; rfl
      · rw [hlk, hx]; rfl
    case frame =>
      refine (kick_frame _).trans ?_
      rw [kick_now, kick_tc, kick_lc, kick_cc, kick_start, hcold, hframe, hx]
      rfl
    · rw [kick_now, hcold, hnowx, hxnow]
    · rw [kick_cc, hcold, hstate, hx]; rfl

end Sys2Proof.Machine
end

