-- ==== Sys2Proof/Proofs/Exposure.lean ====
section
/-! The exposure of a capture (05 sections 5.3 and 5.5): the settle time and the trigger (R118), the lamps-off condition
(R119), and the frames that close the ticket (R120, R122). -/

namespace Sys2Proof.Machine

variable {s : State}

/-! ### Settle and trigger (R118) -/

theorem settleDue_eq {k : Ticket} (h : s.cc.state = .settle) (hk : s.openTicket? = some k) :
    s.settleDue? = some (s.cc.openedAt + k.settle * 1000) := by
  simp only [State.settleDue?, h, hk]

/-- With no edge delivered in the same event, CC waits for one. -/
theorem settleEnded_waits (h : s.cc.sync.delivered ≠ some s.now) :
    s.settleEnded = { s with cc := { s.cc with state := .waitEdge } } :=
  if_neg h

/-! ### Camera A alone (R119) -/

/-- Camera A is the one triggered camera. -/
def Cc.aloneA (c : Cc) : Prop :=
  c.camA.triggered = true ∧ c.camB.triggered = false

theorem allTriggered_aloneA {c : Cc} (f : Cam → Bool) (h : c.aloneA) : c.allTriggered f = f c.camA := by
  obtain ⟨ha, hb⟩ := h
  simp [Cc.allTriggered, ha, hb]

/-- With a frame still to come and its limit not passed, the ticket stays OPEN. -/
theorem tryClose_waits (ha : s.cc.aloneA) (hst : s.cc.camA.stored = false) (hl : s.cc.limitPassed = false) :
    s.tryClose = s := by
  unfold State.tryClose
  rw [allTriggered_aloneA _ ha, hst, hl]
  exact if_neg (by simp)

/-- The part with the lamps off and the frame still to come. -/
def State.collecting (s : State) : State :=
  { s.endWindow with cc := { s.cc with state := .collect, lampsOffAt := some s.now } }

/-- The lamps-off condition of a capture on camera A, its frame still to come. -/
theorem tryLampsOff_collects (hc : s.cc.state = .expose) (he : s.cc.elapsed = true) (ha : s.cc.aloneA)
    (hd : s.cc.camA.done = true) (hst : s.cc.camA.stored = false) (hl : s.cc.limitPassed = false) :
    s.tryLampsOff = s.collecting := by
  have hoff : s.tryLampsOff = s.lampsOff := if_pos ⟨hc, he, by rw [allTriggered_aloneA _ ha]; exact hd⟩
  have hcoll : { s.endWindow with cc := { s.endWindow.cc with state := .collect, lampsOffAt := some s.endWindow.now } }
      = s.collecting := by
    rw [endWindow_cc, endWindow_now]
    rfl
  rw [hoff]
  unfold State.lampsOff
  dsimp only
  rw [hcoll]
  exact tryClose_waits (s := s.collecting) ha hst hl

/-- With the exposure still running the lamps stay lit. -/
theorem tryLampsOff_exposing (hc : s.cc.aloneA) (hd : s.cc.camA.done = false) : s.tryLampsOff = s :=
  if_neg fun h => by
    obtain ⟨-, -, hdone⟩ := h
    rw [allTriggered_aloneA _ hc, hd] at hdone
    exact Bool.false_ne_true hdone

/-- What the lamps' end leaves. -/
theorem collecting_leaves (s : State) :
    s.collecting.cc = { s.cc with state := .collect, lampsOffAt := some s.now } ∧ s.collecting.dark
    ∧ s.collecting.lc.window = none ∧ s.collecting.now = s.now ∧ s.collecting.tc = s.tc ∧ s.collecting.sau = s.sau
    ∧ s.collecting.fb = s.fb ∧ s.collecting.pins = s.pins ∧ s.collecting.rc = s.rc ∧ s.collecting.lk = s.lk :=
  ⟨rfl, endWindow_dark s, endWindow_window s, endWindow_now s, endWindow_tc s, endWindow_sau s, endWindow_fb s,
    endWindow_pins s, endWindow_rc s, endWindow_lk s⟩

theorem exposure_eq {t0 : Nat} {k : Ticket} (ht : s.cc.triggeredAt = some t0) (hk : s.openTicket? = some k) :
    s.exposure? = some (t0, k.exposure) := by
  simp only [State.exposure?, ht, hk]

/-- A triggered camera drops EXPOSING after it has raised it. -/
theorem cameraExposing_drops {cam : Camera} {ready : Bool} (ht : (s.cc.cam cam).triggered = true)
    (hr : (s.cc.cam cam).raised = true) :
    s.cameraExposing cam false ready
      = State.camDone cam { s with pins := (s.pins.setReady cam ready).setExposing cam false } := by
  unfold State.cameraExposing
  dsimp only
  rw [if_pos ht, if_neg Bool.false_ne_true, if_pos hr]

/-- Settles O53, by the event. -/
theorem settleTriggerAndLampsOff : Obligations.SettleTriggerAndLampsOff := by
  refine ⟨fun s k hs hk => ⟨fun hc hd hnow => ?settle, fun g hc hm hg hnow => ?edge⟩,
    fun s k t0 hs hk hl hres hc ht0 hat had has hbt hlim =>
      ⟨fun ready he hr => ?exposing, fun he hnow => ?elapsed, fun he hnow => ?timeout⟩⟩
  case settle =>
    obtain ⟨hp, hqueue, hquiet⟩ := hs
    exact timer_next hp (settleDue_eq hc hk) hnow (settleEnded_waits (s := s.goTo _) hd) hqueue
      (runQuiet_rc (s := s) rfl hquiet)
  case edge =>
    obtain ⟨-, hqueue, hquiet⟩ := id hs
    obtain ⟨due, hdue⟩ : ∃ due, due = g + (1000000 + s.set.syncRate / 2) / s.set.syncRate := ⟨_, rfl⟩
    rw [← hdue] at hnow
    obtain ⟨y, hy⟩ : ∃ y : State, y = (s.goTo due).withSync fun y => { y with gen := some (max s.now due) } := ⟨_, rfl⟩
    have hcy : y.cc.state = .waitEdge := by rw [hy]; exact hc
    have hkx : y.edgeDelivered.openTicket? = some k := by rw [hy]; exact hk
    have hfires : y.deliverEdge .internal = y.edgeDelivered.fired k .internal :=
      (deliverEdge_triggers .internal hcy).trans (trigger_fixed .internal hkx hm)
    obtain ⟨x, hx⟩ : ∃ x : State, x = y.edgeDelivered := ⟨_, rfl⟩
    rw [← hx] at hkx hfires
    rw [hy] at hx
    have hexec := exec_internalSyncEdge (t := x.fired k .internal) hs hg (by rw [← hdue]; exact hnow)
      (by rw [← hdue, ← hy]; exact hfires) (by rw [hx]; exact hqueue) (runQuiet_rc (s := s) (by rw [hx]; rfl) hquiet)
    have hopen := fired_openTicket .internal hkx
    refine ⟨_, hexec, k.fired x.di.lux (PerBank.of x.triggerLevel) .internal, ?_, ?_, ?_, ?_, ?_, ?_, rfl, rfl, rfl, rfl,
      ?_, ?_, ?_, ?_, ?_⟩
    · unfold State.openTicket? at hopen ⊢
      rw [kick_cc]
      exact hopen
    · rw [kick_cc]; rfl
    · rw [kick_cc, kick_now]; rfl
    · rw [kick_cc, hx]
      cases hleft : k.left <;> simp [State.fired, Cc.fire, hleft, Cam.fire, State.edgeDelivered, State.withSync, State.goTo]
    · rw [kick_cc, hx]
      cases hright : k.right <;> simp [State.fired, Cc.fire, hright, Cam.fire, State.edgeDelivered, State.withSync, State.goTo]
    · rw [hx]; rfl
    · rw [kick_tc, hx]; rfl
    · rw [kick_di, hx]; rfl
    · rw [kick_sau, hx]; rfl
    · rw [kick_fb, hx]; rfl
    · rw [kick_set, hx]; rfl
  case exposing =>
    obtain ⟨hp, hqueue, hquiet⟩ := hs
    obtain ⟨x, hx⟩ : ∃ x : State, x = { s with
        pins := { s.pins with readyA := ready, exposingA := false }
        cc := { s.cc with camA := { s.cc.camA with done := true } } } := ⟨_, rfl⟩
    have hcollects : s.cameraExposing .a false ready = x.collecting := by
      have hdone : s.cameraExposing .a false ready = x.tryLampsOff := by
        rw [cameraExposing_drops (s := s) (cam := .a) hat hr, hx]
        rfl
      rw [hdone]
      exact tryLampsOff_collects (by rw [hx]; exact hc) (by rw [hx]; exact he) (by rw [hx]; exact ⟨hat, hbt⟩) (by rw [hx])
        (by rw [hx]; exact has) (by rw [hx]; exact hlim)
    obtain ⟨hcc, hdark, hwindow, hnow, htc, hsau, hfb, hpins, hrc, hlk⟩ := collecting_leaves x
    refine ⟨_, pinEvent_next hp hcollects (by rw [hlk, hx]; exact hqueue) (runQuiet_rc (s := s) (by rw [hrc, hx]) hquiet),
      ?_⟩
    rw [kick_cc, kick_tc, kick_sau, kick_fb, kick_pins, kick_lc, hcc, htc, hsau, hfb, hpins, hx]
    rw [hx] at hdark hwindow
    exact ⟨rfl, fun b => by rw [kick_lc]; exact hdark b, hwindow, rfl, rfl, rfl, rfl, rfl, rfl⟩
  case elapsed =>
    obtain ⟨hp, hqueue, hquiet⟩ := hs
    have hdue : s.elapsedDue? = some (t0 + k.exposure * 1000) := by
      rw [State.elapsedDue?, exposure_eq ht0 hk, if_pos ⟨hc, he⟩]
      rfl
    exact timer_next hp hdue hnow (tryLampsOff_exposing (s := { s.goTo (t0 + k.exposure * 1000) with
      cc := { s.cc with elapsed := true } }) ⟨hat, hbt⟩ had) hqueue (runQuiet_rc (s := s) rfl hquiet)
  case timeout =>
    obtain ⟨hp, hqueue, hquiet⟩ := hs
    have hdue : s.camDue? .a = some (t0 + (k.exposure + if s.cc.camA.raised then 500 else 5) * 1000) := by
      rw [State.camDue?, exposure_eq ht0 hk]
      exact if_pos ⟨hc, hat, had⟩
    obtain ⟨x, hx⟩ : ∃ x : State, x = { s.goTo (t0 + (k.exposure + if s.cc.camA.raised then 500 else 5) * 1000) with
        cc := { s.cc with camA := { s.cc.camA with done := true } } } := ⟨_, rfl⟩
    have hcollects : x.tryLampsOff = x.collecting :=
      tryLampsOff_collects (by rw [hx]; exact hc) (by rw [hx]; exact he) (by rw [hx]; exact ⟨hat, hbt⟩) (by rw [hx])
        (by rw [hx]; exact has) (by rw [hx]; exact hlim)
    obtain ⟨hcc, hdark, hwindow, hxnow, htc, hsau, hfb, hpins, hrc, hlk⟩ := collecting_leaves x
    refine ⟨_, timer_next (t := x.collecting) hp hdue hnow (by rw [← hcollects, hx]; rfl) (by rw [hlk, hx]; exact hqueue)
      (runQuiet_rc (s := s) (by rw [hrc, hx]; rfl) hquiet), ?_⟩
    rw [kick_now, kick_cc, kick_tc, kick_sau, kick_fb, kick_pins, kick_lc, hxnow, hcc, htc, hsau, hfb, hpins, hx]
    rw [hx] at hdark hwindow
    exact ⟨rfl, rfl, fun b => by rw [kick_lc]; exact hdark b, hwindow, rfl, rfl, rfl, rfl, rfl⟩

/-! ### Frames and the close (R120, R122) -/

section close
variable {pre : List Ticket} {k : Ticket}

/-- A ticket as it closes. -/
def Ticket.closedAt (ms : Nat) (k : Ticket) : Ticket :=
  { k with closed := true, closeTime := some ms }

/-- CLOSED tickets keep their records where the OPEN one changes. -/
theorem mapOpen_closed {f : Ticket → Ticket} {l : List Ticket} (h : ∀ x ∈ l, x.closed = true) : mapOpen f l = l := by
  rw [mapOpen]
  exact (List.map_congr_left fun x hx => if_pos (h x hx)).trans (List.map_id' l)

/-- The close of the newest ticket. -/
theorem closeTicket_newest (ht : s.cc.tickets = pre ++ [k]) (hk : k.closed = false) :
    s.closeTicket.cc.state = .idle
    ∧ s.closeTicket.cc.tickets.getLast? = some (k.closedAt (s.now / 1000))
    ∧ ((∀ x ∈ pre, x.closed = true) → s.closeTicket.cc.tickets.dropLast = pre)
    ∧ s.closeTicket.cc.camA = s.cc.camA.rest := by
  obtain ⟨hidle, htickets, hcamA, -⟩ := closeTicket_cc (openTicket_newest ht hk)
  rw [ht, mapOpen_newest hk] at htickets
  refine ⟨hidle, by rw [htickets, List.getLast?_concat]; rfl, fun hpre => ?_, hcamA⟩
  rw [htickets, List.dropLast_concat, mapOpen_closed hpre]

/-- A kind pending stays pending as the backlog is tested again. -/
theorem retestBacklog_keeps {n : Nat} (h : s.lk.pendingSet.getLsbD n = true) :
    s.retestBacklog.lk.pendingSet.getLsbD n = true := by
  unfold State.retestBacklog
  dsimp only
  split
  · exact notifyWith_keeps _ _ _ h
  · exact h

/-- The CAPTURE notice of a close. -/
theorem closeTicket_pends (ht : s.openTicket? = some k) (hm : s.set.noticeMask.getLsbD 4 = true) :
    s.closeTicket.lk.pendingSet.getLsbD 4 = true := by
  unfold State.closeTicket
  rw [ht]
  exact retestBacklog_keeps (notifyWith_pends (k := .capture) hm)

/-- A triggered capture with a result on every covered side closes, its frames stored or their limit passed. -/
theorem tryClose_closes (ht : s.openTicket? = some k) (hdecided : k.decided = true) (hc : s.cc.state = .collect)
    (hframes : s.cc.limitPassed = true ∨ s.cc.allTriggered Cam.stored = true) (ho : s.tc.pendingOverforce = false)
    (hd : s.tc.pendingDwell = false) : s.tryClose = s.closeTicket := by
  have hall : s.openDecided = true := by unfold State.openDecided; rw [ht]; exact hdecided
  exact (if_pos ⟨hc, hall, by rwa [Bool.or_eq_true]⟩).trans (closeCapture_plain ho hd)

/-- A ticket of a left half alone, which takes its result. -/
theorem giveHalf_left {h : Half} {r : SideResult} (hl : k.left = some h) (hr : h.result = none) :
    k.giveHalf .a r = { k with left := some { h with result := some r } } := by
  simp [Ticket.giveHalf, Half.give, hl, hr]

/-- The part as a triggered camera stores. -/
def State.stored (cam : Camera) (ready : Bool) (s : State) : State :=
  State.onOpenTicket (Ticket.giveHalf cam .stored)
    { s with
      pins := s.pins.setReady cam ready
      cc := (s.cc.setCam cam { s.cc.cam cam with lastStored := some s.now }).setCam cam
        { s.cc.cam cam with lastStored := some s.now, stored := true } }

theorem cameraStored_triggered {cam : Camera} {ready : Bool} (h : (s.cc.cam cam).triggered = true) :
    s.cameraStored cam ready = (s.stored cam ready).tryClose :=
  if_pos h

/-- The one frame of a capture on camera A, stored, closes its ticket. -/
theorem cameraStored_closes {h : Half} (ready : Bool) (ht : s.cc.tickets = pre ++ [k]) (hk : k.closed = false)
    (hl : k.left = some h) (hr : h.result = none) (hright : k.right = none) (hc : s.cc.state = .collect)
    (ha : s.cc.aloneA) (hforce : s.tc.pendingOverforce = false) (hdwell : s.tc.pendingDwell = false) :
    (s.stored .a ready).cc.tickets
        = mapOpen (Ticket.giveHalf .a .stored) pre ++ [{ k with left := some { h with result := some .stored } }]
    ∧ s.cameraStored .a ready = (s.stored .a ready).closeTicket := by
  have ⟨hat, hbt⟩ := ha
  have htickets : (s.stored .a ready).cc.tickets
      = mapOpen (Ticket.giveHalf .a .stored) pre ++ [{ k with left := some { h with result := some .stored } }] := by
    rw [← giveHalf_left (r := .stored) hl hr, ← mapOpen_newest hk, ← ht]
    rfl
  refine ⟨htickets, (cameraStored_triggered (s := s) (cam := .a) hat).trans ?_⟩
  refine tryClose_closes (openTicket_newest htickets hk) (by simp [Ticket.decided, hright]) hc (.inr ?_) hforce hdwell
  exact allTriggered_aloneA _ (c := (s.stored .a ready).cc) ⟨hat, hbt⟩

/-- The frame limit passes on a capture whose lamps are off. -/
theorem framePassed_collect (ha : s.cc.aloneA) (hst : s.cc.camA.stored = false) (hk : s.openTicket? = some k)
    (hc : s.cc.state = .collect) :
    s.framePassed
      = State.tryClose { s with
          fb := (s.report .frameTimeout [0, k.serial]).fb, lk := (s.report .frameTimeout [0, k.serial]).lk
          cc := { s.cc with limitPassed := true, tickets := mapOpen (Ticket.giveHalf .a .noFrame) s.cc.tickets } } := by
  obtain ⟨hat, hbt⟩ := ha
  have hA : s.frameTimeout .a
      = (s.report .frameTimeout [0, k.serial]).onOpenTicket (Ticket.giveHalf .a .noFrame) := by
    unfold State.frameTimeout
    rw [hk]
    exact if_pos (by simp [Cc.cam, hat, hst])
  have hB : (s.frameTimeout .a).frameTimeout .b = s.frameTimeout .a := by
    rw [hA, State.onOpenTicket, report_frame]
    exact if_neg (by simp [Cc.cam, hbt])
  unfold State.framePassed
  rw [hB, hA, State.onOpenTicket, report_frame]
  exact if_neg (by simp [hc])

end close

/-- Settles O54, by the event. -/
theorem framesCloseTheTicket : Obligations.FramesCloseTheTicket := by
  intro s pre k h t0 hs ht hk hl hr hright hc ht0 hat has hbt hlim hdwell hforce hrun _
  obtain ⟨hp, hqueue, -⟩ := hs
  have hopen := openTicket_newest ht hk
  have hgiven : ∀ r, mapOpen (Ticket.giveHalf .a r) s.cc.tickets
      = mapOpen (Ticket.giveHalf .a r) pre ++ [{ k with left := some { h with result := some r } }] := fun r => by
    rw [ht, mapOpen_newest hk, giveHalf_left hl hr]
  have hpre : ∀ r, (∀ x ∈ pre, x.closed = true) → mapOpen (Ticket.giveHalf .a r) pre = pre := fun r => mapOpen_closed
  have hdecided : ∀ r, Ticket.decided { k with left := some { h with result := some r } } = true := fun r => by
    simp [Ticket.decided, hright]
  refine ⟨fun ready => ?stored, fun hnow => ?limit⟩
  case stored =>
    obtain ⟨x, hx⟩ : ∃ x, x = s.stored .a ready := ⟨_, rfl⟩
    have ⟨hxt, hcloses⟩ := cameraStored_closes ready ht hk hl hr hright hc ⟨hat, hbt⟩ hforce hdwell
    rw [← hx] at hxt hcloses
    have hxopen := openTicket_newest hxt hk
    obtain ⟨hidle, hlast, hdrop, hcamA⟩ := closeTicket_newest hxt hk
    obtain ⟨r, -, hexec⟩ := pinEvent_records (g := fun s1 => { s1 with pins := s1.pins.setReady .a ready }) hp hcloses
      (by rw [closeTicket_queue, hx]; exact hqueue)
      (by rw [State.runActive, closeTicket_run, hx]; exact hrun)
    refine ⟨_, hexec, ?_, fun hall => ?_, ?_, ?_, fun hm hb => ?notice, ?_, ?_, ?_, ?_, ?_⟩
    case notice =>
      rw [kick_busy (by exact (congrArg Option.isSome ((closeTicket_sending x).trans (by rw [hx]; rfl))).trans hb)]
      exact closeTicket_pends hxopen (by rw [hx]; exact hm)
    · rw [kick_cc, hlast, hx]; rfl
    · rw [kick_cc]; exact (hdrop (by rw [hpre _ hall]; exact hall)).trans (hpre _ hall)
    · rw [kick_cc]; exact hidle
    · rw [kick_cc]; exact (congrArg Cam.lastStored hcamA).trans (by rw [hx]; rfl)
    · rw [kick_tc]; exact (closeTicket_tc x).trans (by rw [hx]; rfl)
    · rw [kick_sau]; exact (closeTicket_sau x).trans (by rw [hx]; rfl)
    · rw [kick_fb]; exact (closeTicket_fb x).trans (by rw [hx]; rfl)
    · rw [kick_pins]; exact (closeTicket_pins x).trans (by rw [hx]; rfl)
    · rw [kick_now]; exact (closeTicket_now x).trans (by rw [hx]; rfl)
  case limit =>
    obtain ⟨due, hdue⟩ : ∃ due, due = t0 + (k.exposure + 500) * 1000 := ⟨_, rfl⟩
    rw [← hdue] at hnow ⊢
    have hdueEq : s.limitDue? = some due := by
      rw [State.limitDue?, hlim, exposure_eq ht0 hopen, hdue]
      rfl
    obtain ⟨y, hy⟩ : ∃ y, y = (s.goTo due).report .frameTimeout [0, k.serial] := ⟨_, rfl⟩
    have hylk : onlyNotices s.lk y.lk := by rw [hy]; exact report_lk (s.goTo due) _ _
    obtain ⟨x, hx⟩ : ∃ x : State, x = { s.goTo due with
        fb := y.fb, lk := y.lk
        cc := { s.cc with limitPassed := true, tickets := mapOpen (Ticket.giveHalf .a .noFrame) s.cc.tickets } } := ⟨_, rfl⟩
    have hxt := (show x.cc.tickets = mapOpen (Ticket.giveHalf .a .noFrame) s.cc.tickets by rw [hx]).trans (hgiven .noFrame)
    have hxopen := openTicket_newest hxt hk
    have hcloses : (s.goTo due).framePassed = x.closeTicket := by
      rw [framePassed_collect (s := s.goTo due) ⟨hat, hbt⟩ has hopen hc, ← hy]
      refine Eq.trans (by rw [hx]; rfl) (tryClose_closes hxopen (hdecided _) (by rw [hx]; exact hc) (.inl (by rw [hx]))
        (by rw [hx]; exact hforce) (by rw [hx]; exact hdwell))
    obtain ⟨hidle, hlast, hdrop, -⟩ := closeTicket_newest hxt hk
    obtain ⟨r, -, hexec⟩ := timer_records hp hdueEq hnow hcloses
      (by rw [closeTicket_queue, hx]; exact (congrArg Lk.queue hylk).trans hqueue)
      (by rw [State.runActive, closeTicket_run, hx]; exact hrun)
    have hxnow : x.now = max s.now due := by rw [hx]; rfl
    have hfb : y.fb = (State.report .frameTimeout [0, k.serial] { s with now := x.closeTicket.now }).fb := by
      rw [closeTicket_now, hxnow, hy]
      refine report_banks ⟨?_, ?_, ?_, ?_⟩ _ _ <;> rfl
    refine ⟨_, hexec, ?_, ?_, fun hall => ?_, ?_, ?_, ?_, ?_, ?_⟩
    · rw [kick_now]; exact (closeTicket_now x).trans hxnow
    · rw [kick_cc, kick_now, hlast]
      exact congrArg some (congrArg (fun n => Ticket.closedAt (n / 1000)
        { k with left := some { h with result := some .noFrame } }) (closeTicket_now x).symm)
    · rw [kick_cc]; exact (hdrop (by rw [hpre _ hall]; exact hall)).trans (hpre _ hall)
    · rw [kick_cc]; exact hidle
    · rw [kick_fb, kick_now]
      exact ((closeTicket_fb x).trans (by rw [hx])).trans hfb
    · rw [kick_tc]; exact (closeTicket_tc x).trans (by rw [hx]; rfl)
    · rw [kick_sau]; exact (closeTicket_sau x).trans (by rw [hx]; rfl)
    · rw [kick_pins]; exact (closeTicket_pins x).trans (by rw [hx]; rfl)

end Sys2Proof.Machine
end

