-- ==== Sys2Proof/Proofs/Ring.lean ====
section
/-! The ticket ring's requests (06 sections 6.4 to 6.6): TICKET READ (R132, R133), TICKET RELEASE (R134 to R136), and the
backlog (R138 to R140). -/

namespace Sys2Proof.Machine

variable {s : State} {tag : Byte}

/-! ### The backlog (R139) -/

/-- A new test of the backlog changes the condition and the notices alone. -/
theorem retestBacklog_frame (s : State) :
    s.retestBacklog = { s with
      cc := { s.cc with backlog := s.backlogCount || s.backlogAge }, lk := s.retestBacklog.lk } := by
  unfold State.retestBacklog
  dsimp only
  split
  · rw [notifyWith_frame]
  · rfl

theorem retestBacklog_lk (s : State) : onlyNotices s.lk s.retestBacklog.lk := by
  unfold State.retestBacklog
  dsimp only
  split
  · exact notifyWith_lk _ _ _
  · exact onlyNotices_refl _

/-- A condition that comes to hold is told (R140). -/
theorem retestBacklog_pends (h : (s.backlogCount || s.backlogAge) = true) (hb : s.cc.backlog = false)
    (hm : s.set.noticeMask.getLsbD 7 = true) : s.retestBacklog.lk.pendingSet.getLsbD 7 = true := by
  unfold State.retestBacklog
  dsimp only
  rw [if_pos (by simp [h, hb])]
  exact notifyWith_pends (k := .backlog) hm

/-! ### TICKET READ (R132, R133) -/

section read
variable {k : Ticket}

theorem oldestUnread_none (h : ∀ k ∈ s.cc.tickets, k.closed = false ∨ k.read = true) : s.oldestUnread? = none := by
  refine List.find?_eq_none.2 fun k hk => ?_
  rcases h k hk with h | h <;> simp [Ticket.unread, h]

theorem unreadCount_zero (h : ∀ k ∈ s.cc.tickets, k.closed = false ∨ k.read = true) : s.unreadCount = 0 := by
  refine List.countP_eq_zero.2 fun k hk => ?_
  rcases h k hk with h | h <;> simp [Ticket.unread, h]

theorem readTicket_absent {n : Nat} (h : ∀ k ∈ s.cc.tickets, k.serial ≠ n) : readTicket n s = refuse .absent s := by
  have hnone : s.cc.tickets.find? (fun t => t.serial == n) = none :=
    List.find?_eq_none.2 fun k hk => by simpa using h k hk
  simp only [readTicket, hnone]

/-- The ticket that a serial names. -/
theorem find_serial (hk : k ∈ s.cc.tickets) (h : ∀ x ∈ s.cc.tickets, x.serial = k.serial → x = k) :
    s.cc.tickets.find? (fun t => t.serial == k.serial) = some k := by
  cases hf : s.cc.tickets.find? (fun t => t.serial == k.serial) with
  | none => exact absurd (List.find?_eq_none.1 hf k hk) (by simp)
  | some x => rw [h x (List.mem_of_find?_eq_some hf) (by simpa using List.find?_some hf)]

/-- A ticket OPEN, or read before, is read with no change. -/
theorem readTicket_keeps (hk : k ∈ s.cc.tickets) (h : ∀ x ∈ s.cc.tickets, x.serial = k.serial → x = k)
    (hr : k.closed = false ∨ k.read = true) :
    readTicket k.serial s = answer .ok [.bytes k.bytes, .flag k.read] s := by
  have hunread : k.unread = false := by rcases hr with h | h <;> simp [Ticket.unread, h]
  simp only [readTicket, find_serial hk h, hunread, Bool.false_eq_true, if_false]

/-- The one ticket of a ring, CLOSED and unread, is read and its flag set. -/
theorem readTicket_marks (ht : s.cc.tickets = [k]) (hc : k.closed = true) (hr : k.read = false) :
    readTicket k.serial s
      = answer .ok [.bytes k.bytes, .flag false]
          (State.retestBacklog { s with cc := { s.cc with tickets := [{ k with read := true }] } }) := by
  simp [readTicket, ht, Ticket.unread, hc, hr, State.markRead]

end read

/-- Settles O55, by the ticket named and its state. -/
theorem ticketsAreRead : Obligations.TicketsAreRead := by
  intro tag s hs
  refine ⟨?zero, fun n hn h => ?absent, fun h => ?noneUnread, fun k hk hn hone h => ?again, fun k ht hc hr => ?first⟩
  case zero => exact exec_unchanged hs rfl rfl rfl (fun _ => nofun) rfl
  case absent =>
    exact exec_unchanged hs rfl rfl rfl (fun _ => nofun)
      ((if_neg hn).trans (readTicket_absent (s := s.holding 0x48#8 tag) h))
  case noneUnread =>
    refine exec_unchanged (i := .ticketRead tag .nextUnread) hs rfl rfl rfl (fun _ => nofun) ?_
    simp only [decisionOf, decideTicketRead, oldestUnread_none (s := s.holding 0x48#8 tag) h]
    rfl
  case again =>
    exact exec_unchanged hs rfl rfl rfl (fun _ => nofun)
      ((if_neg hn).trans (readTicket_keeps (s := s.holding 0x48#8 tag) hk hone h))
  case first =>
    obtain ⟨htakes, hstarted⟩ := id hs
    obtain ⟨⟨-, hqueue, hquiet⟩, -⟩ := id htakes
    obtain ⟨x, hx⟩ : ∃ x : State, x = { s.holding 0x48#8 tag with
        cc := { s.cc with tickets := [{ k with read := true }] } } := ⟨_, rfl⟩
    have hd : decisionOf (.ticketRead tag .nextUnread) (s.holding 0x48#8 tag)
        = (x.retestBacklog, ⟨.ok, [.bytes k.bytes, .flag false]⟩) := by
      have hunread : (s.holding 0x48#8 tag).oldestUnread? = some k := by
        show s.cc.tickets.find? Ticket.unread = some k
        simp [ht, Ticket.unread, hc, hr]
      simp only [decisionOf, decideTicketRead, hunread]
      exact (readTicket_marks (s := s.holding 0x48#8 tag) ht hc hr).trans (by rw [hx]; rfl)
    have hread : ∀ t ∈ x.cc.tickets, t.closed = false ∨ t.read = true := by
      rw [hx]
      rintro t (_ | ⟨_, ⟨⟩⟩)
      exact .inr rfl
    have hframe := retestBacklog_frame x
    have hlk := retestBacklog_lk x
    refine ⟨_, exec_next hs rfl rfl rfl (fun _ => nofun) hd (by rw [hlk, hx]; exact hqueue)
      (runQuiet_rc (s := s) (by rw [hframe, hx]; rfl) hquiet), ?_, fun hth => ?_, ?_, fun hsend => ?_⟩
    · rw [answered_cc, hframe, hx]
    · rw [answered_cc, hframe]
      have hcount : x.backlogCount = false := by
        rw [State.backlogCount, unreadCount_zero hread, hx]
        exact decide_eq_false (by simpa [Nat.one_le_iff_ne_zero] using hth)
      have hage : x.backlogAge = false := by rw [State.backlogAge, oldestUnread_none hread]
      rw [hcount, hage]
      rfl
    · refine (answered_frame _ _ _ _).trans ?_
      rw [answered_cc, hframe, hx]
      rfl
    · rw [answered_sending _ _ _ _ (by rw [hlk, hx]; exact hsend)]
      rfl

/-! ### TICKET RELEASE (R134 to R136) -/

section release
variable {l r : Verdict} {count : Nat}

theorem decideTicketRelease_argument {left right : Option Verdict}
    (h : count = 0 ∨ 32 < count ∨ left = none ∨ right = none) :
    decideTicketRelease count left right s = refuse .argument s := by
  cases left with
  | none => rfl
  | some l =>
  cases right with
  | none => rfl
  | some r =>
  exact if_pos (by simpa [ringSize] using h)

/-- A taken release that frees no ticket. -/
theorem decideTicketRelease_none (h0 : count ≠ 0) (h32 : ¬ 32 < count) (h : (releaseWalk l r count s []).2.serials = []) :
    decideTicketRelease count (some l) (some r) s
      = if (releaseWalk l r count s []).2.atOpen then refuse .opened s else refuse .absent s :=
  (if_neg (by simp [ringSize, h0, h32])).trans (by simp only [h])

/-- A taken release that frees some. -/
theorem decideTicketRelease_frees {first : Nat} {rest : List Nat} (h0 : count ≠ 0) (h32 : ¬ 32 < count)
    (h : (releaseWalk l r count s []).2.serials = first :: rest) :
    decideTicketRelease count (some l) (some r) s
      = answer .ok [.num (rest.length + 1), .num first, .num (rest.getLast?.getD first),
            .flag (releaseWalk l r count s []).2.atOpen]
          (releaseWalk l r count s []).1.retestBacklog.ticketFreed :=
  (if_neg (by simp [ringSize, h0, h32])).trans (by simp only [h, List.length_cons])

/-- Outside a run PAUSED with TICKETS, RC does nothing as a ticket is freed. -/
theorem ticketFreed_unpaused (h : s.rc.state ≠ .paused .tickets) : s.ticketFreed = s := by
  unfold State.ticketFreed
  split
  next hp => exact absurd hp h
  next => rfl

/-- A taken release outside such a run changes the ring, the table of openings and the notices. -/
theorem decideTicketRelease_leaves (h0 : count ≠ 0) (h32 : ¬ 32 < count) (h : s.rc.state ≠ .paused .tickets) :
    ∃ t a, decideTicketRelease count (some l) (some r) s = (t, a)
      ∧ (a.result = .ok ∨ a.result = .opened ∨ a.result = .absent) ∧ t.rc = s.rc ∧ onlyNotices s.lk t.lk := by
  have hwalk := releaseWalk_frame l r count s []
  cases hserials : (releaseWalk l r count s []).2.serials with
  | nil =>
    rw [decideTicketRelease_none h0 h32 hserials]
    split
    · exact ⟨_, _, rfl, .inr (.inl rfl), rfl, onlyNotices_refl _⟩
    · exact ⟨_, _, rfl, .inr (.inr rfl), rfl, onlyNotices_refl _⟩
  | cons first rest =>
    refine ⟨_, _, decideTicketRelease_frees h0 h32 hserials, .inl rfl, ?_, ?_⟩
    · rw [ticketFreed_unpaused (by rw [retestBacklog_rc, hwalk]; exact h), retestBacklog_rc, hwalk]
    · rw [ticketFreed_unpaused (by rw [retestBacklog_rc, hwalk]; exact h)]
      have hlk := retestBacklog_lk (releaseWalk l r count s []).1
      rw [hwalk] at hlk ⊢
      exact hlk

/-! The walk over one ticket (R135). -/

theorem releaseWalk_empty (h : s.cc.tickets = []) : releaseWalk l r 1 s [] = (s, ⟨[], false⟩) := by
  simp only [releaseWalk, h]

theorem releaseWalk_open {k : Ticket} {rest : List Ticket} (h : s.cc.tickets = k :: rest) (hc : k.closed = false) :
    releaseWalk l r 1 s [] = (s, ⟨[], true⟩) := by
  simp only [releaseWalk, h, hc, Bool.false_eq_true, if_false]

theorem releaseWalk_one {k : Ticket} {rest : List Ticket} (h : s.cc.tickets = k :: rest) (hc : k.closed = true) :
    releaseWalk l r 1 s [] = ((s.applyVerdicts k l r).freeOldest, ⟨[k.serial], false⟩) := by
  simp only [releaseWalk, h, hc, if_true]
  rfl

/-- The state that 06 Table 6-3 gives. -/
theorem verdictState_eq (res : Option SideResult) (v : Verdict) :
    verdictState res v = if res = some .stored ∧ v = .accept then .accepted else .retake := by
  unfold verdictState
  split
  next => simp
  next hne =>
    rw [if_neg]
    rintro ⟨rfl, rfl⟩
    exact hne rfl rfl

/-- The verdict on a ticket of the mounted volume with a left half alone. -/
theorem applyVerdicts_left {k : Ticket} {h : Half} {v : Volume} (hv : s.sau.volume = some v) (hm : k.mountNo = v.mountNo)
    (ho : k.orphaned = false) (hl : k.left = some h) (hr : k.right = none) (hs : h.superseded = false) :
    s.applyVerdicts k l r = s.withSideSet v h.side (verdictState h.result l) := by
  have hmount : k.ofMount v.mountNo = true := by simp [Ticket.ofMount, hm, ho]
  unfold State.applyVerdicts
  rw [hv]
  refine (if_pos hmount).trans ?_
  rw [hl, hr]
  refine Eq.trans ?_ (setSide_mounted hv)
  exact if_neg (by simp [hs])

end release

/-- Settles O56, by the count and the verdicts, and by the oldest ticket. -/
theorem releasesApplyTheVerdicts : Obligations.ReleasesApplyTheVerdicts := by
  refine ⟨fun tag count left right s hs => ?taken, fun tag l r s hs hidle => ⟨fun ht => ?empty, fun k rest ht hc => ?opened,
    fun k rest h v ht hc hv hm ho hl hr hsup => ?applied⟩⟩
  case taken =>
    split
    next h => exact exec_unchanged hs rfl rfl rfl (fun _ => nofun) (decideTicketRelease_argument h)
    next h =>
    intro hrun
    simp only [not_or] at h
    obtain ⟨h0, h32, hleft, hright⟩ := h
    obtain ⟨l, rfl⟩ := Option.ne_none_iff_exists'.1 hleft
    obtain ⟨r, rfl⟩ := Option.ne_none_iff_exists'.1 hright
    obtain ⟨htakes, hstarted⟩ := id hs
    obtain ⟨⟨-, hqueue, hquiet⟩, -⟩ := id htakes
    obtain ⟨t, a, hd, hres, hrc, hlk⟩ := decideTicketRelease_leaves (s := s.holding 0x49#8 tag) (l := l) (r := r) h0 h32 hrun
    refine ⟨_, _, exec_next (i := .ticketRelease tag count (some l) (some r)) hs rfl rfl rfl (fun _ => nofun) hd
      (by rw [hlk]; exact hqueue) (runQuiet_rc (s := s) hrc hquiet),
      fun hsend => answered_sending _ _ _ _ (by rw [hlk]; exact hsend), rfl, rfl, hres⟩
  case empty =>
    refine exec_unchanged (i := .ticketRelease tag 1 (some l) (some r)) hs rfl rfl rfl (fun _ => nofun) ?_
    have hwalk := releaseWalk_empty (l := l) (r := r) (s := s.holding 0x49#8 tag) ht
    refine (decideTicketRelease_none (count := 1) nofun (by decide) (by rw [hwalk])).trans ?_
    rw [hwalk]
    rfl
  case opened =>
    refine exec_unchanged (i := .ticketRelease tag 1 (some l) (some r)) hs rfl rfl rfl (fun _ => nofun) ?_
    have hwalk := releaseWalk_open (l := l) (r := r) (s := s.holding 0x49#8 tag) ht hc
    refine (decideTicketRelease_none (count := 1) nofun (by decide) (by rw [hwalk])).trans ?_
    rw [hwalk]
    rfl
  case applied =>
    obtain ⟨htakes, hstarted⟩ := id hs
    obtain ⟨⟨-, hqueue, hquiet⟩, -⟩ := id htakes
    obtain ⟨x, hx⟩ : ∃ x : State, x = State.freeOldest
        ((s.holding 0x49#8 tag).withSideSet v h.side (verdictState h.result l)) := ⟨_, rfl⟩
    have hwalk : releaseWalk l r 1 (s.holding 0x49#8 tag) [] = (x, ⟨[k.serial], false⟩) := by
      rw [releaseWalk_one (s := s.holding 0x49#8 tag) ht hc,
        applyVerdicts_left (s := s.holding 0x49#8 tag) hv hm ho hl hr hsup, hx]
    have hframe := retestBacklog_frame x
    have hlk := retestBacklog_lk x
    have hfreed : x.retestBacklog.ticketFreed = x.retestBacklog :=
      ticketFreed_unpaused (by rw [retestBacklog_rc, hx]; exact fun h => nomatch hidle.symm.trans h)
    have hd : decisionOf (.ticketRelease tag 1 (some l) (some r)) (s.holding 0x49#8 tag)
        = (x.retestBacklog, ⟨.ok, [.num 1, .num k.serial, .num k.serial, .flag false]⟩) := by
      refine (decideTicketRelease_frees (count := 1) nofun (by decide) (by rw [hwalk])).trans ?_
      rw [hwalk, hfreed]
      rfl
    refine ⟨_, exec_next hs rfl rfl rfl (fun _ => nofun) hd (by rw [hlk, hx]; exact hqueue)
      (runQuiet_rc (s := s) (by rw [hframe, hx]; rfl) hquiet), ?_, ?_, ?_, ?_, fun hsend => ?_⟩
    · rw [answered_cc, hframe, hx]
      exact congrArg (List.drop 1) ht
    · rw [answered_cc, hframe, hx]; rfl
    · rw [answered_sau, hframe, hx, verdictState_eq]; rfl
    · refine (answered_frame _ _ _ _).trans ?_
      rw [answered_cc, answered_sau, hframe, hx]
      rfl
    · rw [answered_sending _ _ _ _ (by rw [hlk, hx]; exact hsend)]
      rfl

/-! ### BACKLOG SET and the age (R138 to R140) -/

/-- Settles O57, by the request and by the timer. -/
theorem backlogIsSetAndAges : Obligations.BacklogIsSetAndAges := by
  refine ⟨fun tag threshold timeout s hs => ?set, fun s k rest closed hs hb ht hc hr hclosed hage => ?age⟩
  case set =>
    obtain ⟨htakes, hstarted⟩ := id hs
    obtain ⟨⟨-, hqueue, hquiet⟩, -⟩ := id htakes
    obtain ⟨x, hx⟩ : ∃ x : State, x = { s.holding 0x4A#8 tag with set := { s.set with
        backlogThreshold := clampTo 1 32 threshold, backlogTimeout := clampTo 1 600 timeout } } := ⟨_, rfl⟩
    have hd : decisionOf (.backlogSet tag threshold timeout) (s.holding 0x4A#8 tag)
        = (x.retestBacklog, ⟨.ok, [.num (clampTo 1 32 threshold), .num (clampTo 1 600 timeout),
            .flag (outside 1 32 threshold || outside 1 600 timeout)]⟩) := by
      rw [hx]
      rfl
    have hclamped : (outside 1 32 threshold || outside 1 600 timeout)
        = decide (threshold < 1 ∨ 32 < threshold ∨ timeout < 1 ∨ 600 < timeout) := by
      simp only [outside, Bool.decide_or, Bool.or_assoc]
    have hframe := retestBacklog_frame x
    have hlk := retestBacklog_lk x
    refine ⟨_, exec_next hs rfl rfl rfl (fun _ => nofun) hd (by rw [hlk, hx]; exact hqueue)
      (runQuiet_rc (s := s) (by rw [hframe, hx]; rfl) hquiet), ?_, ?_, ?_, fun hsend => ?_⟩
    · rw [answered_set, hframe, hx]; rfl
    · rw [answered_cc, hframe, hx]; rfl
    · refine (answered_frame _ _ _ _).trans ?_
      rw [answered_set, answered_cc, hframe, hx]
      rfl
    · rw [answered_sending _ _ _ _ (by rw [hlk, hx]; exact hsend), hclamped]
      rfl
  case age =>
    obtain ⟨hp, hqueue, hquiet⟩ := hs
    have hold : s.oldestUnread? = some k := by simp [State.oldestUnread?, ht, Ticket.unread, hc, hr]
    have hreached := atMs_le_of_le_clock hage
    have hdue : s.backlogDue? = some (atMs (closed + s.set.backlogTimeout * 1000)) := by
      simp [State.backlogDue?, hb, hold, hclosed]
    have hholds : (s.backlogCount || s.backlogAge) = true := by
      have hage' : s.backlogAge = true := by
        simp only [State.backlogAge, hold, hclosed]
        exact decide_eq_true hage
      rw [hage', Bool.or_true]
    have hframe := retestBacklog_frame s
    have hlk := retestBacklog_lk s
    refine ⟨_, timer_next (t := s.retestBacklog) hp hdue (Nat.div_le_div_right hreached) (by rw [goTo_reached hreached])
      (by rw [hlk]; exact hqueue) (runQuiet_rc (s := s) (retestBacklog_rc ..) hquiet), ?_, fun hm hbusy => ?_, ?_⟩
    · rw [kick_cc, hframe, hholds]
    · rw [kick_busy (by rw [hlk]; exact hbusy)]
      exact retestBacklog_pends hholds hb hm
    · refine (kick_frame _).trans ?_
      rw [kick_cc, hframe]

end Sys2Proof.Machine
end

