-- ==== Sys2Proof/Proofs/Status.lean ====
section
/-! The status requests (R54, R73, R100, R125, R112, R141, R155, R160): each is a reading of the state. -/

namespace Sys2Proof.Machine

/-- Settles O60, request by request. -/
theorem statusRequestsChangeNothing : Obligations.StatusRequestsChangeNothing := by
  intro tag s hs
  refine ⟨⟨_, exec_unchanged hs rfl rfl rfl (fun _ => nofun) rfl⟩, ⟨_, exec_unchanged hs rfl rfl rfl (fun _ => nofun) rfl⟩,
    ⟨_, exec_unchanged hs rfl rfl rfl (fun _ => nofun) rfl⟩, ⟨_, exec_unchanged hs rfl rfl rfl (fun _ => nofun) rfl⟩,
    ⟨_, exec_unchanged hs rfl rfl rfl (fun _ => nofun) rfl⟩, ⟨_, exec_unchanged hs rfl rfl rfl (fun _ => nofun) rfl⟩,
    ⟨_, exec_unchanged hs rfl rfl rfl (fun _ => nofun) rfl⟩, ⟨_, exec_unchanged hs rfl rfl rfl (fun _ => nofun) rfl⟩⟩

end Sys2Proof.Machine
end

