-- ==== Sys2Proof/Proofs/RunOps.lean ====
section
/-! RC's operations (07 R143 to R149): how a run stops and becomes ACTIVE, the outcomes of a step, and what RC makes of the
ends that TC and CC tell it of. -/

namespace Sys2Proof.Machine

variable {s t u : State}

/-! ### The run's state (R143) -/

theorem setRun_eq (s : State) (st : RunState) :
    s.setRun st = { s with rc := { s.rc with state := st }, lk := (s.setRun st).lk } := by
  unfold State.setRun State.notify
  rw [notifyWith_frame]
  rfl

theorem setRun_lk (s : State) (st : RunState) : onlyNotices s.lk (s.setRun st).lk :=
  notifyWith_lk (s.withRc fun r => { r with state := st }) _ _

/-- RC's part as its run stops in a state, at an opening. -/
def Rc.stopsIn (st : RunState) (j : Nat) (r : Rc) : Rc :=
  { r with
    state := st, phase := .none, due := none, haltRequested := false
    pauseOpening := if st = .paused .manualTurn then some j else none }

/-- The run has stopped in a state; beside RC's part the notices alone have changed. -/
def runStops (st : RunState) (s t : State) : Prop :=
  t = { s with rc := s.rc.stopsIn st s.tc.j, lk := t.lk } ∧ onlyNotices s.lk t.lk

theorem pauseRun_stops (reason : PauseReason) (s : State) : runStops (.paused reason) s (s.pauseRun reason) := by
  have hopening : (if RunState.paused reason = .paused .manualTurn then some s.tc.j else none)
      = if reason = .manualTurn then some s.tc.j else none := by cases reason <;> rfl
  unfold runStops Rc.stopsIn State.pauseRun
  rw [hopening]
  exact ⟨setRun_eq _ _, setRun_lk (s.withRc _) _⟩

theorem endRun_stops (reason : EndReason) (s : State) : runStops (.ended reason) s (s.endRun reason) := by
  unfold runStops Rc.stopsIn State.endRun
  exact ⟨setRun_eq _ _, setRun_lk (s.withRc _) _⟩

/-- With nothing heard and no step that waits, RC is quiet. -/
theorem runQuiet_of (h1 : t.rc.heardEnd = none) (h2 : t.rc.heardClose = none) (h3 : t.rc.phase ≠ .waiting) : t.runQuiet :=
  ⟨h1, h2, fun h => h3 h.2⟩

theorem runStops_quiet {st : RunState} (h : runStops st s t) (h1 : s.rc.heardEnd = none) (h2 : s.rc.heardClose = none) :
    t.runQuiet := by
  obtain ⟨h, -⟩ := h
  refine runQuiet_of ?_ ?_ ?_ <;> rw [h]
  · exact h1
  · exact h2
  · nofun

theorem runStops_queue {st : RunState} (h : runStops st s t) (hq : s.lk.queue = []) : t.lk.queue = [] := by
  obtain ⟨-, hlk⟩ := h
  rw [hlk]
  exact hq

/-- RC's part as its run becomes ACTIVE. -/
def Rc.activated (r : Rc) : Rc :=
  { r with state := .active, phase := .none, due := none, haltRequested := false, pauseOpening := none }

/-- The part with its run become ACTIVE, and the step still to begin. -/
def State.activated (s : State) : State :=
  (s.withRc fun r =>
    { r with haltRequested := false, pauseOpening := none, phase := .none, due := none }).setRun .active

theorem activateRun_eq (s : State) : s.activateRun = s.activated.runStep := rfl

theorem activated_eq (s : State) : s.activated = { s with rc := s.rc.activated, lk := s.activated.lk } :=
  setRun_eq _ _

theorem activated_lk (s : State) : onlyNotices s.lk s.activated.lk :=
  setRun_lk (s.withRc _) _

/-! ### The step (R145 to R147) -/

section step
variable {v : Volume}

/-- An opening with a PENDING left side needs capture. -/
theorem stepNeeds_pending (hv : s.sau.volume = some v) (h : (openingAt s.sau.openings s.tc.j).left = .pending) :
    s.stepNeeds = true := by
  simp [State.stepNeeds, State.mounted, hv, h, needsCapture]

/-- One with an ACCEPTED side and a BLANK one does not. -/
theorem stepNeeds_done (hl : (openingAt s.sau.openings s.tc.j).left = .accepted)
    (hr : (openingAt s.sau.openings s.tc.j).right = .blank) : s.stepNeeds = false := by
  simp [State.stepNeeds, hl, hr, needsCapture]

theorem policyClamp_mounted (hv : s.sau.volume = some v) : s.policyClamp = (v.limits.policy == .clamp) := by
  simp [State.policyClamp, State.limits?, hv]

theorem manualOnly_mounted (hv : s.sau.volume = some v) : s.manualOnly = (v.limits.turning == .manualOnly) := by
  simp [State.manualOnly, State.limits?, hv]

theorem runMaySend_iff : s.runMaySend = true ↔ s.settled = true ∧ s.ticketOpen = false := by
  simp [State.runMaySend]

theorem runStep_ends (h : s.stepNeeds = false) : s.runStep = s.endStep :=
  if_pos (by rw [h]; rfl)

/-- RC sends CAPTURE where the platen fits. -/
theorem runStep_captures (hneeds : s.stepNeeds = true) (hsend : s.runMaySend = true)
    (hfits : ¬ (s.policyClamp = true ∧ s.tc.state = .unclamped)) : s.runStep = s.runCapture := by
  unfold State.runStep
  rw [hneeds, hsend, if_neg (by simp), if_neg (by simp), if_neg (by simpa using hfits)]

/-- RC sends CLAMP in UNCLAMPED under policy CLAMP. -/
theorem runStep_clamps (hneeds : s.stepNeeds = true) (hsend : s.runMaySend = true) (hpolicy : s.policyClamp = true)
    (ht : s.tc.state = .unclamped) : s.runStep = (decideClamp false s).1.withRc fun r => { r with phase := .clamping } := by
  unfold State.runStep
  rw [hneeds, hsend, if_neg (by simp), if_neg (by simp), if_pos (by simp [hpolicy, ht])]

/-- The last opening's step ends the run. -/
theorem endStep_complete (h : s.rc.last = some s.tc.j) : s.endStep = s.endRun .complete :=
  if_pos h

variable (hlast : s.rc.last ≠ some s.tc.j) (hsend : s.runMaySend = true)
include hlast hsend

theorem endStep_manual (hm : s.manualOnly = true) :
    s.endStep
      = if s.tc.state = .clamped then (decideUnclamp false s).1.withRc fun r => { r with phase := .unclamping }
        else s.pauseRun .manualTurn := by
  unfold State.endStep
  rw [if_neg hlast, if_neg (by simp [hsend]), if_pos hm]

theorem endStep_turns (hm : s.manualOnly = false) :
    s.endStep = (decideTurn 1 (some s.policyClamp) false s).1.withRc fun r => { r with phase := .turning } := by
  unfold State.endStep
  rw [if_neg hlast, if_neg (by simp [hsend]), if_neg (by simp [hm])]

end step

/-! ### RC's requests (R145, R147) -/

/-- The record of RC's TURN from UNCLAMPED: one leaf forward. -/
def runTurn (clampAfter : Bool) : Op :=
  { kind := .turn, forward := true, remaining := 1, turned := 0, clampAfter := clampAfter, fromClamped := false, byRun := true }

section requests
variable {v : Volume} (hpreview : s.lc.preview = none) (hk : s.ticketOpen = false)
include hpreview hk

/-- RC's CLAMP begins a lowering. -/
theorem decideClamp_byRun (hv : s.sau.volume.isSome = true) (ht : s.tc.state = .unclamped) :
    decideClamp false s
      = answer .accepted [] { s with
          pins := { s.pins with platenUp := false }
          tc := { s.tc with
            op := some (platenOp .clamp true), state := .lowering, phaseStart := s.now, loweringDue := false } } := by
  simp only [decideClamp, State.mounted, hv, ht, hk, endPreview_none hpreview]
  rfl

/-- RC's UNCLAMP begins a raise. -/
theorem decideUnclamp_byRun (ht : s.tc.state = .clamped) :
    decideUnclamp false s
      = answer .accepted [] { s with tc := { s.tc with
          op := some (platenOp .unclamp true), state := .raising, phaseStart := s.now, dwellStart := none
          atForce := false, raiseGoal := some .unclamp } } := by
  simp only [decideUnclamp, ht, hk, endPreview_none hpreview]
  rfl

/-- RC's TURN of one leaf forward begins the first lift attempt. -/
theorem decideTurn_byRun (hv : s.sau.volume = some v) (ht : s.tc.state = .unclamped) (hauto : v.limits.turning = .auto)
    (hj : s.tc.j < v.n) (hleaf : v.foldouts.contains (s.tc.j + 1) = false) (c : Bool) :
    decideTurn 1 (some c) false s
      = answer .accepted [] { s with
          tc := { s.tc with op := some (runTurn c) }.attempting s.now 1 v.limits.airStart
          pins := { s.pins with armPark := false } } := by
  have htests : s.turnRefusal 1 (some c) false = none := by
    have hrange : ¬ ((v.n : Int) < (s.tc.j : Int) + 1) := by omega
    have hpos : ¬ ((s.tc.j : Int) + 1 < 0) := by omega
    simp [State.turnRefusal, hv, ht, hk, hauto, hrange, hpos]
  obtain ⟨x, hx⟩ : ∃ x : State, x = s.withTc fun t => { t with op := some (runTurn c) } := ⟨_, rfl⟩
  have hfold : x.isFoldout x.tc.nextLeaf = false := by
    rw [isFoldout_mounted (v := v) (by rw [hx]; exact hv), hx]
    exact hleaf
  have hbegins : s.beginTurn 1 c true = x.beginLeaf := by
    unfold State.beginTurn
    rw [endPreview_none hpreview]
    dsimp only
    rw [ht]
    rw [hx] at hfold ⊢
    refine (if_neg (by rw [Bool.not_eq_true]; exact hfold)).trans (if_neg (by decide)) |>.trans ?_
    rfl
  unfold decideTurn
  rw [htests]
  refine congrArg (answer .accepted []) ((hbegins).trans ?_)
  rw [beginLeaf_mounted (v := v) (by rw [hx]; exact hv), hx]
  rfl

end requests

/-! ### RC hears the end of an operation it sent (R148, R149) -/

section hears
variable {e : HeardEnd}

theorem hearEnd_halted (hb : e.byRun = true) (hr : s.runActive = true) (hh : s.rc.haltRequested = true) :
    s.hearEnd e = s.pauseRun (haltReason e.result) := by
  unfold State.hearEnd
  rw [if_pos (by simp [hb, hr]), if_pos hh]

section running
variable (hb : e.byRun = true) (hr : s.runActive = true) (hh : s.rc.haltRequested = false)
include hb hr hh

theorem hearEnd_pauses {reason : PauseReason}
    (h : (e.result = .fault ∧ reason = .turnFault) ∨ (e.result = .foldoutStop ∧ reason = .foldout)
      ∨ (e.result = .halted ∧ reason = .halt)) : s.hearEnd e = s.pauseRun reason := by
  unfold State.hearEnd
  rw [if_pos (by simp [hb, hr]), if_neg (by simp [hh])]
  rcases h with ⟨h, rfl⟩ | ⟨h, rfl⟩ | ⟨h, rfl⟩ <;> simp only [h]

theorem hearEnd_unclamped (hres : e.result = .done) (hk : e.kind = .unclamp) : s.hearEnd e = s.pauseRun .manualTurn := by
  unfold State.hearEnd
  rw [if_pos (by simp [hb, hr]), if_neg (by simp [hh])]
  simp only [hres, hk]

theorem hearEnd_goesOn (hres : e.result = .done) (hk : e.kind = .turn ∨ e.kind = .clamp) : s.hearEnd e = s.runStep := by
  unfold State.hearEnd
  rw [if_pos (by simp [hb, hr]), if_neg (by simp [hh])]
  rcases hk with hk | hk <;> simp only [hres, hk]

end running

/-- An end that RC did not send is none of its own. -/
theorem hearEnd_foreign (hb : e.byRun = false) : s.hearEnd e = s :=
  if_neg (by simp [hb])

end hears

end Sys2Proof.Machine
end

