-- ==== Sys2Proof/Proofs/RunHears.lean ====
section
/-! What RC hears inside an event (07 R146, R148): the end of an operation as TC tells it, the close of a ticket, and the
state the event then leaves. -/

namespace Sys2Proof.Machine

variable {s t u x : State} {o : Op} {st : TcState} {r : OpResult} {g : Tc → Tc}

/-! ### What TC tells (R33) -/

/-- The message of an end. -/
def State.heardOf (k : OpKind) (r : OpResult) (s : State) : HeardEnd :=
  { kind := k, result := r, byRun := (s.tc.op.map Op.byRun).getD false }

theorem tellEnd_heard (k : OpKind) (r : OpResult) (s : State) :
    s.tellEnd k r
      = { s with rc := { s.rc with heardEnd := some (s.heardOf k r) }, lk := (s.tellEnd k r).lk } := by
  unfold State.tellEnd State.heardOf
  dsimp only
  rw [notifyWith_frame]
  cases s.tc.op <;> rfl

theorem tellEnd_lk (k : OpKind) (r : OpResult) (s : State) : onlyNotices s.lk (s.tellEnd k r).lk := by
  obtain ⟨e, he⟩ := tellEnd_eq s k r
  rw [he]
  exact notifyWith_lk _ _ _

/-- TC's part as an operation ends in a state. -/
def Tc.finished (st : TcState) (t : Tc) : Tc :=
  { { t with state := st }.cleared with op := none, loweringDue := false }

theorem finishOp_heard (st : TcState) (r : OpResult) (s : State) :
    s.finishOp st r
      = { s with
          tc := s.tc.finished st, rc := { s.rc with heardEnd := some (s.heardOf s.tc.endKind r) }
          lk := (s.finishOp st r).lk } := by
  unfold State.finishOp
  dsimp only
  rw [tellEnd_heard]
  rfl

theorem finishOp_notices (st : TcState) (r : OpResult) (s : State) : onlyNotices s.lk (s.finishOp st r).lk :=
  tellEnd_lk _ _ _

/-- TC's part as an operation stops in HALTED. -/
def Tc.haltedAt (loweringDue : Bool) (t : Tc) : Tc :=
  { t with state := .halted, loweringDue := loweringDue }.cleared

theorem haltOp_heard (b : Bool) (s : State) :
    s.haltOp b
      = { s with
          tc := s.tc.haltedAt b, rc := { s.rc with heardEnd := some (s.heardOf s.tc.endKind .halted) }
          lk := (s.haltOp b).lk } := by
  unfold State.haltOp
  dsimp only
  rw [tellEnd_heard]
  rfl

theorem haltOp_notices (b : Bool) (s : State) : onlyNotices s.lk (s.haltOp b).lk :=
  tellEnd_lk _ _ _

/-- The kind of an end with no recovery in flight. -/
theorem endKind_op (ho : s.tc.op = some o) (hr : s.tc.recover = none) : s.tc.endKind = o.kind := by
  simp only [Tc.endKind, hr, ho, Option.isSome_none, Bool.false_eq_true, if_false]

theorem heardOf_op (ho : s.tc.op = some o) (hr : s.tc.recover = none) (r : OpResult) :
    s.heardOf s.tc.endKind r = { kind := o.kind, result := r, byRun := o.byRun } := by
  rw [endKind_op ho hr, State.heardOf, ho]
  rfl

/-! ### The event's end -/

/-- RC hears the end of an operation, and is quiet then. -/
theorem settle_hears {e : HeardEnd} (he : t.rc.heardEnd = some e)
    (hu : State.hearEnd e (t.withRc fun r => { r with heardEnd := none }) = u) (hq : u.lk.queue = [])
    (hr : u.runQuiet) : t.settle = u.kick := by
  have hserved : serveRun runFuel t = u := by
    unfold runFuel
    rw [serveRun, he]
    dsimp only
    rw [hu, serveRun_quiet hr]
  rw [State.settle, hserved, pumpFuel, pump_empty _ _ hq]

/-- RC hears the close of a ticket, and is quiet then. -/
theorem settle_hearsClose {n : Nat} (he : t.rc.heardEnd = none) (hc : t.rc.heardClose = some n)
    (hu : State.hearClose n (t.withRc fun r => { r with heardClose := none }) = u) (hq : u.lk.queue = [])
    (hr : u.runQuiet) : t.settle = u.kick := by
  have hserved : serveRun runFuel t = u := by
    unfold runFuel
    rw [serveRun, he, hc]
    dsimp only
    rw [hu, serveRun_quiet hr]
  rw [State.settle, hserved, pumpFuel, pump_empty _ _ hq]

/-- RC hears the end of an operation it did not send, and looks at its WAITING step. -/
theorem settle_wakes {e : HeardEnd} (he : t.rc.heardEnd = some e) (hb : e.byRun = false) (hc : t.rc.heardClose = none)
    (hu : (t.withRc fun r => { r with heardEnd := none }).wakeRun = u) (hend : u.rc.heardEnd = none)
    (hq : u.lk.queue = []) : t.settle = u.kick := by
  have hserved : serveRun runFuel t = u := by
    unfold runFuel
    rw [serveRun, he]
    dsimp only
    rw [hearEnd_foreign hb, serveRun]
    simp only [withRc_rc, hc, hu, hend, Option.isSome_none, Bool.false_eq_true, if_false]
  rw [State.settle, hserved, pumpFuel, pump_empty _ _ hq]

theorem pinEvent_settles {pin f : State → State} (hp : s.powered = true) (hf : f s = t) (h : t.settle = u) :
    (Host.Outcome.next (s.pinEvent pin f) : Host.Outcome State Fault Refusal) = .next u := by
  rw [State.pinEvent, if_pos hp, hf, h]

theorem event_settles {f : State → State} (hp : s.powered = true) (hf : f s = t) (h : t.settle = u) :
    (Host.Outcome.next (s.event f) : Host.Outcome State Fault Refusal) = .next u := by
  rw [State.event, if_pos hp, hf, h]

theorem timer_settles {due : State → Option Nat} {f : State → State} {d : Nat} (hp : s.powered = true)
    (hd : due s = some d) (hm : d / 1000 ≤ s.now / 1000) (hf : f (s.goTo d) = t) (h : t.settle = u) :
    timer due f s = .next u := by
  rw [timer, State.event, if_pos hp, atDue_present hd hm, hf, h]

/-! ### The end of an operation that RC sent (R148, R149) -/

/-- The part as RC hears of an end: TC's own part, and the TURN notice. -/
def State.afterEnd (st : TcState) (r : OpResult) (g : Tc → Tc) (x : State) : State :=
  { x with tc := g (x.tc.finished st), lk := (x.finishOp st r).lk }

/-- The same of a halt. -/
def State.afterHalt (b : Bool) (x : State) : State :=
  { x with tc := x.tc.haltedAt b, lk := (x.haltOp b).lk }

section sent
variable (ho : x.tc.op = some o) (hb : o.byRun = true) (hrec : x.tc.recover = none) (hend : x.rc.heardEnd = none)
include ho hb hrec hend

theorem settle_finish (hu : State.hearEnd { kind := o.kind, result := r, byRun := true } (x.afterEnd st r g) = u)
    (hq : u.lk.queue = []) (hr : u.runQuiet) : ((x.finishOp st r).withTc g).settle = u.kick := by
  have hheard : ((x.finishOp st r).withTc g).rc.heardEnd = some { kind := o.kind, result := r, byRun := true } := by
    rw [withTc_rc, finishOp_heard, heardOf_op ho hrec, hb]
  refine settle_hears hheard (Eq.trans (congrArg _ ?_) hu) hq hr
  rw [finishOp_heard]
  unfold State.afterEnd State.withTc State.withRc
  dsimp only
  rw [← hend]

theorem settle_halt (hu : State.hearEnd { kind := o.kind, result := .halted, byRun := true } (x.afterHalt b) = u)
    (hq : u.lk.queue = []) (hr : u.runQuiet) : (x.haltOp b).settle = u.kick := by
  have hheard : (x.haltOp b).rc.heardEnd = some { kind := o.kind, result := .halted, byRun := true } := by
    rw [haltOp_heard, heardOf_op ho hrec, hb]
  refine settle_hears hheard (Eq.trans (congrArg _ ?_) hu) hq hr
  rw [haltOp_heard]
  unfold State.afterHalt State.withRc
  dsimp only
  rw [← hend]

variable (hclose : x.rc.heardClose = none) (hqueue : x.lk.queue = [])
include hclose hqueue

/-- The end of an operation after which the run stops. -/
theorem settle_finishStops {out : RunState}
    (hstops : runStops out (x.afterEnd st r g)
      (State.hearEnd { kind := o.kind, result := r, byRun := true } (x.afterEnd st r g))) :
    ∃ t, ((x.finishOp st r).withTc g).settle = t
      ∧ t = { x with
          tc := g (x.tc.finished st), rc := x.rc.stopsIn out (g (x.tc.finished st)).j, lk := t.lk } := by
  have hlk : onlyNotices x.lk (x.afterEnd st r g).lk := finishOp_notices st r x
  refine ⟨_, settle_finish ho hb hrec hend rfl (runStops_queue hstops (by rw [hlk]; exact hqueue))
    (runStops_quiet hstops hend hclose), (kick_frame _).trans ?_⟩
  obtain ⟨hframe, -⟩ := hstops
  rw [hframe]
  rfl

/-- The same of a halt. -/
theorem settle_haltStops {b : Bool} {out : RunState}
    (hstops : runStops out (x.afterHalt b)
      (State.hearEnd { kind := o.kind, result := .halted, byRun := true } (x.afterHalt b))) :
    ∃ t, (x.haltOp b).settle = t
      ∧ t = { x with tc := x.tc.haltedAt b, rc := x.rc.stopsIn out x.tc.j, lk := t.lk } := by
  have hlk : onlyNotices x.lk (x.afterHalt b).lk := haltOp_notices b x
  refine ⟨_, settle_halt ho hb hrec hend rfl (runStops_queue hstops (by rw [hlk]; exact hqueue))
    (runStops_quiet hstops hend hclose), (kick_frame _).trans ?_⟩
  obtain ⟨hframe, -⟩ := hstops
  rw [hframe]
  rfl

end sent

end Sys2Proof.Machine
end

