-- ==== Sys2Proof/Proofs/RunSteps.lean ====
section
/-! RUN START (07 R144) and the step it begins: RC's requests, the answers to its CAPTURE (R146), and the step's end (R147). -/

namespace Sys2Proof.Machine

variable {s t u : State} {tag : Byte} {v : Volume} {last profile : Nat} {mode : Option RunMode}

/-- A request whose decision leaves RC quiet: the state it decides, and its reply. -/
theorem exec_tells {i : Instr} {k tag : Byte} {a : Answer} (hs : s.serves) (hk : i.kind? = some k) (ht : i.tag? = some tag)
    (hkn : knownKind k = true) (hns : ∀ t, i ≠ .store t) (hd : decisionOf i (s.holding k tag) = (t, a))
    (hlk : onlyNotices (s.holding k tag).lk t.lk) (hr : t.runQuiet) :
    ∃ u, exec i s = .next u ∧ u = { t with lk := u.lk }
      ∧ (s.lk.sending = none → u.lk.sending = some (.reply (replyTo k tag a))) := by
  obtain ⟨⟨⟨-, hqueue, -⟩, -⟩, -⟩ := id hs
  exact ⟨_, exec_next hs hk ht hkn hns hd (by rw [hlk]; exact hqueue) hr, answered_frame _ _ _ _,
    fun hsend => answered_sending _ _ _ _ (by rw [hlk]; exact hsend)⟩

/-! ### The answer to RC's CAPTURE (R146) -/

/-- An accepted CAPTURE opens a ticket, and leaves TC, RC, the pins and the fault banks as they were. -/
theorem openCapture_leaves (hv : s.sau.volume = some v) (sel : Selection) :
    (s.openCapture profile sel).cc.state = .settle
    ∧ (s.openCapture profile sel).cc.tickets.length = s.cc.tickets.length + 1
    ∧ (s.openCapture profile sel).tc = s.tc ∧ (s.openCapture profile sel).rc = s.rc
    ∧ (s.openCapture profile sel).pins = s.pins ∧ (s.openCapture profile sel).fb = s.fb
    ∧ (s.openCapture profile sel).ps = s.ps ∧ (s.openCapture profile sel).set = s.set
    ∧ (s.openCapture profile sel).lk = s.lk := by
  rw [openCapture_mounted hv]
  refine ⟨rfl, ?_, endPreview_tc s .cut, endPreview_rc s .cut, endPreview_pins s .cut, endPreview_fb s .cut,
    endPreview_ps s .cut, endPreview_set s .cut, endPreview_lk s .cut⟩
  refine (List.length_append).trans ?_
  rw [endPreview_cc]
  rfl

/-- RC's admission tests do not look at RC's own part, nor at LK's. -/
theorem captureRefusal_byRun (rc : Rc) (lk : Lk) (rule : Option SideSelection) (sel : Selection) :
    State.captureRefusal profile rule sel false { s with rc := rc, lk := lk } = s.captureRefusal profile rule sel false := by
  unfold State.captureRefusal
  rfl

/-- The answers that stop the run: Table 7-3, and the last opening passed over. -/
theorem captureAnswered_stops {r : Result} {st : RunState} (serial : Nat)
    (h : (r, st) ∈ [(.doseVolume, RunState.ended .exhausted), (.ringFull, .paused .tickets), (.held, .paused .tickets),
        (.noSync, .paused .sync), (.camera, .paused .camera), (.lamp, .paused .lamp), (.sensor, .paused .lamp)]
      ∨ (s.rc.last = some s.tc.j ∧ (r, st) ∈ [(.nothing, RunState.ended .complete), (.doseOpening, .ended .complete)])) :
    runStops st (if r = .doseOpening then s.withRc Rc.skipOpening else s) (s.captureAnswered serial r) := by
  simp only [List.mem_cons, Prod.mk.injEq, List.not_mem_nil, or_false] at h
  rcases h with (⟨rfl, rfl⟩ | ⟨rfl, rfl⟩ | ⟨rfl, rfl⟩ | ⟨rfl, rfl⟩ | ⟨rfl, rfl⟩ | ⟨rfl, rfl⟩ | ⟨rfl, rfl⟩)
    | ⟨hlast, ⟨rfl, rfl⟩ | ⟨rfl, rfl⟩⟩
  · exact endRun_stops .exhausted s
  · exact pauseRun_stops .tickets s
  · exact pauseRun_stops .tickets s
  · exact pauseRun_stops .sync s
  · exact pauseRun_stops .camera s
  · exact pauseRun_stops .lamp s
  · exact pauseRun_stops .lamp s
  · have hends : s.captureAnswered serial .nothing = s.endRun .complete := endStep_complete hlast
    rw [hends]
    exact endRun_stops .complete s
  · have hends : s.captureAnswered serial .doseOpening = (s.withRc Rc.skipOpening).endRun .complete :=
      endStep_complete (s := s.withRc Rc.skipOpening) hlast
    rw [hends]
    exact endRun_stops .complete _

section capture
variable {rule : SideSelection} (hprofile : s.rc.profile = some profile)
  (hrule : rule = (profileAt s.set.profiles profile).selection)
include hprofile hrule

theorem runCapture_accepted (h : s.captureRefusal profile (some rule) (s.select rule) false = none) :
    s.runCapture
      = (s.openCapture profile (s.select rule)).withRc fun rc =>
          { rc with phase := .capturing, ticket := some s.cc.nextSerial } := by
  have hd := decideCapture_accepted (selectionRule_some (.inr ⟨rfl, hrule⟩)) h
  unfold State.runCapture State.runProfile
  rw [hprofile]
  dsimp only [Option.getD_some]
  rw [hd]
  rfl

/-- A refused one leaves the fault banks and the notices of RING-FULL, and then RC's answer. -/
theorem runCapture_refused {r : Result} (h : s.captureRefusal profile (some rule) (s.select rule) false = some r) :
    ∃ x : State, x = { s with fb := x.fb, lk := x.lk } ∧ onlyNotices s.lk x.lk
      ∧ s.runCapture = x.captureAnswered s.cc.nextSerial r := by
  have hsel := selectionRule_some (sides := .absent) (p := profileAt s.set.profiles profile) (.inr ⟨rfl, hrule⟩)
  unfold State.runCapture State.runProfile
  rw [hprofile]
  dsimp only [Option.getD_some]
  by_cases hfull : r = .ringFull
  · subst hfull
    rw [decideCapture_ringFull hsel h]
    exact ⟨_, report_frame s _ _, report_lk s _ _, rfl⟩
  · rw [decideCapture_refused hsel h hfull]
    exact ⟨s, rfl, onlyNotices_refl _, rfl⟩

end capture

/-! ### RUN START (R144) -/

/-- RC's part as RUN START fills the record. -/
def Rc.filled (j last profile : Nat) (mode : Option RunMode) (r : Rc) : Rc :=
  { r with
    first := some j, last := some last, profile := some profile, mode := mode, captured := 0, doseSkipped := 0
    ticket := none }

/-- RC's part as a run begins. -/
def Rc.begun (j last profile : Nat) (mode : Option RunMode) (r : Rc) : Rc :=
  (r.filled j last profile mode).activated

/-- The part as a run begins. -/
def State.runBegun (last profile : Nat) (mode : Option RunMode) (s : State) : State :=
  (s.withRc (Rc.filled s.tc.j last profile mode)).activated

theorem runBegun_eq (last profile : Nat) (mode : Option RunMode) (s : State) :
    s.runBegun last profile mode
      = { s with rc := s.rc.begun s.tc.j last profile mode, lk := (s.runBegun last profile mode).lk } :=
  activated_eq _

theorem runBegun_lk (last profile : Nat) (mode : Option RunMode) (s : State) :
    onlyNotices s.lk (s.runBegun last profile mode).lk :=
  activated_lk (s.withRc _)

theorem decideRunStart_state
    (h : s.sau.volume = none ∨ s.runActive = true ∨ s.runPaused = true ∨ s.settled = false) :
    decideRunStart last profile mode s = refuse .state s := by
  refine if_pos ?_
  rcases h with h | h | h | h <;> simp [State.mounted, h]

section tests
variable (hv : s.sau.volume = some v) (hactive : s.runActive = false) (hpaused : s.runPaused = false)
  (hsettled : s.settled = true)
include hv hactive hpaused hsettled

theorem decideRunStart_settled :
    decideRunStart last profile mode s
      = if s.ticketOpen = true then refuse .busy s
        else if last < s.tc.j ∨ v.n < last ∨ 3 < profile ∨ mode = none then refuse .argument s
        else answer .accepted [] (s.runBegun last profile mode).runStep := by
  have hleaves : s.leaves = v.n := by simp [State.leaves, hv]
  unfold decideRunStart
  rw [hleaves]
  exact if_neg (by simp [State.mounted, hv, hactive, hpaused, hsettled])

end tests

/-- What a run's first step finds: the part as it was, with RC's record filled. -/
def begins (last profile : Nat) (mode : Option RunMode) (s x : State) : Prop :=
  x = { s with rc := s.rc.begun s.tc.j last profile mode, lk := x.lk }

/-- RUN START with every test passed: what its first step leaves, and the reply. -/
theorem exec_runStart (hs : s.serves) (hv : s.sau.volume = some v) (hactive : s.runActive = false)
    (hpaused : s.runPaused = false) (hsettled : s.settled = true) (hk : s.ticketOpen = false)
    (hargs : ¬ (last < s.tc.j ∨ v.n < last ∨ 3 < profile ∨ mode = none)) :
    ∃ x, begins last profile mode s x
      ∧ ∀ t, x.runStep = t → onlyNotices x.lk t.lk → t.runQuiet →
        ∃ u, exec (.runStart tag last profile mode) s = .next u ∧ u = { t with lk := u.lk }
          ∧ (s.lk.sending = none →
              u.lk.sending = some (.reply { kind := 0xD0#8, tag := tag, result := .accepted, body := [] })) := by
  refine ⟨_, runBegun_eq last profile mode (s.holding 0x50#8 tag), fun t hstep hlk hr => ?_⟩
  have hd := (decideRunStart_settled (s := s.holding 0x50#8 tag) (last := last) (profile := profile) (mode := mode) hv
    hactive hpaused hsettled).trans ((if_neg (by rw [Bool.not_eq_true]; exact hk)).trans (if_neg hargs))
  rw [hstep] at hd
  exact exec_tells (i := .runStart tag last profile mode) (a := ⟨.accepted, []⟩) hs rfl rfl rfl (fun _ => nofun) hd
    (onlyNotices_trans (runBegun_lk _ _ _ _) hlk) hr

/-- RUN START whose first step stops the run, after whatever else it changes. -/
theorem exec_runStart_stops (hs : s.serves) (hv : s.sau.volume = some v) (hactive : s.runActive = false)
    (hpaused : s.runPaused = false) (hsettled : s.settled = true) (hk : s.ticketOpen = false)
    (hargs : ¬ (last < s.tc.j ∨ v.n < last ∨ 3 < profile ∨ mode = none)) :
    ∃ x, begins last profile mode s x
      ∧ ∀ st y, runStops st y x.runStep → onlyNotices x.lk y.lk → y.rc.heardEnd = none → y.rc.heardClose = none →
        ∃ u, exec (.runStart tag last profile mode) s = .next u
          ∧ u = { y with rc := y.rc.stopsIn st y.tc.j, lk := u.lk }
          ∧ (s.lk.sending = none →
              u.lk.sending = some (.reply { kind := 0xD0#8, tag := tag, result := .accepted, body := [] })) := by
  obtain ⟨x, hx, hexec⟩ := exec_runStart (tag := tag) hs hv hactive hpaused hsettled hk hargs
  refine ⟨x, hx, fun st y hstops hlk hend hclose => ?_⟩
  obtain ⟨u, hu, hframe, hreply⟩ := hexec _ rfl (onlyNotices_trans hlk hstops.2) (runStops_quiet hstops hend hclose)
  rw [hstops.1] at hframe
  exact ⟨u, hu, hframe, hreply⟩

section steps
variable (hs : s.serves) (hv : s.sau.volume = some v) (hactive : s.runActive = false) (hpaused : s.runPaused = false)
  (hsettled : s.settled = true) (hk : s.ticketOpen = false)
  (hargs : ¬ (last < s.tc.j ∨ v.n < last ∨ 3 < profile ∨ mode = none))
include hs hv hactive hpaused hsettled hk hargs

/-- The last opening needs no capture: the run is ENDED COMPLETE. -/
theorem exec_runStart_complete (hlast : last = s.tc.j) (hl : (openingAt s.sau.openings s.tc.j).left = .accepted)
    (hr : (openingAt s.sau.openings s.tc.j).right = .blank) :
    ∃ u, exec (.runStart tag last profile mode) s = .next u
      ∧ u = { s with rc := (s.rc.begun s.tc.j last profile mode).stopsIn (.ended .complete) s.tc.j, lk := u.lk }
      ∧ (s.lk.sending = none →
          u.lk.sending = some (.reply { kind := 0xD0#8, tag := tag, result := .accepted, body := [] })) := by
  obtain ⟨⟨⟨-, -, hend, hclose, -⟩, -⟩, -⟩ := id hs
  obtain ⟨x, hx, hexec⟩ := exec_runStart_stops (tag := tag) hs hv hactive hpaused hsettled hk hargs
  have hstops : runStops (.ended .complete) x x.runStep := by
    rw [runStep_ends (stepNeeds_done (by rw [hx]; exact hl) (by rw [hx]; exact hr)),
      endStep_complete (by rw [hx]; exact congrArg some hlast)]
    exact endRun_stops _ _
  obtain ⟨u, hu, hframe, hreply⟩ := hexec _ x hstops (onlyNotices_refl _) (by rw [hx]; exact hend) (by rw [hx]; exact hclose)
  exact ⟨u, hu, hframe.trans (by rw [hx]), hreply⟩

/-- Under policy CLAMP a PENDING side in UNCLAMPED makes RC send CLAMP. -/
theorem exec_runStart_clamps (hl : (openingAt s.sau.openings s.tc.j).left = .pending) (ht : s.tc.state = .unclamped)
    (hpolicy : v.limits.policy = .clamp) (hpreview : s.lc.preview = none) :
    ∃ u, exec (.runStart tag last profile mode) s = .next u
      ∧ u = { s with
          tc := { s.tc with
            op := some (platenOp .clamp true), state := .lowering, phaseStart := s.now, loweringDue := false }
          pins := { s.pins with platenUp := false }
          rc := { s.rc.begun s.tc.j last profile mode with phase := .clamping }
          lk := u.lk }
      ∧ (s.lk.sending = none →
          u.lk.sending = some (.reply { kind := 0xD0#8, tag := tag, result := .accepted, body := [] })) := by
  obtain ⟨⟨⟨-, -, hend, hclose, -⟩, -⟩, -⟩ := id hs
  obtain ⟨x, hx, hexec⟩ := exec_runStart (tag := tag) hs hv hactive hpaused hsettled hk hargs
  have hvx : x.sau.volume = some v := by rw [hx]; exact hv
  have hstep := runStep_clamps (s := x) (stepNeeds_pending hvx (by rw [hx]; exact hl))
    (runMaySend_iff.2 ⟨by rw [hx]; exact hsettled, by rw [hx]; exact hk⟩)
    (by rw [policyClamp_mounted hvx, hpolicy]; rfl) (by rw [hx]; exact ht)
  rw [decideClamp_byRun (by rw [hx]; exact hpreview) (by rw [hx]; exact hk) (by rw [hvx]; rfl)
    (by rw [hx]; exact ht)] at hstep
  obtain ⟨u, hu, hframe, hreply⟩ := hexec _ hstep (onlyNotices_refl _)
    (runQuiet_of (by rw [hx]; exact hend) (by rw [hx]; exact hclose) nofun)
  exact ⟨u, hu, hframe.trans (by rw [hx]; rfl), hreply⟩

section capture
variable {rule : SideSelection} (hl : (openingAt s.sau.openings s.tc.j).left = .pending)
  (hfits : s.tc.state = .clamped ∨ v.limits.policy = .free) (hrule : rule = (profileAt s.set.profiles profile).selection)
include hl hfits hrule

omit hs hactive hpaused hargs hrule in
/-- A platen that fits makes RC send CAPTURE. -/
theorem begins_captures {x : State} (hx : begins last profile mode s x) : x.runStep = x.runCapture := by
  have hvx : x.sau.volume = some v := by rw [hx]; exact hv
  refine runStep_captures (stepNeeds_pending hvx (by rw [hx]; exact hl))
    (runMaySend_iff.2 ⟨by rw [hx]; exact hsettled, by rw [hx]; exact hk⟩) ?_
  rw [policyClamp_mounted hvx]
  rintro ⟨hpolicy, ht⟩
  have ht' : s.tc.state = .unclamped := by rw [hx] at ht; exact ht
  rcases hfits with h | h
  · exact nomatch h.symm.trans ht'
  · rw [h] at hpolicy
    exact nomatch hpolicy

theorem exec_runStart_captures (h : s.captureRefusal profile (some rule) (s.select rule) false = none) :
    ∃ u, exec (.runStart tag last profile mode) s = .next u
      ∧ u.rc = { s.rc.begun s.tc.j last profile mode with phase := .capturing, ticket := some s.cc.nextSerial }
      ∧ u.cc.state = .settle ∧ u.cc.tickets.length = s.cc.tickets.length + 1 ∧ u.tc = s.tc ∧ u.pins = s.pins
      ∧ u.fb = s.fb := by
  obtain ⟨⟨⟨-, -, hend, hclose, -⟩, -⟩, -⟩ := id hs
  obtain ⟨x, hx, hexec⟩ := exec_runStart (tag := tag) hs hv hactive hpaused hsettled hk hargs
  have hvx : x.sau.volume = some v := by rw [hx]; exact hv
  have hstep := (begins_captures hv hsettled hk hl hfits hx).trans (runCapture_accepted (s := x) (profile := profile)
    (rule := rule) (by rw [hx]; rfl) (by rw [hx]; exact hrule)
    (by rw [hx]; exact (captureRefusal_byRun _ _ _ _).trans h))
  obtain ⟨hstate, hlength, htc, hrc, hpins, hfb, -, -, hlk⟩ :=
    openCapture_leaves (profile := profile) hvx (x.select rule)
  obtain ⟨u, hu, hframe, -⟩ := hexec _ hstep (by rw [withRc_lk, hlk]; exact onlyNotices_refl _)
    (runQuiet_of (by rw [withRc_rc, hrc, hx]; exact hend) (by rw [withRc_rc, hrc, hx]; exact hclose) nofun)
  refine ⟨u, hu, ?_, ?_, ?_, ?_, ?_, ?_⟩
  · rw [hframe, withRc_rc, hrc, hx]
  · rw [hframe]; exact hstate
  · rw [hframe]; exact hlength.trans (by rw [hx])
  · rw [hframe]; exact htc.trans (by rw [hx])
  · rw [hframe]; exact hpins.trans (by rw [hx])
  · rw [hframe]; exact hfb.trans (by rw [hx])

/-- An answer to RC's CAPTURE that stops the run (07 Table 7-3). -/
theorem exec_runStart_refused {r : Result} {st : RunState}
    (h : s.captureRefusal profile (some rule) (s.select rule) false = some r)
    (hst : (r, st) ∈ [(.doseVolume, RunState.ended .exhausted), (.ringFull, .paused .tickets), (.held, .paused .tickets),
        (.noSync, .paused .sync), (.camera, .paused .camera), (.lamp, .paused .lamp), (.sensor, .paused .lamp)]
      ∨ (last = s.tc.j ∧ (r, st) ∈ [(.nothing, RunState.ended .complete), (.doseOpening, .ended .complete)])) :
    ∃ u, exec (.runStart tag last profile mode) s = .next u
      ∧ u = { s with
          fb := u.fb
          rc := Rc.stopsIn st s.tc.j (if r = .doseOpening then (s.rc.begun s.tc.j last profile mode).skipOpening
            else s.rc.begun s.tc.j last profile mode)
          lk := u.lk } := by
  obtain ⟨⟨⟨-, -, hend, hclose, -⟩, -⟩, -⟩ := id hs
  obtain ⟨x, hx, hexec⟩ := exec_runStart_stops (tag := tag) hs hv hactive hpaused hsettled hk hargs
  obtain ⟨y, hy, hlk, hcapture⟩ := runCapture_refused (s := x) (profile := profile) (rule := rule) (by rw [hx]; rfl)
    (by rw [hx]; exact hrule) (by rw [hx]; exact (captureRefusal_byRun _ _ _ _).trans h)
  have hlast : last = s.tc.j → y.rc.last = some y.tc.j := fun hlast => by
    rw [hy, hx]
    exact congrArg some hlast
  obtain ⟨z, hz⟩ : ∃ z, z = if r = .doseOpening then y.withRc Rc.skipOpening else y := ⟨_, rfl⟩
  have hstops := captureAnswered_stops (s := y) (r := r) (st := st) x.cc.nextSerial (hst.imp id fun h => ⟨hlast h.1, h.2⟩)
  rw [← hcapture, ← begins_captures hv hsettled hk hl hfits hx, ← hz] at hstops
  have hzrc : z = { y with rc := if r = .doseOpening then y.rc.skipOpening else y.rc } := by
    rw [hz]
    split <;> rfl
  have hyrc : y.rc = s.rc.begun s.tc.j last profile mode := by rw [hy, hx]
  obtain ⟨u, hu, hframe, -⟩ := hexec _ z hstops (by rw [hzrc]; exact hlk)
    (by rw [hzrc, hyrc]; dsimp only; split <;> exact hend) (by rw [hzrc, hyrc]; dsimp only; split <;> exact hclose)
  refine ⟨u, hu, hframe.trans ?_⟩
  have hufb : u.fb = y.fb := by rw [hframe, hzrc]
  rw [hufb, hzrc, hyrc, hy, hx]

end capture

section stepEnd
variable (hl : (openingAt s.sau.openings s.tc.j).left = .accepted) (hr : (openingAt s.sau.openings s.tc.j).right = .blank)
  (hlast : s.tc.j < last)
include hl hr hlast

/-- With MANUAL-ONLY the run pauses with MANUAL-TURN. -/
theorem exec_runStart_manual (hm : v.limits.turning = .manualOnly) (ht : s.tc.state = .unclamped) :
    ∃ u, exec (.runStart tag last profile mode) s = .next u
      ∧ u = { s with rc := (s.rc.begun s.tc.j last profile mode).stopsIn (.paused .manualTurn) s.tc.j, lk := u.lk } := by
  obtain ⟨⟨⟨-, -, hend, hclose, -⟩, -⟩, -⟩ := id hs
  obtain ⟨x, hx, hexec⟩ := exec_runStart_stops (tag := tag) hs hv hactive hpaused hsettled hk hargs
  have hlastx : x.rc.last ≠ some x.tc.j := by rw [hx]; exact fun h => absurd (Option.some.inj h) (Nat.ne_of_gt hlast)
  have hstops : runStops (.paused .manualTurn) x x.runStep := by
    rw [runStep_ends (stepNeeds_done (by rw [hx]; exact hl) (by rw [hx]; exact hr)),
      endStep_manual hlastx (runMaySend_iff.2 ⟨by rw [hx]; exact hsettled, by rw [hx]; exact hk⟩)
        (by rw [manualOnly_mounted (v := v) (by rw [hx]; exact hv), hm]; rfl), if_neg (by rw [hx, ht]; nofun)]
    exact pauseRun_stops _ _
  obtain ⟨u, hu, hframe, -⟩ := hexec _ x hstops (onlyNotices_refl _) (by rw [hx]; exact hend) (by rw [hx]; exact hclose)
  exact ⟨u, hu, hframe.trans (by rw [hx])⟩

/-- From CLAMPED RC sends UNCLAMP first. -/
theorem exec_runStart_unclamps (hpreview : s.lc.preview = none) (hm : v.limits.turning = .manualOnly)
    (ht : s.tc.state = .clamped) :
    ∃ u, exec (.runStart tag last profile mode) s = .next u
      ∧ u = { s with
          tc := { s.tc with
            op := some (platenOp .unclamp true), state := .raising, phaseStart := s.now, dwellStart := none, atForce := false
            raiseGoal := some .unclamp }
          rc := { s.rc.begun s.tc.j last profile mode with phase := .unclamping }
          lk := u.lk } := by
  obtain ⟨⟨⟨-, -, hend, hclose, -⟩, -⟩, -⟩ := id hs
  obtain ⟨x, hx, hexec⟩ := exec_runStart (tag := tag) hs hv hactive hpaused hsettled hk hargs
  have hlastx : x.rc.last ≠ some x.tc.j := by rw [hx]; exact fun h => absurd (Option.some.inj h) (Nat.ne_of_gt hlast)
  have hstep := (runStep_ends (stepNeeds_done (s := x) (by rw [hx]; exact hl) (by rw [hx]; exact hr))).trans
    ((endStep_manual hlastx (runMaySend_iff.2 ⟨by rw [hx]; exact hsettled, by rw [hx]; exact hk⟩)
      (by rw [manualOnly_mounted (v := v) (by rw [hx]; exact hv), hm]; rfl)).trans (if_pos (by rw [hx]; exact ht)))
  rw [decideUnclamp_byRun (by rw [hx]; exact hpreview) (by rw [hx]; exact hk) (by rw [hx]; exact ht)] at hstep
  obtain ⟨u, hu, hframe, -⟩ := hexec _ hstep (onlyNotices_refl _)
    (runQuiet_of (by rw [hx]; exact hend) (by rw [hx]; exact hclose) nofun)
  exact ⟨u, hu, hframe.trans (by rw [hx]; rfl)⟩

/-- Else it sends TURN. -/
theorem exec_runStart_turns (hpreview : s.lc.preview = none) (hauto : v.limits.turning = .auto)
    (ht : s.tc.state = .unclamped) (hleaf : v.foldouts.contains (s.tc.j + 1) = false) :
    ∃ u, exec (.runStart tag last profile mode) s = .next u
      ∧ u = { s with
          tc := { s.tc with op := some (runTurn (v.limits.policy == PlatenPolicy.clamp)) }.attempting s.now 1 v.limits.airStart
          pins := { s.pins with armPark := false }
          rc := { s.rc.begun s.tc.j last profile mode with phase := .turning }
          lk := u.lk } := by
  obtain ⟨⟨⟨-, -, hend, hclose, -⟩, -⟩, -⟩ := id hs
  obtain ⟨x, hx, hexec⟩ := exec_runStart (tag := tag) hs hv hactive hpaused hsettled hk hargs
  have hvx : x.sau.volume = some v := by rw [hx]; exact hv
  have hlastx : x.rc.last ≠ some x.tc.j := by rw [hx]; exact fun h => absurd (Option.some.inj h) (Nat.ne_of_gt hlast)
  have hj : s.tc.j < v.n := by
    simp only [not_or, Nat.not_lt] at hargs
    obtain ⟨-, hn, -⟩ := hargs
    exact Nat.lt_of_lt_of_le hlast hn
  have hstep := (runStep_ends (stepNeeds_done (s := x) (by rw [hx]; exact hl) (by rw [hx]; exact hr))).trans
    (endStep_turns hlastx (runMaySend_iff.2 ⟨by rw [hx]; exact hsettled, by rw [hx]; exact hk⟩)
      (by rw [manualOnly_mounted hvx, hauto]; rfl))
  rw [policyClamp_mounted hvx, decideTurn_byRun (v := v) (by rw [hx]; exact hpreview) (by rw [hx]; exact hk) hvx
    (by rw [hx]; exact ht) hauto (by rw [hx]; exact hj) (by rw [hx]; exact hleaf)] at hstep
  obtain ⟨u, hu, hframe, -⟩ := hexec _ hstep (onlyNotices_refl _)
    (runQuiet_of (by rw [hx]; exact hend) (by rw [hx]; exact hclose) nofun)
  exact ⟨u, hu, hframe.trans (by rw [hx]; rfl)⟩

end stepEnd

end steps

end Sys2Proof.Machine
end

