-- ==== Sys2Proof/Proofs/RunCloses.lean ====
section
/-! RUN END (07 R154), what TC hears of it (02 R45), and the end of the operation it has marked. -/

namespace Sys2Proof.Machine

variable {s t x : State} {tag : Byte} {o : Op} {v : Volume}

/-! ### The end of a marked operation (02 R45) -/

/-- An end STOPPED, told of an operation of the record's kind. -/
theorem endsOp_opStopped {st : TcState} {o' : Op} (h : endsOp st .stopped id x t) (ho : x.tc.op = some o')
    (hk : o'.kind = o.kind) (hrec : x.tc.recover = none) (hj : x.tc.j = s.tc.j) (hset : x.set = s.set)
    (hsend : x.lk.sending = s.lk.sending) : opStopped o st s t := by
  obtain ⟨htc, -, htold⟩ := h
  refine ⟨by rw [htc]; rfl, by rw [htc]; rfl, by rw [htc]; exact hj, fun hm hb => ?_⟩
  obtain ⟨hpend, hnotice⟩ := htold (by rw [hset]; exact hm) (by rw [hsend]; exact hb)
  refine ⟨hpend, ?_⟩
  rw [hnotice, endKind_op ho hrec, hk]
  rfl

theorem turnReturned_stopped (ho : s.tc.op = some o) (hstop : s.tc.stopMark = true) :
    s.turnReturned = (s.withTc Tc.dropRemaining).finishOp .unclamped .stopped := by
  simp only [State.turnReturned, ho, hstop, if_true]

/-- A marked raise ends STOPPED, and a turn's drops what remained. -/
theorem raised_stopped {goal : RaiseGoal} (hg : s.tc.raiseGoal = some goal) (h : goal ∈ [.unclamp, .lift, .foldoutStop])
    (hstop : s.tc.stopMark = true) :
    ∃ f : Tc → Tc, (f = id ∨ f = Tc.dropRemaining) ∧ s.raised = (s.withTc f).finishOp .unclamped .stopped := by
  simp only [List.mem_cons, List.not_mem_nil, or_false] at h
  rcases h with rfl | rfl | rfl
  · exact ⟨id, .inl rfl, by simp only [State.raised, hg, hstop, if_true]; rfl⟩
  · exact ⟨_, .inr rfl, by simp only [State.raised, hg, hstop, if_true]⟩
  · exact ⟨_, .inr rfl, by simp only [State.raised, hg, hstop, if_true]⟩

theorem forceRead_lowered {x : Nat} (hv : s.sau.volume = some v) (hst : s.tc.state = .lowering)
    (hx : v.limits.forceTarget - v.limits.forceTarget / 20 ≤ x) (hmax : x ≤ min (3 * v.limits.forceTarget / 2) 3600) :
    s.forceRead x = (s.withTc fun t => { t with force := x }).lowered := by
  rw [forceRead_mounted hv, if_neg (by omega), if_pos ⟨hst, hx⟩]

theorem lowered_stopped (hstop : s.tc.stopMark = true) :
    s.lowered
      = (s.withTc fun t => { t with atForce := true, dwellStart := some (s.now / 1000) }).finishOp .clamped .stopped := by
  simp only [State.lowered, hstop, if_true]
  rfl

/-! ### The end of a run as TC hears it (02 R45) -/

section runEnded
variable (ho : s.tc.op = some o) (hb : o.byRun = true)
include ho hb

theorem runEnded_moving (hst : s.tc.state ∈ [.lifting, .carrying, .releasing, .returning, .lowering, .raising]) :
    s.runEnded = s.withTc fun t => { t with stopMark := true } := by
  simp only [List.mem_cons, List.not_mem_nil, or_false] at hst
  unfold State.runEnded
  rw [ho]
  dsimp only
  rw [hb, if_neg (by decide)]
  rcases hst with h | h | h | h | h | h <;> simp only [h]

theorem runEnded_halted (hst : s.tc.state = .halted) :
    s.runEnded = (s.withTc Tc.dropRemaining).finishOp s.restState .stopped := by
  unfold State.runEnded
  rw [ho]
  dsimp only
  rw [hb, if_neg (by decide), hst]

end runEnded

theorem runEnded_foreign (h : ∀ o, s.tc.op = some o → o.byRun = false) : s.runEnded = s := by
  unfold State.runEnded
  cases ho : s.tc.op with
  | none => rfl
  | some o =>
    dsimp only
    rw [h o ho]
    rfl

theorem runEnded_stays (h : s.tc.state ∈ [.homing, .unclamped, .clamped, .seek, .attention, .safeStop]
    ∨ ∀ o, s.tc.op = some o → o.byRun = false) : s.runEnded = s := by
  rcases h with h | h
  · simp only [List.mem_cons, List.not_mem_nil, or_false] at h
    unfold State.runEnded
    rcases h with h | h | h | h | h | h <;> simp only [h, ite_self]
  · exact runEnded_foreign h

/-- TC stays as it is, marks the operation, or ends it. -/
theorem runEnded_cases (s : State) :
    s.runEnded = s ∨ s.runEnded = s.withTc (fun t => { t with stopMark := true })
    ∨ s.runEnded = (s.withTc Tc.dropRemaining).finishOp s.restState .stopped := by
  by_cases hown : ∃ o, s.tc.op = some o ∧ o.byRun = true
  · obtain ⟨o, ho, hb⟩ := hown
    by_cases hmoving : s.tc.state ∈ [.lifting, .carrying, .releasing, .returning, .lowering, .raising]
    · exact .inr (.inl (runEnded_moving ho hb hmoving))
    by_cases hhalted : s.tc.state = .halted
    · exact .inr (.inr (runEnded_halted ho hb hhalted))
    refine .inl (runEnded_stays (.inl ?_))
    cases hst : s.tc.state <;> simp [hst] at hmoving hhalted ⊢
  · refine .inl (runEnded_foreign fun o ho => ?_)
    rw [← Bool.not_eq_true]
    exact fun hb => hown ⟨o, ho, hb⟩

/-- What TC hears of a run's end changes TC's part, and what an end tells. -/
theorem runEnded_frame (s : State) :
    (∃ e, s.runEnded = { s with tc := s.runEnded.tc, rc := { s.rc with heardEnd := e }, lk := s.runEnded.lk })
    ∧ onlyNotices s.lk s.runEnded.lk := by
  rcases runEnded_cases s with h | h | h <;> rw [h]
  · exact ⟨⟨_, rfl⟩, onlyNotices_refl _⟩
  · exact ⟨⟨_, rfl⟩, onlyNotices_refl _⟩
  · obtain ⟨e, he⟩ := finishOp_frame (s.withTc Tc.dropRemaining) s.restState .stopped
    exact ⟨⟨some e, he⟩, finishOp_notices _ _ _⟩

/-! ### RUN END (07 R154) -/

/-- A request whose decision may end an operation, with no run ACTIVE after it: RC drops the message, and the reply goes
out. -/
theorem exec_drops {i : Instr} {k tag : Byte} {a : Answer} (hs : s.serves) (hk : i.kind? = some k) (ht : i.tag? = some tag)
    (hkn : knownKind k = true) (hns : ∀ t, i ≠ .store t) (hd : decisionOf i (s.holding k tag) = (t, a))
    (hlk : onlyNotices (s.holding k tag).lk t.lk) (hr : t.runActive = false) (hc : t.rc.heardClose = none) :
    ∃ u, exec i s = .next u ∧ u = { t with rc := { t.rc with heardEnd := none }, lk := u.lk }
      ∧ (s.lk.sending = none → u.lk.sending = some (.reply (replyTo k tag a)))
      ∧ (s.lk.sending.isSome = true → u.lk.pendingSet = t.lk.pendingSet ∧ u.lk.gathered = t.lk.gathered) := by
  obtain ⟨htakes, hstarted⟩ := id hs
  obtain ⟨⟨-, hqueue, -⟩, -⟩ := id htakes
  rw [exec_request (by rw [hk]; rfl)]
  have hsend : t.lk.sending = s.lk.sending := by rw [hlk]; rfl
  obtain ⟨u, hu, hP⟩ := request_ends (i := i) (k := k) (tg := tag)
    (P := fun u => u = State.answered k tag a (t.withRc fun r => { r with heardEnd := none })) htakes hk ht hkn
    (by rw [hstarted]; rfl) hns (by rw [hd, hlk]; exact hqueue) (by rw [hd]; exact hr) (by rw [hd]; exact hc) (by rw [hd])
  refine ⟨u, hu, ?_, fun h => ?_, fun h => ?_⟩
  · rw [hP]
    exact answered_frame _ _ _ _
  · rw [hP]
    exact answered_sending _ _ _ _ (hsend.trans h)
  · rw [hP, answered_busy _ _ _ _ (by rw [withRc_lk, hsend]; exact h)]
    exact ⟨rfl, rfl⟩

/-- RUN END of a run that is ACTIVE or PAUSED. -/
theorem exec_runEnd (hs : s.serves) (h : s.runActive = true ∨ s.runPaused = true) :
    ∃ x u : State, x = { s with rc := s.rc.stopsIn (.ended .aborted) s.tc.j, lk := x.lk }
      ∧ onlyNotices (s.holding 0x51#8 tag).lk x.lk
      ∧ exec (.runEnd tag) s = .next u
      ∧ u = { x.runEnded with rc := s.rc.stopsIn (.ended .aborted) s.tc.j, lk := u.lk }
      ∧ (s.lk.sending = none →
          u.lk.sending = some (.reply { kind := 0xD1#8, tag := tag, result := .ok, body := [] }))
      ∧ (s.lk.sending.isSome = true →
          u.lk.pendingSet = x.runEnded.lk.pendingSet ∧ u.lk.gathered = x.runEnded.lk.gathered) := by
  obtain ⟨⟨⟨-, -, hend, hclose, -⟩, -⟩, -⟩ := id hs
  obtain ⟨hstops, hnotices⟩ := endRun_stops .aborted (s.holding 0x51#8 tag)
  obtain ⟨x, hx⟩ : ∃ x, x = (s.holding 0x51#8 tag).endRun .aborted := ⟨_, rfl⟩
  rw [← hx] at hstops hnotices
  obtain ⟨⟨e, hframe⟩, hlk⟩ := runEnded_frame x
  have hd : decisionOf (.runEnd tag) (s.holding 0x51#8 tag) = (x.runEnded, ⟨.ok, []⟩) := by
    rw [hx]
    exact if_pos (by simpa [State.runActive, State.runPaused, State.holding] using h)
  obtain ⟨u, hu, huframe, hreply, hbusy⟩ := exec_drops (i := .runEnd tag) hs rfl rfl rfl (fun _ => nofun) hd
    (onlyNotices_trans hnotices hlk) (by rw [hframe, hstops]; rfl) (by rw [hframe, hstops]; exact hclose)
  have hrc : State.rc { x.runEnded with rc := { x.runEnded.rc with heardEnd := none } }
      = s.rc.stopsIn (.ended .aborted) s.tc.j := by
    rw [hframe, hstops]
    show ({ s.rc.stopsIn (.ended .aborted) s.tc.j with heardEnd := none } : Rc) = s.rc.stopsIn (.ended .aborted) s.tc.j
    unfold Rc.stopsIn
    rw [← hend]
  refine ⟨x, u, hstops, hnotices, hu, huframe.trans ?_, hreply, hbusy⟩
  rw [← hrc]

end Sys2Proof.Machine
end

