-- ==== Sys2Proof/Proofs/RunRequests.lean ====
section
/-! HALT, TICKET RELEASE and RESUME with a run in hand (07 R149 to R151). -/

namespace Sys2Proof.Machine

variable {s t x : State} {tag : Byte} {a b : Nat}

/-! ### HALT (R149) -/

theorem tcHalt_atRest (ht : s.tc.state = .unclamped ∨ s.tc.state = .clamped) : tcHalt s = answer .ok [] s := by
  unfold tcHalt
  rcases ht with h | h <;> rw [h] <;> rfl

/-- An ACTIVE run whose step does not wait notes the HALT. -/
theorem rcHalt_active (h : s.rc.state = .active) (hw : s.rc.phase ≠ .waiting) :
    s.rcHalt = { s with rc := { s.rc with haltRequested := true } } := by
  unfold State.rcHalt
  rw [h]
  exact if_neg hw

/-- A run PAUSED with TICKETS takes the reason HALT. -/
theorem rcHalt_tickets (h : s.rc.state = .paused .tickets) : s.rcHalt = s.setRun (.paused .halt) := by
  unfold State.rcHalt
  rw [h]

theorem decideHalt_atRest (ht : s.tc.state = .unclamped ∨ s.tc.state = .clamped) :
    decideHalt s = (s.rcHalt, ⟨.ok, []⟩) := by
  unfold decideHalt
  rw [tcHalt_atRest ht]
  rfl

/-- With an ACTIVE run RC quiet means that its step does not wait. -/
theorem runQuiet_active (hr : s.runQuiet) (h : s.runActive = true) : s.rc.phase ≠ .waiting := fun hw => by
  obtain ⟨-, -, hwaits⟩ := hr
  exact hwaits ⟨h, hw⟩

/-! ### A run's range and its next step (R150, R151) -/

section range
variable (ha : s.rc.first = some a) (hb : s.rc.last = some b)
include ha hb

theorem outOfRun_outside (h : s.tc.j < a ∨ b < s.tc.j) : s.outOfRun = true := by
  simpa [State.outOfRun, ha, hb] using h

theorem outOfRun_inside (h1 : a ≤ s.tc.j) (h2 : s.tc.j ≤ b) : s.outOfRun = false := by
  simp [State.outOfRun, ha, hb, h1, h2]

end range

/-- A step that begins at a last opening that needs no capture ends the run COMPLETE. -/
theorem activateRun_completes (hb : s.rc.last = some s.tc.j) (hl : (openingAt s.sau.openings s.tc.j).left = .accepted)
    (hr : (openingAt s.sau.openings s.tc.j).right = .blank) : runStops (.ended .complete) s.activated s.activateRun := by
  have hx := activated_eq s
  rw [activateRun_eq, runStep_ends (stepNeeds_done (by rw [hx]; exact hl) (by rw [hx]; exact hr)),
    endStep_complete (by rw [hx]; exact hb)]
  exact endRun_stops _ _

/-! ### TICKET RELEASE of an orphaned ticket (06 R136, 07 R150) -/

section release
variable {k : Ticket} {rest : List Ticket} {l r : Verdict}

/-- A release of the one oldest ticket, CLOSED and orphaned, frees its place and asks RC. -/
theorem decideTicketRelease_orphaned (ht : s.cc.tickets = k :: rest) (hc : k.closed = true) (ho : k.orphaned = true) :
    decideTicketRelease 1 (some l) (some r) s
      = (s.freeOldest.retestBacklog.ticketFreed, ⟨.ok, [.num 1, .num k.serial, .num k.serial, .flag false]⟩) := by
  have hnone : s.applyVerdicts k l r = s := by
    unfold State.applyVerdicts
    split
    · exact if_neg (by simp [Ticket.ofMount, ho])
    · rfl
  have hwalk := releaseWalk_one (l := l) (r := r) ht hc
  rw [hnone] at hwalk
  refine (decideTicketRelease_frees (count := 1) nofun (by decide) (by rw [hwalk])).trans ?_
  rw [hwalk]
  rfl

/-- RC as a ticket is freed while its run is PAUSED with TICKETS. -/
theorem ticketFreed_paused (h : s.rc.state = .paused .tickets) :
    s.ticketFreed
      = if s.outOfRun then s.endRun .outOfRange else if s.settled then s.activateRun else s := by
  unfold State.ticketFreed
  rw [h]

/-- TICKET RELEASE of an orphaned ticket, with a run PAUSED with TICKETS: RC's part is what it makes of the freed place. -/
theorem exec_ticketRelease_frees (hs : s.serves) (ht : s.cc.tickets = k :: rest) (hc : k.closed = true)
    (ho : k.orphaned = true) (hrun : s.rc.state = .paused .tickets) :
    ∃ y : State, y = { s with cc := y.cc, lk := y.lk } ∧ y.cc.tickets = rest
      ∧ ∀ t, (if y.outOfRun then y.endRun .outOfRange else if y.settled then y.activateRun else y) = t →
        onlyNotices y.lk t.lk → t.runQuiet →
        ∃ u, exec (.ticketRelease tag 1 (some l) (some r)) s = .next u ∧ u = { t with lk := u.lk } := by
  obtain ⟨x, hx⟩ : ∃ x : State, x = (s.holding 0x49#8 tag).freeOldest := ⟨_, rfl⟩
  have hframe := retestBacklog_frame x
  have hlk := retestBacklog_lk x
  refine ⟨x.retestBacklog, by rw [hframe, hx]; rfl, ?_, fun t hfreed htlk hr => ?_⟩
  · rw [hframe, hx]
    exact congrArg (List.drop 1) ht
  · rw [← ticketFreed_paused (by rw [hframe, hx]; exact hrun)] at hfreed
    have hd := decideTicketRelease_orphaned (s := s.holding 0x49#8 tag) (l := l) (r := r) ht hc ho
    rw [← hx, hfreed] at hd
    obtain ⟨u, hu, huframe, -⟩ := exec_tells (i := .ticketRelease tag 1 (some l) (some r)) hs rfl rfl rfl (fun _ => nofun) hd
      (onlyNotices_trans (by rw [hx] at hlk ⊢; exact hlk) htlk) hr
    exact ⟨u, hu, huframe⟩

end release

/-! ### RESUME in a PAUSED run (R151) -/

section resume
variable {reason : PauseReason}

theorem decideResume_paused (h : s.rc.state = .paused reason) : decideResume s = rcResume reason s := by
  unfold decideResume
  rw [h]

theorem rcResume_outside (h : s.outOfRun = true) : rcResume reason s = answer .ok [] (s.endRun .outOfRange) :=
  if_pos h

section inside
variable (hin : s.outOfRun = false)
include hin

theorem rcResume_manualTurn (h : reason = .manualTurn ∧ s.rc.pauseOpening = some s.tc.j) :
    rcResume reason s = refuse .state s :=
  (if_neg (by simp [hin])).trans (if_pos h)

theorem rcResume_unsettled (ht : s.tc.state ≠ .halted) (h : s.settled = false) : rcResume reason s = refuse .state s := by
  by_cases hm : reason = .manualTurn ∧ s.rc.pauseOpening = some s.tc.j
  · exact rcResume_manualTurn hin hm
  · unfold rcResume
    rw [if_neg (by simp [hin]), if_neg hm, if_neg ht, if_pos (by simp [h])]

variable (hmanual : ¬ (reason = .manualTurn ∧ s.rc.pauseOpening = some s.tc.j))
include hmanual

theorem rcResume_settled (h : s.settled = true) : rcResume reason s = answer .accepted [] s.activateRun := by
  have ht : s.tc.state ≠ .halted := fun ht => by simp [State.settled, ht] at h
  unfold rcResume
  rw [if_neg (by simp [hin]), if_neg hmanual, if_neg ht, if_neg (by simp [h])]

/-- A halted turn of the run goes on with its next leaf. -/
theorem rcResume_lifts {o : Op} (ht : s.tc.state = .halted) (ho : s.tc.op = some o) (hby : o.byRun = true)
    (hk : o.kind = .turn) (hrem : 0 < o.remaining) (hleaf : s.isFoldout s.tc.nextLeaf = false)
    (hdown : s.platenDown = false) :
    rcResume reason s
      = answer .accepted [] ((s.beginLeaf.withRc fun rc =>
          { rc with phase := .turning, haltRequested := false, pauseOpening := none }).setRun .active) := by
  have htc : tcResume s = answer .accepted [] s.beginLeaf := by
    unfold tcResume Tc.remainingCount
    rw [if_neg (not_not_intro ht), ho]
    dsimp only
    rw [if_pos hrem, hleaf, hdown]
    rfl
  have hforeign : s.haltedForHost = false := by simp [State.haltedForHost, ho, hby]
  have hphase : s.beginLeaf.tc.op = some o := ho
  unfold rcResume
  rw [if_neg (by simp [hin]), if_neg hmanual, if_pos ht, htc]
  dsimp only
  rw [hforeign, if_neg Bool.false_ne_true]
  unfold State.resumedByTc
  dsimp only [answer]
  rw [hphase]
  dsimp only
  rw [hk]
  rfl

end inside

end resume

end Sys2Proof.Machine
end

