-- ==== Sys2Proof/Proofs/RunEvents.lean ====
section
/-! What a run makes of the events it waits for (07 R146, R148, R149): the end of an operation it sent, the close of its
ticket, and the settling of a cradle its step waits for. -/

namespace Sys2Proof.Machine

variable {s t u x : State} {o : Op} {v : Volume}

/-! ### The ends that RC hears -/

/-- An end DONE or with a halt, in a run that was asked to halt, pauses it with HALT. -/
theorem hearEnd_haltStops {e : HeardEnd} (hb : e.byRun = true) (hr : s.runActive = true) (hh : s.rc.haltRequested = true)
    (he : e.result = .done ∨ e.result = .halted) : runStops (.paused .halt) s (s.hearEnd e) := by
  rw [hearEnd_halted hb hr hh]
  rcases he with he | he <;> rw [he] <;> exact pauseRun_stops .halt s

/-- A fault pauses the run with TURN-FAULT, asked to halt or not. -/
theorem hearEnd_faultStops {e : HeardEnd} (hb : e.byRun = true) (hr : s.runActive = true) (he : e.result = .fault) :
    runStops (.paused .turnFault) s (s.hearEnd e) := by
  cases hh : s.rc.haltRequested with
  | true =>
    rw [hearEnd_halted hb hr hh, he]
    exact pauseRun_stops .turnFault s
  | false =>
    rw [hearEnd_pauses hb hr hh (.inl ⟨he, rfl⟩)]
    exact pauseRun_stops .turnFault s

/-- A foldout stop pauses it with FOLDOUT. -/
theorem hearEnd_foldoutStops {e : HeardEnd} (hb : e.byRun = true) (hr : s.runActive = true)
    (he : e.result = .foldoutStop) : runStops (.paused .foldout) s (s.hearEnd e) := by
  cases hh : s.rc.haltRequested with
  | true =>
    rw [hearEnd_halted hb hr hh, he]
    exact pauseRun_stops .foldout s
  | false =>
    rw [hearEnd_pauses hb hr hh (.inr (.inl ⟨he, rfl⟩))]
    exact pauseRun_stops .foldout s

/-- A halt in HALTED pauses it with HALT. -/
theorem hearEnd_haltedStops {e : HeardEnd} (hb : e.byRun = true) (hr : s.runActive = true) (he : e.result = .halted) :
    runStops (.paused .halt) s (s.hearEnd e) := by
  cases hh : s.rc.haltRequested with
  | true => exact hearEnd_haltStops hb hr hh (.inr he)
  | false =>
    rw [hearEnd_pauses hb hr hh (.inr (.inr ⟨he, rfl⟩))]
    exact pauseRun_stops .halt s

/-- The end DONE of RC's UNCLAMP. -/
theorem hearEnd_unclampStops {e : HeardEnd} (hb : e.byRun = true) (hr : s.runActive = true) (he : e.result = .done)
    (hk : e.kind = .unclamp) :
    runStops (.paused (if s.rc.haltRequested then .halt else .manualTurn)) s (s.hearEnd e) := by
  cases hh : s.rc.haltRequested with
  | true => exact hearEnd_haltStops hb hr hh (.inl he)
  | false =>
    rw [hearEnd_unclamped hb hr hh he hk]
    exact pauseRun_stops .manualTurn s

/-- The end DONE of a TURN or CLAMP at a last opening that needs no capture completes the run. -/
theorem hearEnd_completes {e : HeardEnd} (hb : e.byRun = true) (hr : s.runActive = true) (hh : s.rc.haltRequested = false)
    (he : e.result = .done) (hk : e.kind = .turn ∨ e.kind = .clamp) (hlast : s.rc.last = some s.tc.j)
    (hl : (openingAt s.sau.openings s.tc.j).left = .accepted) (hright : (openingAt s.sau.openings s.tc.j).right = .blank) :
    runStops (.ended .complete) s (s.hearEnd e) := by
  rw [hearEnd_goesOn hb hr hh he hk, runStep_ends (stepNeeds_done hl hright), endStep_complete hlast]
  exact endRun_stops .complete s

/-! ### Ends of arm strokes and platen moves (02 R31, R36, R37, R42) -/

/-- The end of an unstopped turn's return with no leaf left and no lowering to come. -/
theorem turnReturned_done (ho : s.tc.op = some o) (hstop : s.tc.stopMark = false) (hrem : o.remaining = 0)
    (hafter : o.clampAfter = false) (hfrom : o.fromClamped = false) : s.turnReturned = s.finishOp .unclamped .done := by
  have hlow : s.lowersAtEnd o = false := by simp [State.lowersAtEnd, hafter, hfrom]
  simp [State.turnReturned, ho, hstop, hrem, hlow]

/-- A HALT's mark with leaves left. -/
theorem turnReturned_halts (ho : s.tc.op = some o) (hstop : s.tc.stopMark = false) (hhalt : s.tc.haltMark = true)
    (hrem : 0 < o.remaining) : s.turnReturned = s.haltOp false := by
  have hne : o.remaining ≠ 0 := by omega
  simp [State.turnReturned, ho, hstop, hhalt, hrem, hne]

/-- A foldout next. -/
theorem turnReturned_foldout (ho : s.tc.op = some o) (hstop : s.tc.stopMark = false) (hhalt : s.tc.haltMark = false)
    (hrem : 0 < o.remaining) (hleaf : s.isFoldout s.tc.nextLeaf = true) :
    s.turnReturned = s.finishOp .unclamped .foldoutStop := by
  rw [turnReturned_unmarked ho hstop hhalt, if_pos hrem, State.nextLeafOrFoldout, if_pos hleaf]

theorem lowered_unstopped (hstop : s.tc.stopMark = false) :
    s.lowered
      = if s.tc.haltMark then
          State.haltOp false (s.withTc fun t => { t with atForce := true, dwellStart := some (s.now / 1000) })
        else (s.withTc fun t => { t with atForce := true, dwellStart := some (s.now / 1000) }).finishOp .clamped .done := by
  unfold State.lowered
  rw [hstop]
  rfl

/-- The limit of a motion phase leaves the record, RC's part and the notices' frame. -/
theorem timedOut_leaves (s : State) :
    s.timedOut.rc = s.rc ∧ onlyNotices s.lk s.timedOut.lk ∧ s.timedOut.tc.recover = s.tc.recover
    ∧ s.timedOut.tc.j = s.tc.j := by
  unfold State.timedOut
  refine ⟨?_, ?_, ?_, ?_⟩
  · rw [withTc_rc, report_rc]
  · rw [withTc_lk]
    exact report_lk s _ _
  · rw [withTc_tc, report_tc]
  · rw [withTc_tc, report_tc]

/-! ### The close of a ticket (05 R122, 07 R146) -/

section close
variable {k : Ticket}

/-- A close tells RC the serial; beside CC's part it changes the notices. -/
theorem closeTicket_frame (hk : s.openTicket? = some k) :
    s.closeTicket = { s with
      cc := s.closeTicket.cc, rc := { s.rc with heardClose := some k.serial }, lk := s.closeTicket.lk }
    ∧ onlyNotices s.lk s.closeTicket.lk := by
  obtain ⟨x, hx, hrc, hcloses⟩ : ∃ x : State, x = { s with cc := x.cc, rc := x.rc }
      ∧ x.rc = { s.rc with heardClose := some k.serial } ∧ s.closeTicket = (x.notify .capture).retestBacklog := by
    unfold State.closeTicket
    rw [hk]
    exact ⟨_, rfl, rfl, rfl⟩
  have hnotified : x.notify .capture = { x with lk := (x.notify .capture).lk } := notifyWith_frame _ _ _
  have hnotices : onlyNotices x.lk (x.notify .capture).lk := notifyWith_lk _ _ _
  have hretested := retestBacklog_frame (x.notify .capture)
  have hlk := onlyNotices_trans hnotices (retestBacklog_lk (x.notify .capture))
  have hxlk : x.lk = s.lk := by rw [hx]
  rw [← hcloses] at hretested hlk
  refine ⟨?_, by rw [← hxlk]; exact hlk⟩
  rw [← hrc]
  rw [hnotified, hx] at hretested
  rw [hretested]

theorem hearClose_own {n : Nat} (h : s.rc.ticket = some n) :
    s.hearClose n
      = if s.runActive then
          if s.rc.haltRequested then (s.withRc Rc.countCapture).pauseRun .halt else (s.withRc Rc.countCapture).endStep
        else if s.runPaused then s.withRc Rc.countCapture
        else s.withRc fun r => { r with ticket := none } :=
  if_pos h

end close

/-! ### A WAITING step (R148) -/

section wakes
variable (hr : s.runActive = true) (hw : s.rc.phase = .waiting)
include hr hw

theorem wakeRun_fault (ht : s.tc.state = .attention) : s.wakeRun = s.pauseRun .turnFault := by
  unfold State.wakeRun
  rw [if_pos (by simp [hr, hw]), if_pos ht]

theorem wakeRun_stepEnd (ht : s.tc.state ≠ .attention) (hsend : s.runMaySend = true) (hd : s.rc.due = some .stepEnd) :
    s.wakeRun = s.endStep := by
  unfold State.wakeRun
  rw [if_pos (by simp [hr, hw]), if_neg ht, if_pos hsend, hd]

end wakes

end Sys2Proof.Machine
end

