-- ==== Sys2Proof/Proofs/RunEnds.lean ====
section
/-! What the end of an operation that RC sent leaves (07 R148, R149), by the event that ends it. -/

namespace Sys2Proof.Machine

variable {s : State} {o : Op} {v : Volume}

section sent
variable (hs : s.quiet) (hr : s.runActive = true) (ho : s.tc.op = some o) (hb : o.byRun = true) (hrec : s.tc.recover = none)
  (hstop : s.tc.stopMark = false)
include hs hr ho hb hrec

/-- The end DONE of RC's UNCLAMP at the UP switch. -/
theorem exec_upMade_unclampStops (hstop : s.tc.stopMark = false) (hk : o.kind = .unclamp) (hst : s.tc.state = .raising)
    (hg : s.tc.raiseGoal = some .unclamp) :
    ∃ t, exec .platenUpMade s = .next t ∧ t.tc = s.raisedUp.tc.finished .unclamped
      ∧ t.rc = s.rc.stopsIn (.paused (if s.rc.haltRequested then .halt else .manualTurn)) s.tc.j := by
  obtain ⟨hp, hqueue, hend, hclose, -⟩ := hs
  obtain ⟨t, hsettle, hframe⟩ := settle_finishStops (x := s.raisedUp) (st := .unclamped) (r := .done) (g := id)
    ho hb hrec hend hclose hqueue (hearEnd_unclampStops (s := s.raisedUp.afterEnd .unclamped .done id) rfl hr rfl hk)
  refine ⟨t, pinEvent_settles hp ((upMade_raising hst).trans (raised_unclamp (s := s.raisedUp) hg hstop)) hsettle, ?_, ?_⟩
  · rw [hframe]; rfl
  · rw [hframe]; rfl

/-- The limit of a phase of the arm or of a raise. -/
theorem exec_strokeTimeout_faultStops {limit : Nat} (hreset : s.tc.resetStroke = false)
    (hnow : s.endsNow (s.tc.phaseStart + limit * 1000))
    (hlimit : (s.tc.state, limit) ∈ [(.lifting, 2000), (.carrying, 3000), (.releasing, 1500), (.returning, 2000),
      (.raising, 1500)]) :
    ∃ t, exec .strokeTimeout s = .next t ∧ t.tc.state = .attention ∧ t.tc.op = none
      ∧ t.rc = s.rc.stopsIn (.paused .turnFault) s.tc.j := by
  obtain ⟨hp, hqueue, hend, hclose, -⟩ := hs
  obtain ⟨hdue, htold⟩ := phase_limits (s := s) (told := .attention) (.inl ⟨rfl, hlimit⟩)
  obtain ⟨x, hx⟩ : ∃ x, x = s.goTo (s.tc.phaseStart + limit * 1000) := ⟨_, rfl⟩
  have hxtc : x.tc = s.tc := by rw [hx]; rfl
  have hends := phaseTimeout_ends (s := x) (by rw [hxtc]; exact ho) (by rw [hxtc]; exact hreset) (by rw [hxtc]; exact htold)
  obtain ⟨hrc, hlk, hrecover, hj⟩ := timedOut_leaves x
  have hrcs : x.timedOut.rc = s.rc := hrc.trans (by rw [hx]; rfl)
  have hrun : x.timedOut.runActive = true := by rw [State.runActive, hrcs]; exact hr
  obtain ⟨t, hsettle, hframe⟩ := settle_finishStops (x := x.timedOut) (st := .attention) (r := .fault)
    (g := Tc.atLimit .attention x.now) (timedOut_op (by rw [hxtc]; exact ho)) hb (by rw [hrecover, hxtc]; exact hrec)
    (by rw [hrcs]; exact hend) (by rw [hrcs]; exact hclose) (by rw [hlk, hx]; exact hqueue)
    (hearEnd_faultStops (s := x.timedOut.afterEnd .attention .fault (Tc.atLimit .attention x.now)) rfl hrun rfl)
  refine ⟨t, timer_settles hp hdue hnow (by rw [← hx]; exact hends) hsettle, ?_, ?_, ?_⟩
  · rw [hframe]; rfl
  · rw [hframe]; rfl
  · rw [hframe, hrcs]
    have hjs : (Tc.atLimit .attention x.now (x.timedOut.tc.finished .attention)).j = s.tc.j := hj.trans (by rw [hxtc])
    rw [hjs]

section turn
variable (hk : o.kind = .turn) (hst : s.tc.state = .returning) (hg : s.tc.returnGoal = some .turn)
  (hreset : s.tc.resetStroke = false)
include hst hg hreset hstop

/-- A HALT's mark with leaves left stops the turn in HALTED. -/
theorem exec_parkMade_haltStops (hrem : 0 < o.remaining) (hhalt : s.tc.haltMark = true) :
    ∃ t, exec .armParkMade s = .next t ∧ t.tc = s.tc.haltedAt false ∧ t.rc = s.rc.stopsIn (.paused .halt) s.tc.j := by
  obtain ⟨hp, hqueue, hend, hclose, -⟩ := hs
  obtain ⟨t, hsettle, hframe⟩ := settle_haltStops (x := s.parked) (b := false) ho hb hrec hend hclose hqueue
    (hearEnd_haltedStops (s := s.parked.afterHalt false) rfl hr rfl)
  refine ⟨t, pinEvent_settles hp ((parkMade_turn hst hreset hg).trans
    (turnReturned_halts (s := s.parked) ho hstop hhalt hrem)) hsettle, ?_, ?_⟩
  · rw [hframe]; rfl
  · rw [hframe]; rfl

/-- A foldout next ends the turn. -/
theorem exec_parkMade_foldoutStops (hrem : 0 < o.remaining) (hhalt : s.tc.haltMark = false)
    (hleaf : s.isFoldout s.tc.nextLeaf = true) :
    ∃ t, exec .armParkMade s = .next t ∧ t.tc = s.tc.finished .unclamped
      ∧ t.rc = s.rc.stopsIn (.paused .foldout) s.tc.j := by
  obtain ⟨hp, hqueue, hend, hclose, -⟩ := hs
  obtain ⟨t, hsettle, hframe⟩ := settle_finishStops (x := s.parked) (st := .unclamped) (r := .foldoutStop) (g := id)
    ho hb hrec hend hclose hqueue
    (hearEnd_foldoutStops (s := s.parked.afterEnd .unclamped .foldoutStop id) rfl hr rfl)
  refine ⟨t, pinEvent_settles hp ((parkMade_turn hst hreset hg).trans
    (turnReturned_foldout (s := s.parked) ho hstop hhalt hrem hleaf)) hsettle, ?_, ?_⟩
  · rw [hframe]; rfl
  · rw [hframe]; rfl

variable (hrem : o.remaining = 0) (hafter : o.clampAfter = false) (hfrom : o.fromClamped = false)
include hrem hafter hfrom

omit hr in
/-- The end DONE of RC's TURN, where the run stops then. -/
theorem exec_parkMade_doneStops {out : RunState}
    (hstops : runStops out (s.parked.afterEnd .unclamped .done id)
      (State.hearEnd { kind := o.kind, result := .done, byRun := true } (s.parked.afterEnd .unclamped .done id))) :
    ∃ t, exec .armParkMade s = .next t ∧ t.tc = s.tc.finished .unclamped ∧ t.rc = s.rc.stopsIn out s.tc.j := by
  obtain ⟨hp, hqueue, hend, hclose, -⟩ := hs
  obtain ⟨t, hsettle, hframe⟩ := settle_finishStops (x := s.parked) ho hb hrec hend hclose hqueue hstops
  refine ⟨t, pinEvent_settles hp ((parkMade_turn hst hreset hg).trans
    (turnReturned_done (s := s.parked) ho hstop hrem hafter hfrom)) hsettle, ?_, ?_⟩
  · rw [hframe]; rfl
  · rw [hframe]; rfl

include hk

/-- The end DONE of RC's TURN at an opening that needs capture, under policy FREE: RC's CAPTURE. -/
theorem exec_parkMade_captures {profile : Nat} {rule : SideSelection} (hh : s.rc.haltRequested = false)
    (hv : s.sau.volume = some v) (hprofile : s.rc.profile = some profile) (hfree : v.limits.policy = .free)
    (hguard : s.pins.guardOpen = false) (hticket : s.ticketOpen = false)
    (hl : (openingAt s.sau.openings s.tc.j).left = .pending) (hrule : rule = (profileAt s.set.profiles profile).selection)
    (h : State.captureRefusal profile (some rule) (s.select rule) false { s with
      tc := { s.tc with state := .unclamped }, pins := { s.pins with armPark := true } } = none) :
    ∃ t, exec .armParkMade s = .next t ∧ t.tc.state = .unclamped ∧ t.cc.state = .settle
      ∧ t.rc = { s.rc with phase := .capturing, ticket := some s.cc.nextSerial } := by
  obtain ⟨hp, hqueue, hend, hclose, -⟩ := hs
  obtain ⟨y, hy⟩ : ∃ y, y = s.parked.afterEnd .unclamped .done id := ⟨_, rfl⟩
  have hlk : onlyNotices s.lk y.lk := by rw [hy]; exact finishOp_notices .unclamped .done s.parked
  have hvy : y.sau.volume = some v := by rw [hy]; exact hv
  have hadmits : y.captureRefusal profile (some rule) (y.select rule) false = none := by
    refine Eq.trans ?_ h
    rw [hy]
    unfold State.captureRefusal
    rfl
  have hcaptures := runStep_captures (s := y) (stepNeeds_pending hvy (by rw [hy]; exact hl))
    (runMaySend_iff.2 ⟨by rw [hy]; simp [State.settled, State.afterEnd, Tc.finished, State.parked, Tc.cleared, hguard],
      by rw [hy]; exact hticket⟩)
    (by rw [policyClamp_mounted hvy, hfree]; rintro ⟨h, -⟩; exact nomatch h)
  rw [runCapture_accepted (by rw [hy]; exact hprofile) (by rw [hy]; exact hrule) hadmits] at hcaptures
  obtain ⟨hstate, -, htc, hrc, -, -, -, -, hclk⟩ := openCapture_leaves (profile := profile) hvy (y.select rule)
  have hheard : State.hearEnd { kind := o.kind, result := .done, byRun := true } y = y.runStep :=
    hearEnd_goesOn rfl (by rw [hy]; exact hr) (by rw [hy]; exact hh) rfl (.inl hk)
  have hrcy : y.rc = s.rc := by rw [hy]; rfl
  obtain ⟨z, hz⟩ : ∃ z, z = (y.openCapture profile (y.select rule)).withRc fun rc =>
      { rc with phase := .capturing, ticket := some y.cc.nextSerial } := ⟨_, rfl⟩
  rw [← hz] at hcaptures
  have hzrc : z.rc = { s.rc with phase := .capturing, ticket := some s.cc.nextSerial } := by
    rw [hz, withRc_rc, hrc, hrcy, hy]
    rfl
  have hsettle := settle_finish (x := s.parked) (st := .unclamped) (r := .done) (g := id) (u := z) ho hb hrec hend
    (by rw [← hy]; exact hheard.trans hcaptures) (by rw [hz, withRc_lk, hclk, hlk]; exact hqueue)
    (runQuiet_of (by rw [hzrc]; exact hend) (by rw [hzrc]; exact hclose) (by rw [hzrc]; nofun))
  refine ⟨_, pinEvent_settles hp ((parkMade_turn hst hreset hg).trans
    (turnReturned_done (s := s.parked) ho hstop hrem hafter hfrom)) hsettle, ?_, ?_, ?_⟩
  · rw [kick_tc, hz, withRc_tc, htc, hy]; rfl
  · rw [kick_cc, hz]; exact hstate
  · rw [kick_rc, hzrc]

end turn

section clamp
variable {x : Nat} (hst : s.tc.state = .lowering) (hv : s.sau.volume = some v)
  (hx : v.limits.forceTarget - v.limits.forceTarget / 20 ≤ x) (hmax : x ≤ min (3 * v.limits.forceTarget / 2) 3600)

/-- The part with the platen at force. -/
def State.atForce (x : Nat) (s : State) : State :=
  s.withTc fun t => { t with force := x, atForce := true, dwellStart := some (s.now / 1000) }

include hst hv hx hmax hstop

/-- The end of RC's CLAMP at force, asked to halt by TC's mark. -/
theorem exec_forceReading_haltStops (hhalt : s.tc.haltMark = true) :
    ∃ t, exec (.forceReading x) s = .next t ∧ t.tc.state = .halted ∧ t.rc = s.rc.stopsIn (.paused .halt) s.tc.j := by
  obtain ⟨hp, hqueue, hend, hclose, -⟩ := hs
  obtain ⟨t, hsettle, hframe⟩ := settle_haltStops (x := s.atForce x) (b := false) ho hb hrec hend hclose hqueue
    (hearEnd_haltedStops (s := (s.atForce x).afterHalt false) rfl hr rfl)
  refine ⟨t, event_settles hp ((forceRead_lowered hv hst hx hmax).trans
    ((lowered_unstopped (s := s.withTc fun t => { t with force := x }) hstop).trans (if_pos hhalt))) hsettle, ?_, ?_⟩
  · rw [hframe]; rfl
  · rw [hframe]; rfl

omit hr in
/-- Its end DONE, where the run stops then. -/
theorem exec_forceReading_doneStops {out : RunState} (hhalt : s.tc.haltMark = false)
    (hstops : runStops out ((s.atForce x).afterEnd .clamped .done id)
      (State.hearEnd { kind := o.kind, result := .done, byRun := true } ((s.atForce x).afterEnd .clamped .done id))) :
    ∃ t, exec (.forceReading x) s = .next t ∧ t.tc.state = .clamped ∧ t.rc = s.rc.stopsIn out s.tc.j := by
  obtain ⟨hp, hqueue, hend, hclose, -⟩ := hs
  obtain ⟨t, hsettle, hframe⟩ := settle_finishStops (x := s.atForce x) ho hb hrec hend hclose hqueue hstops
  refine ⟨t, event_settles hp (forceRead_lowers hv hst hstop hhalt hx hmax) hsettle, ?_, ?_⟩
  · rw [hframe]; rfl
  · rw [hframe]; rfl

end clamp

end sent

/-! ### The close of the run's ticket (R146, R149) -/

section close
variable {pre : List Ticket} {k : Ticket} {h : Half} (hs : s.quiet) (ht : s.cc.tickets = pre ++ [k]) (hk : k.closed = false)
  (hl : k.left = some h) (hres : h.result = none) (hright : k.right = none) (hc : s.cc.state = .collect)
  (ha : s.cc.aloneA) (hforce : s.tc.pendingOverforce = false) (hdwell : s.tc.pendingDwell = false)

/-- RC's part as it counts its ticket. -/
theorem countCapture_eq (r : Rc) : r.countCapture = { r with captured := min 65535 (r.captured + 1), ticket := none } :=
  rfl

include hs ht hk hl hres hright hc ha hforce hdwell

/-- The frame that closes the run's ticket: what RC makes of the close. -/
theorem exec_cameraStored_heard (ready : Bool) (hown : s.rc.ticket = some k.serial) :
    ∃ y : State, y.rc = s.rc ∧ y.tc = s.tc ∧ y.cc.state = .idle
      ∧ ∀ out rc, (if y.runActive then
            if y.rc.haltRequested then (y.withRc Rc.countCapture).pauseRun .halt else (y.withRc Rc.countCapture).endStep
          else if y.runPaused then y.withRc Rc.countCapture
          else y.withRc fun r => { r with ticket := none }) = out →
        out = { y with rc := rc, lk := out.lk } → onlyNotices y.lk out.lk → out.runQuiet →
        ∃ t, exec (.cameraStored .a ready) s = .next t ∧ t.cc.state = .idle ∧ t.rc = rc := by
  obtain ⟨hp, hqueue, hend, hclose, -⟩ := hs
  obtain ⟨htickets, hcloses⟩ := cameraStored_closes ready ht hk hl hres hright hc ha hforce hdwell
  obtain ⟨x, hx⟩ : ∃ x, x = s.stored .a ready := ⟨_, rfl⟩
  rw [← hx] at htickets hcloses
  have hopen := openTicket_newest htickets hk
  obtain ⟨hframe, hlk⟩ := closeTicket_frame hopen
  obtain ⟨hidle, -⟩ := closeTicket_cc hopen
  have hxrc : x.rc = s.rc := by rw [hx]; rfl
  obtain ⟨y, hy⟩ : ∃ y : State, y = x.closeTicket.withRc fun r => { r with heardClose := none } := ⟨_, rfl⟩
  have hyrc : y.rc = s.rc := by
    rw [hy, withRc_rc, hframe]
    dsimp only
    rw [hxrc, ← hclose]
  have hylk : onlyNotices s.lk y.lk := by
    rw [hy, withRc_lk]
    rw [hx] at hlk ⊢
    exact hlk
  refine ⟨y, hyrc, by rw [hy, withRc_tc, closeTicket_tc, hx]; rfl, by rw [hy]; exact hidle,
    fun out rc hout hframe' hnotices hquiet => ?_⟩
  rw [← hearClose_own (by rw [hyrc]; exact hown)] at hout
  have hsettle : x.closeTicket.settle = out.kick :=
    settle_hearsClose (n := k.serial) (by rw [hframe]; dsimp only; rw [hxrc]; exact hend) (by rw [hframe])
      (by rw [← hy]; exact hout) (by rw [hnotices, hylk]; exact hqueue) hquiet
  refine ⟨_, pinEvent_settles hp hcloses hsettle, ?_, ?_⟩
  · rw [kick_cc, hframe', hy]
    exact hidle
  · rw [kick_rc, hframe']

end close

/-! ### A WAITING step (R148) -/

section waiting
variable (hp : s.powered = true) (hqueue : s.lk.queue = []) (hend : s.rc.heardEnd = none) (hclose : s.rc.heardClose = none)
  (hr : s.runActive = true) (hw : s.rc.phase = .waiting) (ho : s.tc.op = some o) (hb : o.byRun = false)
  (hrec : s.tc.recover = none)
include hend ho hb hrec

/-- The end of an operation that RC did not send, and what RC makes of its WAITING step. -/
theorem settle_wakeStops {st : TcState} {r : OpResult} {g : Tc → Tc} {out : RunState} (hclose : s.rc.heardClose = none)
    (hqueue : s.lk.queue = []) (hstops : runStops out (s.afterEnd st r g) (s.afterEnd st r g).wakeRun) :
    ∃ t, ((s.finishOp st r).withTc g).settle = t
      ∧ t = { s with
          tc := g (s.tc.finished st), rc := s.rc.stopsIn out (g (s.tc.finished st)).j, lk := t.lk } := by
  have hlk : onlyNotices s.lk (s.afterEnd st r g).lk := finishOp_notices st r s
  have hheard : ((s.finishOp st r).withTc g).rc.heardEnd = some { kind := o.kind, result := r, byRun := false } := by
    rw [withTc_rc, finishOp_heard, heardOf_op ho hrec, hb]
  have hafter : ((s.finishOp st r).withTc g).withRc (fun r => { r with heardEnd := none }) = s.afterEnd st r g := by
    rw [finishOp_heard]
    unfold State.afterEnd State.withTc State.withRc
    dsimp only
    rw [← hend]
  obtain ⟨hframe, hnotices⟩ := id hstops
  refine ⟨_, settle_wakes (u := (s.afterEnd st r g).wakeRun) hheard rfl (by rw [withTc_rc, finishOp_heard]; exact hclose)
    (by rw [hafter]) ?_ (runStops_queue hstops (by rw [hlk]; exact hqueue)), (kick_frame _).trans ?_⟩
  · rw [hframe]
    exact hend
  · rw [hframe]
    rfl

include hp hqueue hclose hr hw

/-- A host's UNCLAMP that ends settles TC: the step that waited for its end completes the run at its last opening. -/
theorem exec_upMade_wakes (hstop : s.tc.stopMark = false) (hst : s.tc.state = .raising)
    (hg : s.tc.raiseGoal = some .unclamp) (hdue : s.rc.due = some .stepEnd) (hlast : s.rc.last = some s.tc.j)
    (hpark : s.pins.armPark = true) (hguard : s.pins.guardOpen = false) (hticket : s.ticketOpen = false) :
    ∃ t, exec .platenUpMade s = .next t ∧ t.tc.state = .unclamped ∧ t.rc = s.rc.stopsIn (.ended .complete) s.tc.j := by
  obtain ⟨y, hy⟩ : ∃ y, y = s.raisedUp.afterEnd .unclamped .done id := ⟨_, rfl⟩
  have hsettled : y.runMaySend = true := runMaySend_iff.2
    ⟨by rw [hy]; simp [State.settled, State.afterEnd, Tc.finished, State.raisedUp, Tc.cleared, hpark, hguard],
      by rw [hy]; exact hticket⟩
  have hwakes : y.wakeRun = y.endRun .complete :=
    (wakeRun_stepEnd (by rw [hy]; exact hr) (by rw [hy]; exact hw) (by rw [hy]; nofun) hsettled
      (by rw [hy]; exact hdue)).trans (endStep_complete (by rw [hy]; exact hlast))
  obtain ⟨t, hsettle, hframe⟩ := settle_wakeStops (s := s.raisedUp) (st := .unclamped) (r := .done) (g := id)
    (out := .ended .complete) hend ho hb hrec hclose hqueue (by rw [← hy, hwakes]; exact endRun_stops .complete y)
  refine ⟨t, pinEvent_settles hp ((upMade_raising hst).trans (raised_unclamp (s := s.raisedUp) hg hstop)) hsettle, ?_, ?_⟩
  · rw [hframe]; rfl
  · rw [hframe]; rfl

/-- A raise that faults pauses the run with TURN-FAULT. -/
theorem exec_strokeTimeout_wakes (hst : s.tc.state = .raising) (hreset : s.tc.resetStroke = false)
    (hnow : s.endsNow (s.tc.phaseStart + 1500000)) :
    ∃ t, exec .strokeTimeout s = .next t ∧ t.tc.state = .attention ∧ t.rc = s.rc.stopsIn (.paused .turnFault) s.tc.j := by
  obtain ⟨hdue, htold⟩ := phase_limits (s := s) (told := .attention) (limit := 1500) (.inl ⟨rfl, by simp [hst]⟩)
  obtain ⟨x, hx⟩ : ∃ x, x = s.goTo (s.tc.phaseStart + 1500 * 1000) := ⟨_, rfl⟩
  have hxtc : x.tc = s.tc := by rw [hx]; rfl
  have hends := phaseTimeout_ends (s := x) (by rw [hxtc]; exact ho) (by rw [hxtc]; exact hreset) (by rw [hxtc]; exact htold)
  obtain ⟨hrc, hlk, hrecover, hj⟩ := timedOut_leaves x
  have hrcs : x.timedOut.rc = s.rc := hrc.trans (by rw [hx]; rfl)
  obtain ⟨y, hy⟩ : ∃ y, y = x.timedOut.afterEnd .attention .fault (Tc.atLimit .attention x.now) := ⟨_, rfl⟩
  have hyrc : y.rc = s.rc := by rw [hy]; exact hrcs
  have hwakes : y.wakeRun = y.pauseRun .turnFault :=
    wakeRun_fault (by rw [State.runActive, hyrc]; exact hr) (by rw [hyrc]; exact hw) (by rw [hy]; rfl)
  obtain ⟨t, hsettle, hframe⟩ := settle_wakeStops (s := x.timedOut) (st := .attention) (r := .fault)
    (g := Tc.atLimit .attention x.now) (out := .paused .turnFault) (by rw [hrcs]; exact hend)
    (timedOut_op (by rw [hxtc]; exact ho)) hb (by rw [hrecover, hxtc]; exact hrec) (by rw [hrcs]; exact hclose)
    (by rw [hlk, hx]; exact hqueue) (by rw [← hy, hwakes]; exact pauseRun_stops .turnFault y)
  refine ⟨t, timer_settles hp hdue hnow (by rw [← hx]; exact hends) hsettle, ?_, ?_⟩
  · rw [hframe]; rfl
  · rw [hframe, hrcs]
    have hjs : (Tc.atLimit .attention x.now (x.timedOut.tc.finished .attention)).j = s.tc.j := hj.trans (by rw [hxtc])
    rw [hjs]

end waiting

end Sys2Proof.Machine
end

