-- ==== Sys2Proof/Proofs/RunAnswers.lean ====
section
/-! What HALT, TICKET RELEASE, RESUME and RUN END leave with a run in hand (07 R149 to R154), what the close of the run's
ticket leaves (R146), and the ends of the operations that RUN END has marked (02 R45). -/

namespace Sys2Proof.Machine

variable {s : State} {tag : Byte}

theorem runPaused_inactive (h : s.runPaused = true) : s.runActive = false := by
  unfold State.runPaused at h
  unfold State.runActive
  cases hst : s.rc.state with
  | paused r => rfl
  | idle | active | ended r => rw [hst] at h; exact nomatch h

section requests
variable (hs : s.serves)
include hs

/-! ### HALT (R149) -/

section halt
variable (ht : s.tc.state = .unclamped ∨ s.tc.state = .clamped)
include ht

theorem exec_halt_noted (hr : s.runActive = true) :
    exec (.halt tag) s
      = .next (State.answeredWith 0x23#8 tag .ok { s with rc := { s.rc with haltRequested := true } }) := by
  obtain ⟨⟨⟨-, hqueue, hquiet⟩, -⟩, -⟩ := id hs
  have hw := runQuiet_active hquiet hr
  obtain ⟨hend, hclose, -⟩ := hquiet
  exact exec_decides (i := .halt tag) (a := ⟨.ok, []⟩) hs rfl rfl rfl (fun _ => nofun)
    ((decideHalt_atRest (s := s.holding 0x23#8 tag) ht).trans
      (congrArg (·, _) (rcHalt_active (s := s.holding 0x23#8 tag) (runActive_iff.1 hr) hw)))
    hqueue ⟨hend, hclose, fun h => hw h.2⟩

theorem exec_halt_tickets (hrun : s.rc.state = .paused .tickets) :
    ∃ u, exec (.halt tag) s = .next u ∧ u = { s with rc := { s.rc with state := .paused .halt }, lk := u.lk } := by
  obtain ⟨⟨⟨-, -, hend, hclose, -⟩, -⟩, -⟩ := id hs
  have hframe := setRun_eq (s.holding 0x23#8 tag) (.paused .halt)
  obtain ⟨u, hu, huframe, -⟩ := exec_tells (i := .halt tag) (a := ⟨.ok, []⟩) hs rfl rfl rfl (fun _ => nofun)
    ((decideHalt_atRest (s := s.holding 0x23#8 tag) ht).trans
      (congrArg (·, _) (rcHalt_tickets (s := s.holding 0x23#8 tag) hrun)))
    (setRun_lk _ _) (by rw [hframe]; exact ⟨hend, hclose, fun h => nomatch h.1⟩)
  refine ⟨u, hu, huframe.trans ?_⟩
  rw [hframe]
  exact rfl

end halt

variable {a b : Nat} (ha : s.rc.first = some a) (hb : s.rc.last = some b)
include ha hb

/-! ### TICKET RELEASE (R150) -/

section release
variable {k : Ticket} {rest : List Ticket} {l r : Verdict} (ht : s.cc.tickets = k :: rest) (hc : k.closed = true)
  (ho : k.orphaned = true) (hrun : s.rc.state = .paused .tickets)
include ht hc ho hrun

theorem exec_ticketRelease_out (hout : s.tc.j < a ∨ b < s.tc.j) :
    ∃ u, exec (.ticketRelease tag 1 (some l) (some r)) s = .next u ∧ u.cc.tickets = rest
      ∧ u.rc.state = .ended .outOfRange := by
  obtain ⟨⟨⟨-, -, hend, hclose, -⟩, -⟩, -⟩ := id hs
  obtain ⟨y, hy, hrest, hfreed⟩ := exec_ticketRelease_frees (tag := tag) (l := l) (r := r) hs ht hc ho hrun
  have hstops := endRun_stops .outOfRange y
  have hy' : y.outOfRun = true :=
    outOfRun_outside (by rw [hy]; exact ha) (by rw [hy]; exact hb) (by rw [hy]; exact hout)
  obtain ⟨u, hu, hframe⟩ := hfreed _ (if_pos hy') hstops.2
    (runStops_quiet hstops (by rw [hy]; exact hend) (by rw [hy]; exact hclose))
  rw [hstops.1] at hframe
  exact ⟨u, hu, by rw [hframe]; exact hrest, by rw [hframe]; rfl⟩

theorem exec_ticketRelease_unsettled (h1 : a ≤ s.tc.j) (h2 : s.tc.j ≤ b) (hset : s.settled = false) :
    ∃ u, exec (.ticketRelease tag 1 (some l) (some r)) s = .next u ∧ u.cc.tickets = rest ∧ u.rc = s.rc := by
  obtain ⟨⟨⟨-, -, hquiet⟩, -⟩, -⟩ := id hs
  obtain ⟨y, hy, hrest, hfreed⟩ := exec_ticketRelease_frees (tag := tag) (l := l) (r := r) hs ht hc ho hrun
  have hin : y.outOfRun = false :=
    outOfRun_inside (by rw [hy]; exact ha) (by rw [hy]; exact hb) (by rw [hy]; exact h1) (by rw [hy]; exact h2)
  obtain ⟨u, hu, hframe⟩ := hfreed y ((if_neg (by simp [hin])).trans (if_neg (by rw [hy]; exact Bool.eq_false_iff.1 hset)))
    (onlyNotices_refl _) (by rw [hy]; exact hquiet)
  exact ⟨u, hu, by rw [hframe]; exact hrest, by rw [hframe, hy]⟩

theorem exec_ticketRelease_completes (h1 : a ≤ s.tc.j) (h2 : s.tc.j = b) (hset : s.settled = true)
    (hl : (openingAt s.sau.openings s.tc.j).left = .accepted) (hright : (openingAt s.sau.openings s.tc.j).right = .blank) :
    ∃ u, exec (.ticketRelease tag 1 (some l) (some r)) s = .next u ∧ u.cc.tickets = rest
      ∧ u.rc.state = .ended .complete := by
  obtain ⟨⟨⟨-, -, hend, hclose, -⟩, -⟩, -⟩ := id hs
  obtain ⟨y, hy, hrest, hfreed⟩ := exec_ticketRelease_frees (tag := tag) (l := l) (r := r) hs ht hc ho hrun
  have hin : y.outOfRun = false :=
    outOfRun_inside (by rw [hy]; exact ha) (by rw [hy]; exact hb) (by rw [hy]; exact h1) (by rw [hy]; exact h2.le)
  have hactivated := activated_eq y
  have hstops := activateRun_completes (s := y) (by rw [hy, h2]; exact hb) (by rw [hy]; exact hl) (by rw [hy]; exact hright)
  obtain ⟨u, hu, hframe⟩ := hfreed _ ((if_neg (by simp [hin])).trans (if_pos (by rw [hy]; exact hset)))
    (onlyNotices_trans (activated_lk y) hstops.2)
    (runStops_quiet hstops (by rw [hactivated, hy]; exact hend) (by rw [hactivated, hy]; exact hclose))
  rw [hstops.1, hactivated] at hframe
  exact ⟨u, hu, by rw [hframe]; exact hrest, by rw [hframe]; rfl⟩

end release

/-! ### RESUME (R151) -/

section resume
variable {reason : PauseReason} (hrun : s.rc.state = .paused reason)
include hrun

theorem exec_resume_out (hout : s.tc.j < a ∨ b < s.tc.j) :
    ∃ u, exec (.resume tag) s = .next u
      ∧ u = { s with rc := s.rc.stopsIn (.ended .outOfRange) s.tc.j, lk := u.lk } := by
  obtain ⟨⟨⟨-, -, hend, hclose, -⟩, -⟩, -⟩ := id hs
  have hstops := endRun_stops .outOfRange (s.holding 0x24#8 tag)
  obtain ⟨u, hu, hframe, -⟩ := exec_tells (i := .resume tag) hs rfl rfl rfl (fun _ => nofun)
    ((decideResume_paused (s := s.holding 0x24#8 tag) hrun).trans
      (rcResume_outside (outOfRun_outside (s := s.holding 0x24#8 tag) ha hb hout)))
    hstops.2 (runStops_quiet hstops hend hclose)
  rw [hstops.1] at hframe
  exact ⟨u, hu, hframe⟩

variable (h1 : a ≤ s.tc.j) (h2 : s.tc.j ≤ b)
include h1 h2

theorem exec_resume_refused
    (h : (reason = .manualTurn ∧ s.rc.pauseOpening = some s.tc.j) ∨ (s.tc.state ≠ .halted ∧ s.settled = false)) :
    exec (.resume tag) s = .next (s.answeredWith 0x24#8 tag .state) := by
  have hin := outOfRun_inside (s := s.holding 0x24#8 tag) ha hb h1 h2
  refine exec_unchanged (i := .resume tag) hs rfl rfl rfl (fun _ => nofun)
    ((decideResume_paused (s := s.holding 0x24#8 tag) hrun).trans ?_)
  rcases h with h | ⟨ht, hset⟩
  · exact rcResume_manualTurn hin h
  · exact rcResume_unsettled hin ht hset

variable (hmanual : ¬ (reason = .manualTurn ∧ s.rc.pauseOpening = some s.tc.j))
include hmanual

theorem exec_resume_completes (hset : s.settled = true) (hjb : s.tc.j = b)
    (hl : (openingAt s.sau.openings s.tc.j).left = .accepted) (hright : (openingAt s.sau.openings s.tc.j).right = .blank) :
    ∃ u, exec (.resume tag) s = .next u
      ∧ u = { s with rc := s.rc.activated.stopsIn (.ended .complete) s.tc.j, lk := u.lk }
      ∧ (s.lk.sending = none →
          u.lk.sending = some (.reply { kind := 0xA4#8, tag := tag, result := .accepted, body := [] })) := by
  obtain ⟨⟨⟨-, -, hend, hclose, -⟩, -⟩, -⟩ := id hs
  have hactivated := activated_eq (s.holding 0x24#8 tag)
  have hstops := activateRun_completes (s := s.holding 0x24#8 tag) (hb.trans (congrArg some hjb.symm)) hl hright
  obtain ⟨u, hu, hframe, hreply⟩ := exec_tells (i := .resume tag) hs rfl rfl rfl (fun _ => nofun)
    ((decideResume_paused (s := s.holding 0x24#8 tag) hrun).trans
      (rcResume_settled (outOfRun_inside (s := s.holding 0x24#8 tag) ha hb h1 h2) hmanual hset))
    (onlyNotices_trans (activated_lk _) hstops.2)
    (runStops_quiet hstops (by rw [hactivated]; exact hend) (by rw [hactivated]; exact hclose))
  rw [hstops.1, hactivated] at hframe
  exact ⟨u, hu, hframe, hreply⟩

theorem exec_resume_lifts {o : Op} (ht : s.tc.state = .halted) (ho : s.tc.op = some o) (hby : o.byRun = true)
    (hkind : o.kind = .turn) (hrem : 0 < o.remaining) (hleaf : s.isFoldout s.tc.nextLeaf = false)
    (hdown : s.platenDown = false) :
    ∃ u, exec (.resume tag) s = .next u ∧ u.tc = s.beginLeaf.tc
      ∧ u.rc = { s.rc with state := .active, phase := .turning, haltRequested := false, pauseOpening := none } := by
  obtain ⟨⟨⟨-, -, hend, hclose, -⟩, -⟩, -⟩ := id hs
  obtain ⟨x, hx⟩ : ∃ x, x = (s.holding 0x24#8 tag).beginLeaf.withRc fun rc =>
    { rc with phase := .turning, haltRequested := false, pauseOpening := none } := ⟨_, rfl⟩
  have hd := rcResume_lifts (s := s.holding 0x24#8 tag) (reason := reason)
    (outOfRun_inside (s := s.holding 0x24#8 tag) ha hb h1 h2) hmanual ht ho hby hkind hrem hleaf hdown
  rw [← hx] at hd
  have hframe := setRun_eq x .active
  obtain ⟨u, hu, huframe, -⟩ := exec_tells (i := .resume tag) hs rfl rfl rfl (fun _ => nofun)
    ((decideResume_paused (s := s.holding 0x24#8 tag) hrun).trans hd)
    (onlyNotices_trans (by rw [hx]; exact onlyNotices_refl _) (setRun_lk x .active))
    (by rw [hframe, hx]; exact ⟨hend, hclose, fun h => nomatch h.2⟩)
  rw [hframe, hx] at huframe
  exact ⟨u, hu, by rw [huframe]; rfl, by rw [huframe]; rfl⟩

end resume

end requests

/-! ### RUN END (R154) -/

section ended
variable {x : State} (hx : x = { s with rc := s.rc.stopsIn (.ended .aborted) s.tc.j, lk := x.lk })
include hx

/-- TC's part after RUN END: an operation of the run in motion is marked. -/
theorem runEnded_marks {o : Op} (ho : s.tc.op = some o) (hb : o.byRun = true)
    (hst : s.tc.state ∈ [.lifting, .carrying, .releasing, .returning, .lowering, .raising]) :
    x.runEnded.tc = { s.tc with stopMark := true } := by
  have hxtc : x.tc = s.tc := by rw [hx]
  rw [runEnded_moving (s := x) (by rw [hxtc]; exact ho) hb (by rw [hxtc]; exact hst), ← hxtc]
  exact rfl

/-- An operation of the run in HALTED ends STOPPED. -/
theorem runEnded_stops {o : Op} {u : State} (htc : u.tc = x.runEnded.tc)
    (hbusy : s.lk.sending.isSome = true →
      u.lk.pendingSet = x.runEnded.lk.pendingSet ∧ u.lk.gathered = x.runEnded.lk.gathered)
    (ho : s.tc.op = some o) (hb : o.byRun = true) (hst : s.tc.state = .halted) (hrec : s.tc.recover = none) :
    opStopped o (if s.platenDown then .clamped else .unclamped) s u ∧ u.tc.loweringDue = false := by
  have hxtc : x.tc = s.tc := by rw [hx]
  have hends := runEnded_halted (s := x) (by rw [hxtc]; exact ho) hb (by rw [hxtc]; exact hst)
  have hrest : x.restState = if s.platenDown then .clamped else .unclamped := by rw [hx]; rfl
  rw [hrest] at hends
  rw [hends, finishOp_tc] at htc
  refine ⟨⟨by rw [htc]; rfl, by rw [htc], by rw [htc, hx]; rfl, fun hm hb => ?_⟩, by rw [htc]⟩
  obtain ⟨hpends, hgathered⟩ := hbusy hb
  have hmask : (x.withTc Tc.dropRemaining).set.noticeMask.getLsbD 3 = true := by rw [hx]; exact hm
  rw [hpends, hgathered, hends, finishOp_turnEnd, if_pos hmask]
  refine ⟨finishOp_pends _ _ _ hmask, ?_⟩
  rw [hx]
  simp [State.endNotice, Tc.endKind, State.withTc, Tc.dropRemaining, ho, hrec]

end ended

/-! ### The close of the run's ticket (R146, R149, R154) -/

section close
variable {pre : List Ticket} {k : Ticket} {h : Half} {ready : Bool} (hs : s.quiet) (ht : s.cc.tickets = pre ++ [k])
  (hk : k.closed = false) (hl : k.left = some h) (hres : h.result = none) (hright : k.right = none)
  (hc : s.cc.state = .collect) (ha : s.cc.aloneA) (hforce : s.tc.pendingOverforce = false)
  (hdwell : s.tc.pendingDwell = false) (hown : s.rc.ticket = some k.serial)
include hs ht hk hl hres hright hc ha hforce hdwell hown

/-- The close that an ACTIVE run stops at, counted. -/
theorem exec_cameraStored_stops {out : RunState} (hact : s.runActive = true)
    (hout : (s.rc.haltRequested = true ∧ out = .paused .halt)
      ∨ (s.rc.haltRequested = false ∧ s.rc.last = some s.tc.j ∧ out = .ended .complete)) :
    ∃ t, exec (.cameraStored .a ready) s = .next t ∧ t.cc.state = .idle ∧ t.rc = s.rc.countCapture.stopsIn out s.tc.j := by
  obtain ⟨-, -, hend, hclose, -⟩ := id hs
  obtain ⟨y, hyrc, hytc, -, hheard⟩ := exec_cameraStored_heard hs ht hk hl hres hright hc ha hforce hdwell ready hown
  have hyact : y.runActive = true := by rw [State.runActive, hyrc]; exact hact
  have hcount : (y.withRc Rc.countCapture).rc = s.rc.countCapture := by rw [withRc_rc, hyrc]
  obtain ⟨u, hu, hstops⟩ : ∃ u, (if y.rc.haltRequested then (y.withRc Rc.countCapture).pauseRun .halt
      else (y.withRc Rc.countCapture).endStep) = u ∧ runStops out (y.withRc Rc.countCapture) u := by
    rcases hout with ⟨hh, rfl⟩ | ⟨hh, hlast, rfl⟩
    · exact ⟨_, if_pos (by rw [hyrc]; exact hh), pauseRun_stops .halt _⟩
    · exact ⟨_, (if_neg (by rw [hyrc, hh]; exact Bool.false_ne_true)).trans
        (endStep_complete (by rw [hcount, withRc_tc, hytc]; exact hlast)), endRun_stops .complete _⟩
  have hquiet := runStops_quiet hstops (by rw [hcount]; exact hend) (by rw [hcount]; exact hclose)
  obtain ⟨hframe, hnotices⟩ := hstops
  obtain ⟨t, hexec, hidle, hrc⟩ := hheard u _ ((if_pos hyact).trans hu) hframe hnotices hquiet
  rw [hcount, withRc_tc, hytc] at hrc
  exact ⟨t, hexec, hidle, hrc⟩

/-- A PAUSED run counts the close and goes on to nothing. -/
theorem exec_cameraStored_counts (hpaus : s.runPaused = true) :
    ∃ t, exec (.cameraStored .a ready) s = .next t ∧ t.cc.state = .idle ∧ t.rc = s.rc.countCapture := by
  obtain ⟨-, -, hend, hclose, -⟩ := id hs
  obtain ⟨y, hyrc, -, -, hheard⟩ := exec_cameraStored_heard hs ht hk hl hres hright hc ha hforce hdwell ready hown
  have hinactive : ¬ y.runActive = true := by
    rw [State.runActive, hyrc]
    exact Bool.eq_false_iff.1 (runPaused_inactive hpaus)
  obtain ⟨t, hexec, hidle, hrc⟩ := hheard (y.withRc Rc.countCapture) _
    ((if_neg hinactive).trans (if_pos (by rw [State.runPaused, hyrc]; exact hpaus))) rfl (onlyNotices_refl _)
    ⟨by rw [withRc_rc, hyrc]; exact hend, by rw [withRc_rc, hyrc]; exact hclose, fun h => hinactive h.1⟩
  rw [hyrc] at hrc
  exact ⟨t, hexec, hidle, hrc⟩

/-- With no run ACTIVE or PAUSED the close is not counted. -/
theorem exec_cameraStored_uncounted (hact : s.runActive = false) (hpaus : s.runPaused = false) :
    ∃ t, exec (.cameraStored .a ready) s = .next t ∧ t.cc.state = .idle ∧ t.rc = { s.rc with ticket := none } := by
  obtain ⟨-, -, hend, hclose, -⟩ := id hs
  obtain ⟨y, hyrc, -, -, hheard⟩ := exec_cameraStored_heard hs ht hk hl hres hright hc ha hforce hdwell ready hown
  have hinactive : ¬ y.runActive = true := by
    rw [State.runActive, hyrc]
    exact Bool.eq_false_iff.1 hact
  obtain ⟨t, hexec, hidle, hrc⟩ := hheard (y.withRc fun r => { r with ticket := none }) _
    ((if_neg hinactive).trans (if_neg (by rw [State.runPaused, hyrc]; exact Bool.eq_false_iff.1 hpaus))) rfl
    (onlyNotices_refl _)
    ⟨by rw [withRc_rc, hyrc]; exact hend, by rw [withRc_rc, hyrc]; exact hclose, fun h => hinactive h.1⟩
  rw [hyrc] at hrc
  exact ⟨t, hexec, hidle, hrc⟩

end close

/-! ### The end of a marked operation (02 R45) -/

section stopped
variable {o : Op} (hs : s.quiet) (hact : s.runActive = false) (ho : s.tc.op = some o) (hstop : s.tc.stopMark = true)
  (hrec : s.tc.recover = none)
include hs hact ho hstop hrec

theorem exec_parkMade_stopped (hst : s.tc.state = .returning) (hg : s.tc.returnGoal = some .turn)
    (hreset : s.tc.resetStroke = false) : ∃ t, exec .armParkMade s = .next t ∧ opStopped o .unclamped s t := by
  obtain ⟨hp, hqueue, -⟩ := hs
  obtain ⟨t, ht, hends⟩ := pinEvent_endsOp (g := id) (x := s.parked.withTc Tc.dropRemaining)
    (pin := fun s1 => { s1 with pins := { s1.pins with armPark := true } }) hp
    ((parkMade_turn hst hreset hg).trans (turnReturned_stopped (s := s.parked) ho hstop)) hqueue hact
  exact ⟨t, ht, endsOp_opStopped hends (congrArg (Option.map _) ho) rfl hrec rfl rfl rfl⟩

theorem exec_upMade_stopped {goal : RaiseGoal} (hst : s.tc.state = .raising) (hg : s.tc.raiseGoal = some goal)
    (hgoal : goal ∈ [.unclamp, .lift, .foldoutStop]) :
    ∃ t, exec .platenUpMade s = .next t ∧ opStopped o .unclamped s t := by
  obtain ⟨hp, hqueue, -⟩ := hs
  obtain ⟨f, hf, hraised⟩ := raised_stopped (s := s.raisedUp) hg hgoal hstop
  obtain ⟨t, ht, hends⟩ := pinEvent_endsOp (g := id) (x := s.raisedUp.withTc f)
    (pin := fun s1 => { s1 with pins := { s1.pins with platenUp := true } }) hp
    ((upMade_raising hst).trans hraised) hqueue hact
  rcases hf with rfl | rfl
  · exact ⟨t, ht, endsOp_opStopped hends ho rfl hrec rfl rfl rfl⟩
  · exact ⟨t, ht, endsOp_opStopped hends (congrArg (Option.map _) ho) rfl hrec rfl rfl rfl⟩

theorem exec_forceReading_stopped {v : Volume} {x : Nat} (hv : s.sau.volume = some v) (hst : s.tc.state = .lowering)
    (hx : v.limits.forceTarget - v.limits.forceTarget / 20 ≤ x) (hmax : x ≤ min (3 * v.limits.forceTarget / 2) 3600) :
    ∃ t, exec (.forceReading x) s = .next t ∧ opStopped o .clamped s t := by
  obtain ⟨hp, hqueue, -⟩ := hs
  obtain ⟨t, ht, hends⟩ := event_endsOp (g := id) (s := s) hp
    ((forceRead_lowered hv hst hx hmax).trans (lowered_stopped (s := s.withTc fun t => { t with force := x }) hstop))
    hqueue hact
  exact ⟨t, ht, endsOp_opStopped hends ho rfl hrec rfl rfl rfl⟩

end stopped

end Sys2Proof.Machine
end

