-- ==== Sys2Proof/Proofs/Runs.lean ====
section
/-! A run starts, takes its steps, pauses, resumes and ends (07 R143 to R154): the clauses of O58 from what each request and
each event leaves. -/

namespace Sys2Proof.Machine

/-- The arguments of a RUN START that are in range. -/
theorem runStart_inRange {j last n profile : Nat} {mode : RunMode} (hj : j ≤ last) (hn : last ≤ n) (hp : profile ≤ 3) :
    ¬ (last < j ∨ n < last ∨ 3 < profile ∨ some mode = none) := by
  rintro (h | h | h | h)
  · exact absurd hj (Nat.not_le.2 h)
  · exact absurd hn (Nat.not_le.2 h)
  · exact absurd hp (Nat.not_le.2 h)
  · exact nomatch h

/-- Settles O58, by the request or the event, and by what it leaves. -/
theorem runsStartAndEnd : Obligations.RunsStartAndEnd := by
  refine ⟨fun tag last profile mode s hs => ⟨fun h => ?refused, fun v hv hact hpaus hset => ?tests, fun h => ?noRun,
      fun hpaus hop => ?endsPaused⟩,
    fun tag last profile mode s v hs hv hact hpaus hset hk hj hn hp3 =>
      ⟨fun rule hl hfits hrule => ⟨fun h => ?captures, fun r st h hst => ?answered⟩, fun hl hright hlast hpreview =>
        ⟨fun hm ht => ?manual, fun hm ht => ?unclamps, fun hauto ht hleaf => ?turns⟩⟩,
    fun s o hs hr ho hb hrec hstop => ⟨fun hk hst hg => ?unclampEnds, fun limit hreset hnow hlimit => ?faults,
      fun hk hst hg hreset => ⟨fun hrem hhalt => ?turnHalts, fun hrem hhalt hleaf => ?foldout,
        fun hrem hafter hfrom => ⟨fun hh => ?turnHaltNoted, fun hh hlast hl hright => ?turnCompletes,
          fun v profile rule hh hv hprofile hfree hguard hticket hl hrule h => ?turnCaptures⟩⟩,
      fun v x hk hst hv hx hmax => ⟨fun hh => ?clampHalts, fun hh hhalt hlast hl hright => ?clampCompletes⟩⟩,
    fun s pre k h ready hs ht hk hl hres hright hc hat hbt hdwell hforce hown =>
      ⟨fun st hst => ?closeCounted, fun hact hpaus => ?closeUncounted⟩,
    fun s o hp hq hend hclose hr hw ho hb _ hst hg hrec hstop =>
      ⟨fun hdue hlast hpark hguard hticket => ?wakes, fun hreset hnow => ?wakesFault⟩,
    fun tag s hs => ⟨fun hr ht => ?haltNoted, fun hrun ht => ?haltTickets,
      fun l r k rest a b hrun ha hb ht hc ho => ⟨fun hout => ?freedOut, fun h1 h2 hset => ?freedUnsettled,
        fun h1 h2 hset hl hright => ?freedCompletes⟩,
      fun reason a b hrun ha hb => ⟨fun hout => ?resumeOut, fun h1 h2 => ⟨fun hreason hopening => ?resumeManual,
        fun ht hset => ?resumeUnsettled, fun hset hjb hmanual hl hright => ?resumeCompletes,
        fun o ht ho hby hkind hrem hmanual hleaf hdown => ?resumeLifts⟩⟩⟩,
    fun tag s hs hrun => ?runEnd,
    fun s o v hs hact ho hstop hrec hv => ⟨fun hst hg hreset => ?stopsAtPark, fun goal hst hg hgoal => ?stopsUp,
      fun x hst hx hmax => ?stopsAtForce⟩⟩
  case refused => exact exec_unchanged hs rfl rfl rfl (fun _ => nofun) (decideRunStart_state (s := s.holding 0x50#8 tag) h)
  case tests =>
    have hd := decideRunStart_settled (s := s.holding 0x50#8 tag) (last := last) (profile := profile) (mode := mode) hv hact
      hpaus hset
    split
    next hk => exact exec_unchanged hs rfl rfl rfl (fun _ => nofun) (hd.trans (if_pos hk))
    next hk =>
    split
    next hargs => exact exec_unchanged hs rfl rfl rfl (fun _ => nofun) (hd.trans ((if_neg hk).trans (if_pos hargs)))
    next hargs =>
    rw [Bool.not_eq_true] at hk
    refine ⟨fun hlast hl hright => ?complete, fun hl ht hpolicy hpreview => ?clamps⟩
    case complete =>
      obtain ⟨u, hu, hframe, hreply⟩ := exec_runStart_complete (tag := tag) hs hv hact hpaus hset hk hargs hlast hl hright
      refine ⟨u, hu, ?_⟩
      rw [hframe]
      exact ⟨rfl, rfl, rfl, rfl, rfl, rfl, rfl, rfl, hreply⟩
    case clamps =>
      obtain ⟨u, hu, hframe, hreply⟩ := exec_runStart_clamps (tag := tag) hs hv hact hpaus hset hk hargs hl ht hpolicy
        hpreview
      refine ⟨u, hu, ?_⟩
      rw [hframe]
      exact ⟨rfl, rfl, rfl, rfl, rfl, rfl, rfl, rfl, rfl, rfl, rfl, rfl, rfl, hreply⟩
  case noRun =>
    refine exec_unchanged (i := .runEnd tag) hs rfl rfl rfl (fun _ => nofun) (if_neg ?_)
    rcases h with h | ⟨e, h⟩ <;> simp [State.runActive, State.runPaused, State.holding, h]
  case endsPaused =>
    obtain ⟨x, u, hx, -, hu, hframe, hreply, -⟩ := exec_runEnd (tag := tag) hs (.inr hpaus)
    have hstays : x.runEnded = x := runEnded_foreign fun o ho => by
      rw [hx] at ho
      exact nomatch hop.symm.trans ho
    rw [hstays, hx] at hframe
    refine ⟨u, hu, ?_⟩
    rw [hframe]
    exact ⟨rfl, rfl, rfl, hreply⟩
  case captures =>
    have hargs := runStart_inRange (mode := mode) hj hn hp3
    obtain ⟨u, hu, hrc, hstate, hlength, htc, hpins, hfb⟩ := exec_runStart_captures (tag := tag) hs hv hact hpaus hset hk hargs
      hl hfits hrule h
    exact ⟨u, hu, by rw [hrc]; rfl, by rw [hrc], by rw [hrc], hstate, hlength, htc, hpins, hfb⟩
  case answered =>
    have hargs := runStart_inRange (mode := mode) hj hn hp3
    obtain ⟨u, hu, hframe⟩ := exec_runStart_refused (tag := tag) hs hv hact hpaus hset hk hargs hl hfits hrule h hst
    refine ⟨u, hu, ?_⟩
    rw [hframe]
    split
    · exact ⟨rfl, rfl, rfl, rfl, rfl, rfl, rfl, rfl, rfl, rfl⟩
    · exact ⟨rfl, rfl, rfl, rfl, rfl, rfl, rfl, rfl, rfl, rfl⟩
  case manual =>
    have hargs := runStart_inRange (mode := mode) hj hn hp3
    obtain ⟨u, hu, hframe⟩ := exec_runStart_manual (tag := tag) hs hv hact hpaus hset hk hargs hl hright hlast hm ht
    refine ⟨u, hu, ?_⟩
    rw [hframe]
    exact ⟨rfl, rfl, rfl⟩
  case unclamps =>
    have hargs := runStart_inRange (mode := mode) hj hn hp3
    obtain ⟨u, hu, hframe⟩ := exec_runStart_unclamps (tag := tag) hs hv hact hpaus hset hk hargs hl hright hlast hpreview hm ht
    refine ⟨u, hu, ?_⟩
    rw [hframe]
    exact ⟨rfl, rfl, rfl, rfl, rfl, rfl⟩
  case turns =>
    have hargs := runStart_inRange (mode := mode) hj hn hp3
    obtain ⟨u, hu, hframe⟩ := exec_runStart_turns (tag := tag) hs hv hact hpaus hset hk hargs hl hright hlast hpreview hauto ht
      hleaf
    have hpolicy : (v.limits.policy == PlatenPolicy.clamp) = decide (v.limits.policy = .clamp) := by
      cases v.limits.policy <;> rfl
    rw [hpolicy] at hframe
    refine ⟨u, hu, ?_⟩
    rw [hframe]
    exact ⟨rfl, rfl, rfl, rfl, rfl, rfl⟩
  case unclampEnds =>
    obtain ⟨t, ht, htc, hrc⟩ := exec_upMade_unclampStops hs hr ho hb hrec hstop hk hst hg
    refine ⟨t, ht, by rw [htc]; rfl, by rw [htc]; rfl, by rw [hrc]; rfl, by rw [hrc]; rfl, ?_, by rw [hrc]; rfl⟩
    rw [hrc]
    cases s.rc.haltRequested <;> rfl
  case faults =>
    obtain ⟨t, ht, hstate, hop, hrc⟩ := exec_strokeTimeout_faultStops hs hr ho hb hrec hreset hnow hlimit
    exact ⟨t, ht, hstate, hop, by rw [hrc]; rfl, by rw [hrc]; rfl, by rw [hrc]; rfl⟩
  case turnHalts =>
    obtain ⟨t, ht, htc, hrc⟩ := exec_parkMade_haltStops hs hr ho hb hrec hstop hst hg hreset hrem hhalt
    refine ⟨t, ht, by rw [htc]; rfl, ?_, by rw [hrc]; rfl⟩
    rw [htc]
    exact congrArg (Option.map Op.remaining) ho
  case foldout =>
    obtain ⟨t, ht, htc, hrc⟩ := exec_parkMade_foldoutStops hs hr ho hb hrec hstop hst hg hreset hrem hhalt hleaf
    exact ⟨t, ht, by rw [htc]; rfl, by rw [hrc]; rfl⟩
  case turnHaltNoted =>
    obtain ⟨t, ht, htc, hrc⟩ := exec_parkMade_doneStops hs ho hb hrec hstop hst hg hreset hrem hafter hfrom
      (hearEnd_haltStops (s := s.parked.afterEnd .unclamped .done id) rfl hr hh (.inl rfl))
    exact ⟨t, ht, by rw [htc]; rfl, by rw [hrc]; rfl⟩
  case turnCompletes =>
    obtain ⟨t, ht, htc, hrc⟩ := exec_parkMade_doneStops hs ho hb hrec hstop hst hg hreset hrem hafter hfrom
      (hearEnd_completes (s := s.parked.afterEnd .unclamped .done id) rfl hr hh rfl (.inl hk) hlast hl hright)
    exact ⟨t, ht, by rw [htc]; rfl, by rw [hrc]; rfl⟩
  case turnCaptures =>
    obtain ⟨t, ht, hstate, hcc, hrc⟩ := exec_parkMade_captures hs hr ho hb hrec hstop hk hst hg hreset hrem hafter hfrom hh
      hv hprofile hfree hguard hticket hl hrule h
    exact ⟨t, ht, hstate, by rw [hrc]; exact runActive_iff.1 hr, by rw [hrc], by rw [hrc], hcc⟩
  case clampHalts =>
    cases hhalt : s.tc.haltMark with
    | true =>
      obtain ⟨t, ht, hstate, hrc⟩ := exec_forceReading_haltStops hs hr ho hb hrec hstop hst hv hx hmax hhalt
      exact ⟨t, ht, by rw [hrc]; rfl, hstate⟩
    | false =>
      obtain ⟨t, ht, hstate, hrc⟩ := exec_forceReading_doneStops hs ho hb hrec hstop hst hv hx hmax hhalt
        (hearEnd_haltStops (s := (s.atForce x).afterEnd .clamped .done id) rfl hr hh (.inl rfl))
      exact ⟨t, ht, by rw [hrc]; rfl, hstate⟩
  case clampCompletes =>
    obtain ⟨t, ht, hstate, hrc⟩ := exec_forceReading_doneStops hs ho hb hrec hstop hst hv hx hmax hhalt
      (hearEnd_completes (s := (s.atForce x).afterEnd .clamped .done id) rfl hr hh rfl (.inr hk) hlast hl hright)
    exact ⟨t, ht, hstate, by rw [hrc]; rfl⟩
  case closeCounted =>
    rcases hst with ⟨hpaus, rfl⟩ | ⟨hact, hh, rfl⟩ | ⟨hact, hh, hlast, rfl⟩
    · obtain ⟨t, hexec, hidle, hrc⟩ := exec_cameraStored_counts hs ht hk hl hres hright hc ⟨hat, hbt⟩ hforce hdwell hown hpaus
      exact ⟨t, hexec, hidle, by rw [hrc]; rfl, by rw [hrc]; rfl, by rw [hrc]; rfl⟩
    · obtain ⟨t, hexec, hidle, hrc⟩ := exec_cameraStored_stops hs ht hk hl hres hright hc ⟨hat, hbt⟩ hforce hdwell hown hact
        (.inl ⟨hh, rfl⟩)
      exact ⟨t, hexec, hidle, by rw [hrc]; rfl, by rw [hrc]; rfl, by rw [hrc]; rfl⟩
    · obtain ⟨t, hexec, hidle, hrc⟩ := exec_cameraStored_stops hs ht hk hl hres hright hc ⟨hat, hbt⟩ hforce hdwell hown hact
        (.inr ⟨hh, hlast, rfl⟩)
      exact ⟨t, hexec, hidle, by rw [hrc]; rfl, by rw [hrc]; rfl, by rw [hrc]; rfl⟩
  case closeUncounted =>
    obtain ⟨t, hexec, hidle, hrc⟩ := exec_cameraStored_uncounted hs ht hk hl hres hright hc ⟨hat, hbt⟩ hforce hdwell hown hact
      hpaus
    exact ⟨t, hexec, hidle, by rw [hrc], by rw [hrc], by rw [hrc]⟩
  case wakes =>
    obtain ⟨t, ht, hstate, hrc⟩ := exec_upMade_wakes hp hq hend hclose hr hw ho hb hrec hstop hst hg hdue hlast hpark hguard
      hticket
    exact ⟨t, ht, hstate, by rw [hrc]; rfl⟩
  case wakesFault =>
    obtain ⟨t, ht, hstate, hrc⟩ := exec_strokeTimeout_wakes hp hq hend hclose hr hw ho hb hrec hst hreset hnow
    exact ⟨t, ht, hstate, by rw [hrc]; rfl⟩
  case haltNoted => exact exec_halt_noted hs ht hr
  case haltTickets =>
    obtain ⟨t, hexec, hframe⟩ := exec_halt_tickets hs ht hrun
    exact ⟨t, hexec, by rw [hframe], by rw [hframe]⟩
  case freedOut => exact exec_ticketRelease_out hs ha hb ht hc ho hrun hout
  case freedUnsettled => exact exec_ticketRelease_unsettled hs ha hb ht hc ho hrun h1 h2 hset
  case freedCompletes => exact exec_ticketRelease_completes hs ha hb ht hc ho hrun h1 h2 hset hl hright
  case resumeOut =>
    obtain ⟨t, hexec, hframe⟩ := exec_resume_out hs ha hb hrun hout
    exact ⟨t, hexec, by rw [hframe]; rfl, by rw [hframe]⟩
  case resumeManual => exact exec_resume_refused hs ha hb hrun h1 h2 (.inl ⟨hreason, hopening⟩)
  case resumeUnsettled => exact exec_resume_refused hs ha hb hrun h1 h2 (.inr ⟨ht, hset⟩)
  case resumeCompletes =>
    obtain ⟨t, hexec, hframe, hreply⟩ := exec_resume_completes hs ha hb hrun h1 h2 hmanual hset hjb hl hright
    exact ⟨t, hexec, by rw [hframe]; rfl, by rw [hframe], hreply⟩
  case resumeLifts =>
    obtain ⟨t, hexec, htc, hrc⟩ := exec_resume_lifts hs ha hb hrun h1 h2 (fun h => hmanual h.1) ht ho hby hkind hrem hleaf hdown
    exact ⟨t, hexec, by rw [htc]; rfl, by rw [hrc], by rw [hrc], by rw [hrc], by rw [hrc]⟩
  case runEnd =>
    obtain ⟨x, u, hx, -, hu, hframe, hreply, hbusy⟩ := exec_runEnd (tag := tag) hs hrun
    obtain ⟨⟨e, hended⟩, -⟩ := runEnded_frame x
    have hsame : u = { s with tc := x.runEnded.tc, rc := s.rc.stopsIn (.ended .aborted) s.tc.j, lk := u.lk } := by
      refine hframe.trans ?_
      rw [hended, hx]
    have htc : u.tc = x.runEnded.tc := by rw [hsame]
    refine ⟨u, hu, by rw [hsame]; rfl, by rw [hsame]; rfl, by rw [hsame]; rfl, by rw [hsame]; rfl, by rw [hsame],
      hreply, fun o ho hb hst => ?moving, fun o ho hb hst hrec => ?held, fun h => ?stays⟩
    case moving => exact htc.trans (runEnded_marks hx ho hb hst)
    case held => exact runEnded_stops hx htc hbusy ho hb hst hrec
    case stays =>
      have hxtc : x.tc = s.tc := by rw [hx]
      rw [htc, runEnded_stays (by rw [hxtc]; exact h), hxtc]
  case stopsAtPark => exact exec_parkMade_stopped hs hact ho hstop hrec hst hg hreset
  case stopsUp => exact exec_upMade_stopped hs hact ho hstop hrec hst hg hgoal
  case stopsAtForce => exact exec_forceReading_stopped hs hact ho hstop hrec hv hst hx hmax

end Sys2Proof.Machine
end

