-- ==== Sys2Proof/Proofs/PendantPresses.lean ====
section
/-! Presses of the pendant's keys (07 R156, R157): what the debounced press of a key leaves, from what its action leaves,
and the actions of HALT, PEDAL, CONFIRM and LAMP. -/

namespace Sys2Proof.Machine

variable {s t x : State} {k : Key}

/-! ### The press and its notice (R157, R159) -/

/-- A press that joins the notice leaves what its action leaves. -/
theorem pendantNotice_leaves (hmode : s.set.pendantMode ≠ .off) : pressLeaves k s (s.pendantNotice k).kick := by
  refine ⟨(kick_frame _).trans ?_, fun _ hm hb => ?_, fun h => absurd h hmode⟩
  · unfold State.pendantNotice
    rw [notifyWith_frame]
  · have hbusy : (s.pendantNotice k).lk.sending.isSome = true := hb ▸ congrArg Option.isSome (notifyWith_sending _ _ _)
    rw [kick_busy hbusy]
    refine ⟨notifyWith_pends (k := .pendant) hm, ?_⟩
    unfold State.pendantNotice
    rw [notifyWith_unmasked (k := .pendant) hm]
    unfold insertNew
    split
    next h => exact h
    next => exact List.mem_append_right _ (List.mem_singleton_self k)

theorem pendantNotice_rc (s : State) (k : Key) : (s.pendantNotice k).rc = s.rc := notifyWith_rc _ _ _

/-- The action of a press: HALT acts in every mode, each other key in LOCAL (R157). -/
def State.pressActs (k : Key) (s : State) : State :=
  if k = .halt ∨ s.set.pendantMode = .localMode then s.actKey k else s

theorem pressActs_halt : s.pressActs .halt = s.actKey .halt := if_pos (.inl rfl)

theorem pressActs_local (hmode : s.set.pendantMode = .localMode) : s.pressActs k = s.actKey k := if_pos (.inr hmode)

theorem pressActs_silent (hmode : s.set.pendantMode ≠ .localMode) (hk : k ≠ .halt) : s.pressActs k = s :=
  if_neg (by simp [hmode, hk])

/-- A press is its action, and outside OFF it joins the notice. -/
theorem pressKey_eq (s : State) (k : Key) :
    s.pressKey k = if s.set.pendantMode = .off then s.pressActs k else (s.pressActs k).pendantNotice k := by
  unfold State.pressKey State.pressActs
  cases s.set.pendantMode <;> cases k <;> simp

section press
variable {since : Nat} (hs : s.quiet) (hstart : s.starting = false)
  (hc : (s.ps.inputs.get k).candidate = some (true, since)) (hnow : s.endsNow (since + 20000))
include hs hstart hc hnow

/-- KEY_PRESS of a press held for 20 ms: the press is stable, and leaves what its action leaves. -/
theorem exec_keyPress (hx : (s.debounced k since).pressActs k = x) (hset : x.set = s.set) (hlk : onlyNotices s.lk x.lk)
    (hr : x.runQuiet) : ∃ t, exec (.keyPress k) s = .next t ∧ pressLeaves k x t := by
  obtain ⟨hp, hqueue, -⟩ := hs
  have hdue : State.keyDue? k s = some (since + 20000) := congrArg (Option.map _) hc
  have hstable : State.keyStable k (s.goTo (since + 20000)) = (s.debounced k since).pressKey k := by
    unfold State.keyStable
    rw [show ((s.goTo (since + 20000)).ps.inputs.get k).candidate = some (true, since) from hc]
    dsimp only
    exact if_pos (by rw [show (s.goTo (since + 20000)).starting = false from hstart]; rfl)
  rw [pressKey_eq, hx] at hstable
  have hxqueue : x.lk.queue = [] := by rw [hlk]; exact hqueue
  by_cases hoff : s.set.pendantMode = .off
  · replace hstable := hstable.trans (if_pos hoff)
    refine ⟨_, timer_next hp hdue hnow hstable hxqueue hr, kick_frame x, fun h => ?_, fun _ => rfl⟩
    rw [hset] at h
    exact absurd hoff h
  · replace hstable := hstable.trans (if_neg hoff)
    refine ⟨_, timer_next hp hdue hnow hstable ((notifyWith_queue _ _ _).trans hxqueue)
      (runQuiet_rc (pendantNotice_rc x k) hr), pendantNotice_leaves (by rw [hset]; exact hoff)⟩

/-- A press in LOCAL whose action leaves RC's part, the settings and LK as they are. -/
theorem exec_keyPress_local (hmode : s.set.pendantMode = .localMode) (hx : (s.debounced k since).actKey k = x)
    (hset : x.set = s.set) (hlk : x.lk = s.lk) (hr : x.rc = s.rc) :
    ∃ t, exec (.keyPress k) s = .next t ∧ pressLeaves k x t := by
  obtain ⟨-, -, hquiet⟩ := id hs
  exact exec_keyPress hs hstart hc hnow ((pressActs_local (s := s.debounced k since) hmode).trans hx) hset
    (by rw [hlk]; exact onlyNotices_refl _) (runQuiet_rc hr hquiet)

end press

/-! ### HALT (02 R42, 07 R149) -/

section halt
variable (hact : s.runActive = false) (hpaus : s.runPaused = false)
include hact hpaus

/-- With no run ACTIVE or PAUSED, RC takes no part in a HALT. -/
theorem rcHalt_stays : s.rcHalt = s := by
  unfold State.rcHalt
  unfold State.runActive at hact
  unfold State.runPaused at hpaus
  cases h : s.rc.state with
  | active => rw [h] at hact; exact nomatch hact
  | paused r => rw [h] at hpaus; exact nomatch hpaus
  | idle | ended e => rfl

theorem decideHalt_homing (ht : s.tc.state = .homing) : decideHalt s = (s, ⟨.state, []⟩) := by
  have htc : tcHalt s = (s, ⟨.state, []⟩) := if_pos ht
  unfold decideHalt
  rw [htc]
  exact congrArg (·, _) (rcHalt_stays hact hpaus)

theorem decideHalt_moving (ht : s.tc.state ∈ [.lifting, .carrying, .releasing, .returning, .raising, .lowering]) :
    decideHalt s = ({ s with tc := { s.tc with haltMark := true } }, ⟨.ok, []⟩) := by
  obtain ⟨x, hx⟩ : ∃ x : State, x = { s with tc := { s.tc with haltMark := true } } := ⟨_, rfl⟩
  have htc : tcHalt s = (x, ⟨.ok, []⟩) := by
    simp only [List.mem_cons, List.not_mem_nil, or_false] at ht
    rw [hx]
    unfold tcHalt
    rcases ht with h | h | h | h | h | h <;> rw [h] <;> rfl
  unfold decideHalt
  rw [htc, ← hx]
  exact congrArg (·, _) (rcHalt_stays (s := x) (by rw [hx]; exact hact) (by rw [hx]; exact hpaus))

end halt

/-! ### PEDAL (R158) -/

theorem pressPedal_ignored (h : s.runActive = true ∨ s.rc.state = .paused .turnFault ∨ s.rc.state = .paused .guard
    ∨ (s.runPaused = false ∧ s.settled = false)) : s.pressPedal = s.ignored .pedal := by
  unfold State.pressPedal
  cases hst : s.rc.state with
  | active => rfl
  | idle | ended e =>
    rcases h with h | h | h | ⟨-, h⟩
    · exact absurd (hst.symm.trans (runActive_iff.1 h)) nofun
    · exact absurd (hst.symm.trans h) nofun
    · exact absurd (hst.symm.trans h) nofun
    · exact if_neg (by rw [h]; exact Bool.false_ne_true)
  | paused r =>
    rcases h with h | h | h | ⟨h, -⟩
    · exact absurd (hst.symm.trans (runActive_iff.1 h)) nofun
    · rw [hst] at h
      cases h
      rfl
    · rw [hst] at h
      cases h
      rfl
    · rw [State.runPaused, hst] at h
      exact nomatch h

theorem pressPedal_resumes {reason : PauseReason} (h : s.rc.state = .paused reason) (hfault : reason ≠ .turnFault)
    (hguard : reason ≠ .guard) : s.pressPedal = State.byKey .pedal .resume (rcResume reason s) := by
  rw [← decideResume_paused h]
  unfold State.pressPedal
  rw [h]
  cases reason with
  | turnFault => exact absurd rfl hfault
  | guard => exact absurd rfl hguard
  | _ => rfl

theorem pressPedal_captures (hact : s.runActive = false) (hpaus : s.runPaused = false) (hset : s.settled = true) :
    s.pressPedal = State.byKey .pedal .capture (decideCapture 0 .absent false s) := by
  unfold State.pressPedal
  cases hst : s.rc.state with
  | active => rw [State.runActive, hst] at hact; exact nomatch hact
  | paused r => rw [State.runPaused, hst] at hpaus; exact nomatch hpaus
  | idle | ended e => exact if_pos hset

/-- The pendant's CAPTURE is tested as the host's where no run is ACTIVE. -/
theorem captureRefusal_pendant {profile : Nat} {rule : Option SideSelection} {sel : Selection} (hact : s.runActive = false) :
    s.captureRefusal profile rule sel false = s.captureRefusal profile rule sel true := by
  unfold State.captureRefusal
  rw [hact]
  rfl

/-! ### CONFIRM (02 R49, 07 R152) -/

/-- j after a CONFIRM in ATTENTION: the carry of a leaf in hand counts as made. -/
def State.confirmedTo (a : Attention) (s : State) : Nat :=
  if s.tc.leafInHand = true ∧ s.sau.volume.isSome = true then
    (match a.sign with
     | some true => s.tc.j + 1
     | some false => s.tc.j - 1
     | none => s.tc.j)
  else s.tc.j

theorem pressConfirm_seek (ht : s.tc.state = .seek) :
    s.pressConfirm = State.recorded .confirm (some .confirm) (some .ok) (s.withTc (Tc.released .unclamped)) := by
  have h : s.confirm? = some (s.withTc (Tc.released .unclamped)) := by
    unfold State.confirm?
    rw [ht]
  unfold State.pressConfirm
  rw [h]
  rfl

theorem pressConfirm_attention {a : Attention} (ht : s.tc.state = .attention) (ha : s.tc.attention = some a)
    (hpark : s.pins.armPark = true) (hup : s.pins.platenUp = true) :
    s.pressConfirm = State.recorded .confirm (some .confirm) (some .ok)
      (s.withTc fun t => { t.released .unclamped with j := s.confirmedTo a }) := by
  have h : s.confirm? = some (s.withTc fun t => { t.released .unclamped with j := s.confirmedTo a }) := by
    have hmounted : (s.tc.leafInHand && s.mounted) = true ↔ s.tc.leafInHand = true ∧ s.sau.volume.isSome = true :=
      Bool.and_eq_true_iff
    unfold State.confirm? State.confirmedTo
    rw [ht, ha, hpark, hup]
    simp only [hmounted]
    obtain ⟨code, _ | _ | _, n⟩ := a
    · dsimp only
      rw [ite_self]
      rfl
    · rfl
    · rfl
  unfold State.pressConfirm
  rw [h]
  rfl

theorem confirm?_ignores (h : (s.tc.state = .attention ∧ (s.pins.armPark = false ∨ s.pins.platenUp = false))
    ∨ s.tc.state ∉ [.seek, .attention]) : s.confirm? = none := by
  unfold State.confirm?
  rcases h with ⟨ht, hpins⟩ | ht
  · rw [ht]
    exact if_neg (by rcases hpins with h | h <;> simp [h])
  · split
    next h => exact absurd h (by simp_all)
    next h => exact absurd h (by simp_all)
    next => rfl

theorem pressConfirm_turned {v : Volume} (hv : s.sau.volume = some v) (ht : s.tc.state = .unclamped)
    (hrun : s.rc.state = .paused .manualTurn) :
    s.pressConfirm = State.recorded .confirm (some .confirm) (some .ok)
      { s with tc := { s.tc with j := if s.tc.j < v.n then s.tc.j + 1 else s.tc.j } } := by
  have h : s.confirm? = none := confirm?_ignores (.inr (by simp [ht]))
  have hn : s.leaves = v.n := by simp [State.leaves, hv]
  unfold State.pressConfirm
  rw [h]
  dsimp only
  rw [if_pos ⟨ht, hrun⟩]
  unfold State.handTurned
  rw [hn]
  rfl

theorem pressConfirm_ignored (h : (s.tc.state = .attention ∧ (s.pins.armPark = false ∨ s.pins.platenUp = false))
    ∨ (s.tc.state ∉ [.seek, .attention] ∧ ¬ (s.tc.state = .unclamped ∧ s.rc.state = .paused .manualTurn))) :
    s.pressConfirm = s.ignored .confirm := by
  have hnone : s.confirm? = none := confirm?_ignores (h.imp_right fun ⟨ht, _⟩ => ht)
  unfold State.pressConfirm
  rw [hnone]
  refine if_neg ?_
  rcases h with ⟨ht, -⟩ | ⟨-, h⟩
  · simp [ht]
  · exact h

end Sys2Proof.Machine
end

