-- ==== Sys2Proof/Proofs/PendantRetake.lean ====
section
/-! RETAKE and LAMP of the pendant (07 R158), and the tickets that RETAKE flags (06 R130). -/

namespace Sys2Proof.Machine

variable {s : State} {v : Volume} {side : Nat}

/-! ### The tickets (06 R130) -/

/-- A ticket of a mount with some of its halves flagged as superseded. -/
def Ticket.flagged (no : Nat) (halves : Half → Bool) (k : Ticket) : Ticket :=
  if k.mountNo = no ∧ k.orphaned = false then
    { k with
      left := k.left.map fun h => if halves h then { h with superseded := true } else h
      right := k.right.map fun h => if halves h then { h with superseded := true } else h }
  else k

theorem flagged_none (no : Nat) {halves : Half → Bool} (h : ∀ x, halves x = false) (k : Ticket) :
    k.flagged no halves = k := by
  unfold Ticket.flagged
  simp [h]

theorem supersede_flagged (no side : Nat) {halves : Half → Bool} (h : ∀ x, halves x = decide (x.side = side)) (k : Ticket) :
    k.supersede no side = k.flagged no halves := by
  rw [supersede_eq]
  unfold Ticket.flagged
  simp only [h, decide_eq_true_eq]

theorem flag_flag {a b c : Half → Bool} (hside : ∀ x, c x = (a x || b x))
    (hb : ∀ x : Half, b { x with superseded := true } = b x) (o : Option Half) :
    ((o.map fun h => if a h then { h with superseded := true } else h).map fun h =>
        if b h then { h with superseded := true } else h)
      = o.map fun h => if c h then { h with superseded := true } else h := by
  cases o with
  | none => rfl
  | some x =>
    simp only [Option.map_some, hside, Option.some.injEq]
    cases ha : a x <;> simp [hb]

/-- Two rounds of flagging are one. -/
theorem flagged_flagged (no : Nat) {a b c : Half → Bool} (hside : ∀ x, c x = (a x || b x))
    (hb : ∀ x : Half, b { x with superseded := true } = b x) (k : Ticket) :
    (k.flagged no a).flagged no b = k.flagged no c := by
  by_cases hk : k.mountNo = no ∧ k.orphaned = false
  · unfold Ticket.flagged
    simp only [hk, and_self, if_true, flag_flag hside hb]
  · unfold Ticket.flagged
    simp only [hk, if_false]

/-! ### One side (R158) -/

/-- A half that covers a side that is HELD. -/
def State.coversHeld (side : Nat) (s : State) (h : Half) : Bool :=
  decide (side ≠ 0 ∧ h.side = side ∧ s.sideState side = .held)

/-- A side set to RETAKE by the pendant, its covering halves flagged if it was HELD. -/
def State.withRetaken (v : Volume) (side : Nat) (s : State) : State :=
  { s.withSideSet v side (retaken (s.sideState side)) with
    cc := { s.cc with tickets := s.cc.tickets.map (Ticket.flagged v.mountNo (s.coversHeld side)) } }

theorem tickets_unflagged {no : Nat} {halves : Half → Bool} (h : ∀ x, halves x = false) (l : List Ticket) :
    l.map (Ticket.flagged no halves) = l := by
  rw [show Ticket.flagged no halves = id from funext (flagged_none no h), List.map_id]

theorem retakeSide_mounted (hv : s.sau.volume = some v) (h0 : side ≠ 0) : s.retakeSide side = s.withRetaken v side := by
  have hother : s.sideState side ≠ .held → s.withRetaken v side = s.withSideSet v side (retaken (s.sideState side)) := by
    intro hheld
    unfold State.withRetaken
    rw [tickets_unflagged fun x => by simp [State.coversHeld, hheld]]
    rfl
  have hstays : retaken (s.sideState side) = s.sideState side → s.sideState side ≠ .held → s = s.withRetaken v side :=
    fun hsame hheld => by rw [hother hheld, hsame, withSideSet_same hv rfl]
  unfold State.retakeSide
  rw [if_neg h0]
  cases hst : s.sideState side with
  | held =>
    have htickets : Ticket.supersede v.mountNo side = Ticket.flagged v.mountNo (s.coversHeld side) :=
      funext (supersede_flagged _ _ fun x => by simp [State.coversHeld, hst, h0])
    unfold State.withRetaken
    rw [← htickets, hst]
    dsimp only [State.supersede]
    rw [hv, setSide_mounted hv]
    exact rfl
  | accepted =>
    rw [hother (by rw [hst]; nofun), hst]
    exact setSide_mounted hv
  | pending => exact hstays (by rw [hst]; rfl) (by rw [hst]; nofun)
  | retake => exact hstays (by rw [hst]; rfl) (by rw [hst]; nofun)
  | blank => exact hstays (by rw [hst]; rfl) (by rw [hst]; nofun)
  | foldout => exact hstays (by rw [hst]; rfl) (by rw [hst]; nofun)
  | absent => exact hstays (by rw [hst]; rfl) (by rw [hst]; nofun)

/-- The same of either half of the current opening, also of one that the opening does not have. -/
theorem retakeSide_eq (hv : s.sau.volume = some v) {j : Nat} (hj : side ≠ 0 → side / 2 = j) :
    s.retakeSide side
      = { s with
          sau := { s.sau with openings := s.sau.openings.modify j fun o =>
            if side = 0 then o else withSide v.direction side (retaken (s.sideState side)) o }
          cc := { s.cc with tickets := s.cc.tickets.map (Ticket.flagged v.mountNo (s.coversHeld side)) } } := by
  by_cases h0 : side = 0
  · rw [tickets_unflagged fun x => by simp [State.coversHeld, h0], modify_same fun o _ => if_pos h0]
    exact if_pos h0
  · rw [retakeSide_mounted hv h0]
    unfold State.withRetaken State.withSideSet
    simp only [h0, if_false]
    rw [hj h0]

/-- The pendant's RETAKE leaves the other sides' states. -/
theorem retakeSide_otherSide (hv : s.sau.volume = some v) {other : Nat} (h : other ≠ side) :
    (s.retakeSide side).sideState other = s.sideState other := by
  by_cases h0 : side = 0
  · exact congrArg (State.sideState other) (if_pos h0)
  · rw [retakeSide_mounted hv h0]
    exact (sideState_sau rfl).trans (withSideSet_otherSide hv h)

/-! ### The two sides of the current opening (R158) -/

theorem modify_twice {α : Type} {l : List α} {i : Nat} {f g h : α → α} (hgf : ∀ o, l[i]? = some o → g (f o) = h o) :
    (l.modify i f).modify i g = l.modify i h := by
  apply List.ext_getElem?
  intro j
  by_cases hj : i = j
  · subst hj
    simp only [List.getElem?_modify_eq]
    cases ho : l[i]? with
    | none => rfl
    | some o => exact congrArg some (hgf o ho)
  · simp only [List.getElem?_modify_ne _ _ hj]

/-- An entry of the opening table after the pendant's RETAKE. -/
def State.retakes (s : State) (o : Opening) : Opening :=
  { o with
    left := if s.leftNow = 0 then o.left else retaken o.left
    right := if s.rightNow = 0 then o.right else retaken o.right }

section current
variable (hv : s.sau.volume = some v)
include hv

/-- The sides of the current opening stand there, one on each half. -/
theorem sides_current :
    (s.leftNow ≠ 0 → s.leftNow / 2 = s.tc.j ∧ onLeft v.direction s.leftNow = true)
    ∧ (s.rightNow ≠ 0 → s.rightNow / 2 = s.tc.j ∧ onLeft v.direction s.rightNow = false) := by
  simp only [State.leftNow, State.rightNow, hv]
  unfold leftSide rightSide onLeft
  cases v.direction with
  | ltr =>
    dsimp only
    split <;> simp
    omega
  | rtl =>
    dsimp only
    split <;> simp
    omega

theorem sideState_at {o : Opening} (ho : s.sau.openings[side / 2]? = some o) :
    s.sideState side = if onLeft v.direction side then o.left else o.right := by
  have hat : openingAt s.sau.openings (side / 2) = o := by
    rw [openingAt, List.getD_eq_getElem?_getD, ho]
    rfl
  simp only [State.sideState, hv, sideStateIn, hat]

/-- RETAKE of the left side and then of the right one. -/
theorem retake_both :
    (s.retakeSide s.leftNow).retakeSide s.rightNow
      = { s with
          sau := { s.sau with openings := s.sau.openings.modify s.tc.j s.retakes }
          cc := { s.cc with tickets := s.cc.tickets.map (Ticket.flagged v.mountNo s.halfRetaken) } } := by
  obtain ⟨hleft, hright⟩ := sides_current hv
  have hx := retakeSide_eq hv fun h => (hleft h).1
  have hstate : s.rightNow ≠ 0 → (s.retakeSide s.leftNow).sideState s.rightNow = s.sideState s.rightNow := by
    intro h
    refine retakeSide_otherSide hv fun hsame => ?_
    have hon := (hleft (hsame ▸ h)).2
    rw [← hsame, (hright h).2] at hon
    exact nomatch hon
  obtain ⟨x, hxdef⟩ : ∃ x, x = s.retakeSide s.leftNow := ⟨_, rfl⟩
  rw [← hxdef] at hx hstate ⊢
  rw [retakeSide_eq (s := x) (by rw [hx]; exact hv) fun h => (hright h).1]
  have hcovers : ∀ h : Half, s.halfRetaken h = (s.coversHeld s.leftNow h || x.coversHeld s.rightNow h) := by
    intro h
    unfold State.halfRetaken State.coversHeld
    rw [← Bool.decide_or]
    refine decide_eq_decide.2 ⟨fun ⟨h0, hside, hheld⟩ => ?_, fun h' => ?_⟩
    · rcases hside with hl | hr
      · exact .inl ⟨hl ▸ h0, hl, hl ▸ hheld⟩
      · exact .inr ⟨hr ▸ h0, hr, (hstate (hr ▸ h0)).trans (hr ▸ hheld)⟩
    · rcases h' with ⟨h0, hl, hheld⟩ | ⟨h0, hr, hheld⟩
      · exact ⟨hl ▸ h0, .inl hl, hl ▸ hheld⟩
      · exact ⟨hr ▸ h0, .inr hr, hr ▸ (hstate h0).symm.trans hheld⟩
  have hflagged : ∀ k : Ticket, (k.flagged v.mountNo (s.coversHeld s.leftNow)).flagged v.mountNo (x.coversHeld s.rightNow)
      = k.flagged v.mountNo s.halfRetaken := flagged_flagged v.mountNo hcovers fun _ => rfl
  have hopenings : ∀ o, s.sau.openings[s.tc.j]? = some o →
      (fun o => if s.rightNow = 0 then o else withSide v.direction s.rightNow (retaken (x.sideState s.rightNow)) o)
        ((fun o => if s.leftNow = 0 then o else withSide v.direction s.leftNow (retaken (s.sideState s.leftNow)) o) o)
        = s.retakes o := by
    intro o ho
    have hl : s.leftNow ≠ 0 → ∀ p, withSide v.direction s.leftNow (retaken (s.sideState s.leftNow)) p
        = { p with left := retaken o.left } := fun h0 p => by
      obtain ⟨hj, hon⟩ := hleft h0
      rw [sideState_at hv (by rw [hj]; exact ho), withSide, hon]
      rfl
    have hr : s.rightNow ≠ 0 → ∀ p, withSide v.direction s.rightNow (retaken (x.sideState s.rightNow)) p
        = { p with right := retaken o.right } := fun h0 p => by
      obtain ⟨hj, hon⟩ := hright h0
      rw [hstate h0, sideState_at hv (by rw [hj]; exact ho), withSide, hon]
      rfl
    unfold State.retakes
    by_cases h1 : s.leftNow = 0 <;> by_cases h2 : s.rightNow = 0 <;> simp [h1, h2, hl, hr]
  rw [hx] at hflagged hopenings ⊢
  dsimp only
  rw [modify_twice hopenings, List.map_map, show _ ∘ _ = _ from funext hflagged]

/-- The press RETAKE in LOCAL. -/
theorem pressRetake_takes (ht : s.tc.state ≠ .seek) :
    s.pressRetake = State.recorded .retake (some .retake) (some .ok)
      { s with
        sau := { s.sau with openings := s.sau.openings.modify s.tc.j s.retakes }
        cc := { s.cc with tickets := s.cc.tickets.map (Ticket.flagged v.mountNo s.halfRetaken) } } := by
  rw [← retake_both hv]
  exact if_neg (by simp [State.mounted, hv, ht])

end current

theorem pressRetake_ignored (h : s.sau.volume = none ∨ s.tc.state = .seek) : s.pressRetake = s.ignored .retake :=
  if_pos (by rcases h with h | h <;> simp [State.mounted, h])

/-! ### LAMP (R71, R158) -/

theorem pressLamp_ends (h : s.lc.preview.isSome = true) :
    s.pressLamp = State.recorded .lamp (some .previewOff) (some .ok) (s.endPreview .off) := by
  have hd : decidePreviewOff s = answer .ok [] (s.endPreview .off) := if_pos h
  unfold State.pressLamp
  rw [if_pos h, hd]
  rfl

section unlit
variable (h : s.lc.preview = none)
include h

theorem pressLamp_refused {r : Result} (hr : s.previewRefusal 0 10 = some r) :
    s.pressLamp = State.recorded .lamp (some .preview) (some r) s := by
  unfold State.pressLamp decidePreview
  rw [h, hr]
  rfl

theorem pressLamp_lights (hr : s.previewRefusal 0 10 = none) :
    s.pressLamp = State.recorded .lamp (some .preview) (some .ok) (s.lightPreview 0 10) := by
  unfold State.pressLamp decidePreview
  rw [h, hr]
  rfl

end unlit

/-- A preview is admitted only with none lit. -/
theorem previewRefusal_unlit {profile duration : Nat} (h : s.previewRefusal profile duration = none) :
    s.lc.preview = none := by
  unfold State.previewRefusal at h
  cases hp : s.lc.preview with
  | none => rfl
  | some p =>
    simp only [hp, Option.isSome_some, Bool.or_true, if_true] at h
    split_ifs at h

end Sys2Proof.Machine
end

