-- ==== Sys2Proof/Proofs/Pendant.lean ====
section
/-! The pendant (07 R156 to R158): the clauses of O59 from what each reading and each press leaves. -/

namespace Sys2Proof.Machine

variable {s : State}

/-- A reading of an input, as one record. -/
theorem read_eq (level : Bool) (now : Nat) (i : KeyInput) :
    i.read level now
      = { stable := i.stable, candidate := if level = i.stable then none else i.candidate.or (some (level, now)) } := by
  obtain ⟨stable, candidate⟩ := i
  unfold KeyInput.read
  by_cases h : level = stable
  · simp [h]
  · cases candidate <;> simp [h]

theorem captureRefusal_none_mounted {profile : Nat} {rule : Option SideSelection} {sel : Selection} {fromHost : Bool}
    (h : s.captureRefusal profile rule sel fromHost = none) : ∃ v, s.sau.volume = some v := by
  cases hv : s.sau.volume with
  | some v => exact ⟨v, rfl⟩
  | none => simp [State.captureRefusal, State.mounted, hv] at h

theorem openCapture_now {v : Volume} (hv : s.sau.volume = some v) (profile : Nat) (sel : Selection) :
    (s.openCapture profile sel).now = s.now := by
  rw [openCapture_mounted hv]
  exact endPreview_now s .cut

/-- Settles O59, by the key and by what its action leaves. -/
theorem pendantKeysAreDebounced : Obligations.PendantKeysAreDebounced := by
  refine ⟨fun tag s hs => ⟨?other, fun m => ?mode⟩, fun k level i s hs hi => ?reading,
    fun k since s p hs hstart hc hnow hp => ⟨fun hm hk => ?silent,
      fun hk => ⟨fun ht hact hpaus => ?haltHoming, fun ht hact hpaus => ?haltMoving, fun ht => ⟨fun hact => ?haltRun,
        fun hrun => ?haltTickets⟩⟩,
      fun hm => ⟨fun hk => ?mark,
        fun hk => ⟨fun h => ?pedalIgnored,
          fun reason a b hrun hfault hguard ha hb => ⟨fun hout => ?pedalOut, fun h1 h2 hreason hopening => ?pedalTurn⟩,
          fun rule hact hpaus hset hrule => ⟨fun r h hr => ?pedalRefused, fun h => ?pedalCaptures⟩⟩,
        fun hk => ⟨fun ht => ?confirmSeek, fun a ht ha hpark hup => ?confirmAttention, fun v hv ht hrun => ?confirmTurned,
          fun h => ?confirmIgnored⟩,
        fun hk => ⟨fun h => ?retakeIgnored, fun v hv ht => ?retakes⟩,
        fun hk => ⟨fun h => ?lampEnds, fun r h hr => ?lampRefused, fun hv h hact => ?lampRun, fun hr => ?lampLights⟩⟩⟩⟩
  case other => exact exec_unchanged hs rfl rfl rfl (fun _ => nofun) rfl
  case mode => exact exec_decided hs rfl rfl rfl (fun _ => nofun) rfl rfl rfl
  case reading =>
    obtain ⟨hp, hqueue, hquiet⟩ := hs
    refine pinEvent_next hp ?_ hqueue hquiet
    unfold State.inputChange State.setInput
    rw [read_eq, hi]
  case silent =>
    subst hp
    obtain ⟨-, -, hquiet⟩ := id hs
    exact exec_keyPress hs hstart hc hnow (pressActs_silent (s := s.debounced k since) hm hk) rfl (onlyNotices_refl _) hquiet
  case haltHoming =>
    subst hk hp
    obtain ⟨-, -, hquiet⟩ := id hs
    have hd := decideHalt_homing (s := s.debounced .halt since) hact hpaus ht
    exact exec_keyPress hs hstart hc hnow (pressActs_halt.trans (congrArg (State.byKey .halt .halt) hd)) rfl
      (onlyNotices_refl _) hquiet
  case haltMoving =>
    subst hk hp
    obtain ⟨-, -, hquiet⟩ := id hs
    have hd := decideHalt_moving (s := s.debounced .halt since) hact hpaus ht
    exact exec_keyPress hs hstart hc hnow (pressActs_halt.trans (congrArg (State.byKey .halt .halt) hd)) rfl
      (onlyNotices_refl _) hquiet
  case haltRun =>
    subst hk hp
    obtain ⟨-, -, hquiet⟩ := id hs
    have hw := runQuiet_active hquiet hact
    obtain ⟨hend, hclose, -⟩ := hquiet
    have hd := (decideHalt_atRest (s := s.debounced .halt since) ht).trans
      (congrArg (·, _) (rcHalt_active (s := s.debounced .halt since) (runActive_iff.1 hact) hw))
    exact exec_keyPress hs hstart hc hnow (pressActs_halt.trans (congrArg (State.byKey .halt .halt) hd)) rfl
      (onlyNotices_refl _) ⟨hend, hclose, fun h => hw h.2⟩
  case haltTickets =>
    subst hk hp
    obtain ⟨-, -, hend, hclose, -⟩ := id hs
    have hlk := setRun_lk (s.debounced .halt since) (.paused .halt)
    have hd := (decideHalt_atRest (s := s.debounced .halt since) ht).trans
      (congrArg (·, _) ((rcHalt_tickets (s := s.debounced .halt since) hrun).trans (setRun_eq _ _)))
    obtain ⟨t, hexec, hleaves⟩ := exec_keyPress hs hstart hc hnow
      (pressActs_halt.trans (congrArg (State.byKey .halt .halt) hd)) rfl hlk ⟨hend, hclose, fun h => nomatch h.1⟩
    exact ⟨t, _, hexec, hleaves⟩
  case mark =>
    subst hk hp
    exact exec_keyPress_local hs hstart hc hnow hm rfl rfl rfl rfl
  case pedalIgnored =>
    subst hk hp
    exact exec_keyPress_local hs hstart hc hnow hm (pressPedal_ignored (s := s.debounced .pedal since) h) rfl rfl rfl
  case pedalOut =>
    subst hk hp
    obtain ⟨-, -, hend, hclose, -⟩ := id hs
    have hstops := endRun_stops .outOfRange (s.debounced .pedal since)
    have hd := (pressPedal_resumes (s := s.debounced .pedal since) hrun hfault hguard).trans
      (congrArg (State.byKey .pedal .resume) ((rcResume_outside (outOfRun_outside (s := s.debounced .pedal since) ha hb hout)).trans
        (congrArg (answer .ok []) hstops.1)))
    obtain ⟨t, hexec, hleaves⟩ := exec_keyPress hs hstart hc hnow
      ((pressActs_local (s := s.debounced .pedal since) hm).trans hd) rfl hstops.2 ⟨hend, hclose, fun h => nomatch h.1⟩
    exact ⟨t, _, hexec, hleaves⟩
  case pedalTurn =>
    subst hk hp
    have hd := (pressPedal_resumes (s := s.debounced .pedal since) hrun hfault hguard).trans
      (congrArg (State.byKey .pedal .resume) (rcResume_manualTurn (outOfRun_inside (s := s.debounced .pedal since) ha hb h1 h2)
        ⟨hreason, hopening⟩))
    exact exec_keyPress_local hs hstart hc hnow hm hd rfl rfl rfl
  case pedalRefused =>
    subst hk hp
    have hd := (pressPedal_captures (s := s.debounced .pedal since) hact hpaus hset).trans
      (congrArg (State.byKey .pedal .capture) (decideCapture_refused (s := s.debounced .pedal since)
        (selectionRule_some (.inr ⟨rfl, hrule⟩)) ((captureRefusal_pendant (s := s.debounced .pedal since) hact).trans h) hr))
    exact exec_keyPress_local hs hstart hc hnow hm hd rfl rfl rfl
  case pedalCaptures =>
    subst hk hp
    obtain ⟨v, hv⟩ := captureRefusal_none_mounted h
    have hd := (pressPedal_captures (s := s.debounced .pedal since) hact hpaus hset).trans
      (congrArg (State.byKey .pedal .capture) (decideCapture_accepted (s := s.debounced .pedal since)
        (selectionRule_some (.inr ⟨rfl, hrule⟩)) ((captureRefusal_pendant (s := s.debounced .pedal since) hact).trans h)))
    obtain ⟨hcc, hlength, htc, hrc, -, hfb, hps, hset', hlk⟩ := openCapture_leaves (s := s.debounced .pedal since)
      (profile := 0) hv (s.select rule)
    obtain ⟨t, hexec, hframe, -⟩ := exec_keyPress_local hs hstart hc hnow hm hd hset' hlk hrc
    refine ⟨t, hexec, ?_⟩
    rw [hframe]
    refine ⟨hcc, hlength, htc, hrc, hfb, ?_⟩
    unfold State.recorded
    rw [← openCapture_now (s := s.debounced .pedal since) hv 0 (s.select rule), ← hps]
    rfl
  case confirmSeek =>
    subst hk hp
    obtain ⟨t, hexec, hleaves⟩ := exec_keyPress_local hs hstart hc hnow hm
      (pressConfirm_seek (s := s.debounced .confirm since) ht) rfl rfl rfl
    have htc : t.tc = s.tc.released .unclamped := by rw [hleaves.1]; rfl
    refine ⟨t, hexec, ?_⟩
    rw [htc]
    exact ⟨rfl, rfl, rfl, hleaves⟩
  case confirmAttention =>
    subst hk hp
    obtain ⟨t, hexec, hleaves⟩ := exec_keyPress_local hs hstart hc hnow hm
      (pressConfirm_attention (s := s.debounced .confirm since) ht ha hpark hup) rfl rfl rfl
    have htc : t.tc = { s.tc.released .unclamped with j := s.confirmedTo a } := by rw [hleaves.1]; rfl
    refine ⟨t, hexec, ?_⟩
    rw [htc]
    exact ⟨rfl, rfl, rfl, rfl, rfl, hleaves⟩
  case confirmTurned =>
    subst hk hp
    exact exec_keyPress_local hs hstart hc hnow hm (pressConfirm_turned (s := s.debounced .confirm since) hv ht hrun) rfl rfl
      rfl
  case confirmIgnored =>
    subst hk hp
    exact exec_keyPress_local hs hstart hc hnow hm (pressConfirm_ignored (s := s.debounced .confirm since) h) rfl rfl rfl
  case retakeIgnored =>
    subst hk hp
    exact exec_keyPress_local hs hstart hc hnow hm (pressRetake_ignored (s := s.debounced .retake since) h) rfl rfl rfl
  case retakes =>
    subst hk hp
    exact exec_keyPress_local hs hstart hc hnow hm (pressRetake_takes (s := s.debounced .retake since) hv ht) rfl rfl rfl
  case lampEnds =>
    subst hk hp
    obtain ⟨q, hq⟩ := Option.isSome_iff_exists.mp h
    obtain ⟨learned, -, hended⟩ := endPreview_some (s := s.debounced .lamp since) .off hq
    obtain ⟨t, hexec, hleaves⟩ := exec_keyPress_local hs hstart hc hnow hm
      ((pressLamp_ends (s := s.debounced .lamp since) h).trans (congrArg _ hended)) rfl rfl rfl
    have hframe := hleaves.1
    refine ⟨t, hexec, by rw [hframe]; rfl, by rw [hframe]; rfl, fun b => ?_, ?_⟩
    · rw [hframe]
      simp [State.recorded, BankRec.dark]
    · rw [hframe] at hleaves ⊢
      exact hleaves
  case lampRefused =>
    subst hk hp
    exact exec_keyPress_local hs hstart hc hnow hm (pressLamp_refused (s := s.debounced .lamp since) h hr) rfl rfl rfl
  case lampRun => exact (previewRefusal_mounted hv (by decide)).trans (if_pos (by rw [hact]; rfl))
  case lampLights =>
    subst hk hp
    obtain ⟨t, hexec, hleaves⟩ := exec_keyPress_local hs hstart hc hnow hm
      (pressLamp_lights (s := s.debounced .lamp since) (previewRefusal_unlit hr) hr) rfl rfl rfl
    have hlc : t.lc = (State.lightPreview 0 10 (s.debounced .lamp since)).lc := by rw [hleaves.1]; rfl
    refine ⟨t, hexec, ?_⟩
    rw [hlc]
    exact ⟨rfl, hleaves⟩

end Sys2Proof.Machine
end
